-- ==== Sys2Proof/Word.lean ====
section
/-! DEFINITION. The word types of the Z7 and their plainest arithmetic. -/

namespace Sys2Proof

/-- A byte of memory (R5). -/
abbrev Byte := BitVec 8

/-- A 64-bit scalar register, control register or table word. -/
abbrev W64 := BitVec 64

/-- A 1024-bit vector register (R60). -/
abbrev V1024 := BitVec 1024

/-- A 128-bit lane mask (R60). -/
abbrev Mask := BitVec 128

/-- One bit as a word of any width. -/
def bit {w : Nat} (b : Bool) : BitVec w := if b then 1 else 0

/-- Bits [hi:lo] of a word, both included (R4), as a number. -/
def field {w : Nat} (x : BitVec w) (hi lo : Nat) : Nat := (x.toNat / 2 ^ lo) % 2 ^ (hi + 1 - lo)

/-- Bits [hi:lo] of a word as a word of width n (R14). -/
def slice {w : Nat} (x : BitVec w) (lo n : Nat) : BitVec n := x.extractLsb' lo n

/-- An answer or a named reason why there is none. -/
inductive Res (ε α : Type) where
  | error (e : ε)
  | ok (a : α)
deriving DecidableEq, Repr

/-- Applies a function to the answer. -/
def Res.map {ε α β : Type} (f : α → β) : Res ε α → Res ε β
  | .error e => .error e
  | .ok a => .ok (f a)

/-- Whether there is an answer. -/
def Res.isOk {ε α : Type} : Res ε α → Bool
  | .error _ => false
  | .ok _ => true

end Sys2Proof
end

