-- ==== Sys2Proof/Machine/Cipher.lean ====
section
/-! DEFINITION. Machine/Cipher.lean: the AES-XTS of R143, AES of FIPS 197 with 256-bit keys in the XTS mode of IEEE 1619.
It runs over lines of 128 bytes, the line's address being the tweak. A block is 16 bytes, kept as numbers below 256 (log entry 6). -/

namespace Sys2Proof.Machine

/-- The substitution of AES by its input byte. -/
def aesSBox : List Nat :=
  [0x63, 0x7C, 0x77, 0x7B, 0xF2, 0x6B, 0x6F, 0xC5, 0x30, 0x01, 0x67, 0x2B, 0xFE, 0xD7, 0xAB, 0x76] ++
  [0xCA, 0x82, 0xC9, 0x7D, 0xFA, 0x59, 0x47, 0xF0, 0xAD, 0xD4, 0xA2, 0xAF, 0x9C, 0xA4, 0x72, 0xC0] ++
  [0xB7, 0xFD, 0x93, 0x26, 0x36, 0x3F, 0xF7, 0xCC, 0x34, 0xA5, 0xE5, 0xF1, 0x71, 0xD8, 0x31, 0x15] ++
  [0x04, 0xC7, 0x23, 0xC3, 0x18, 0x96, 0x05, 0x9A, 0x07, 0x12, 0x80, 0xE2, 0xEB, 0x27, 0xB2, 0x75] ++
  [0x09, 0x83, 0x2C, 0x1A, 0x1B, 0x6E, 0x5A, 0xA0, 0x52, 0x3B, 0xD6, 0xB3, 0x29, 0xE3, 0x2F, 0x84] ++
  [0x53, 0xD1, 0x00, 0xED, 0x20, 0xFC, 0xB1, 0x5B, 0x6A, 0xCB, 0xBE, 0x39, 0x4A, 0x4C, 0x58, 0xCF] ++
  [0xD0, 0xEF, 0xAA, 0xFB, 0x43, 0x4D, 0x33, 0x85, 0x45, 0xF9, 0x02, 0x7F, 0x50, 0x3C, 0x9F, 0xA8] ++
  [0x51, 0xA3, 0x40, 0x8F, 0x92, 0x9D, 0x38, 0xF5, 0xBC, 0xB6, 0xDA, 0x21, 0x10, 0xFF, 0xF3, 0xD2] ++
  [0xCD, 0x0C, 0x13, 0xEC, 0x5F, 0x97, 0x44, 0x17, 0xC4, 0xA7, 0x7E, 0x3D, 0x64, 0x5D, 0x19, 0x73] ++
  [0x60, 0x81, 0x4F, 0xDC, 0x22, 0x2A, 0x90, 0x88, 0x46, 0xEE, 0xB8, 0x14, 0xDE, 0x5E, 0x0B, 0xDB] ++
  [0xE0, 0x32, 0x3A, 0x0A, 0x49, 0x06, 0x24, 0x5C, 0xC2, 0xD3, 0xAC, 0x62, 0x91, 0x95, 0xE4, 0x79] ++
  [0xE7, 0xC8, 0x37, 0x6D, 0x8D, 0xD5, 0x4E, 0xA9, 0x6C, 0x56, 0xF4, 0xEA, 0x65, 0x7A, 0xAE, 0x08] ++
  [0xBA, 0x78, 0x25, 0x2E, 0x1C, 0xA6, 0xB4, 0xC6, 0xE8, 0xDD, 0x74, 0x1F, 0x4B, 0xBD, 0x8B, 0x8A] ++
  [0x70, 0x3E, 0xB5, 0x66, 0x48, 0x03, 0xF6, 0x0E, 0x61, 0x35, 0x57, 0xB9, 0x86, 0xC1, 0x1D, 0x9E] ++
  [0xE1, 0xF8, 0x98, 0x11, 0x69, 0xD9, 0x8E, 0x94, 0x9B, 0x1E, 0x87, 0xE9, 0xCE, 0x55, 0x28, 0xDF] ++
  [0x8C, 0xA1, 0x89, 0x0D, 0xBF, 0xE6, 0x42, 0x68, 0x41, 0x99, 0x2D, 0x0F, 0xB0, 0x54, 0xBB, 0x16]

/-- The substitution of a byte, and its inverse. -/
def aesSub (x : Nat) : Nat := aesSBox.getD x 0
def aesUnsub (x : Nat) : Nat := aesSBox.idxOf x

/-- A byte times x in the field of AES. -/
def aesTwice (a : Nat) : Nat := if a < 128 then 2 * a else (2 * a) ^^^ 0x11B

/-- A byte times a small number in the field of AES, by the bits of the number. -/
def aesTimes (a n : Nat) : Nat :=
  let b := aesTwice a
  let c := aesTwice b
  (if n.testBit 0 then a else 0) ^^^ (if n.testBit 1 then b else 0) ^^^ (if n.testBit 2 then c else 0) ^^^ if n.testBit 3 then aesTwice c else 0

/-- Bytes combined by exclusive OR. -/
def xorBytes (a b : List Nat) : List Nat := List.zipWith (· ^^^ ·) a b

/-! ### The key schedule of a 256-bit key -/

/-- Word `i` of the schedule, from the word before it and the one eight before it. -/
def aesNextWord (i rcon : Nat) (prev back : List Nat) : List Nat :=
  let t := if i % 8 = 0 then xorBytes ((prev.drop 1 ++ prev.take 1).map aesSub) [rcon, 0, 0, 0]
    else if i % 8 = 4 then prev.map aesSub else prev
  xorBytes back t

/-- `n` more words of the schedule, whose words so far stand in `ws` with the latest first; `i` is the number of the next. -/
def aesExpand : Nat → Nat → Nat → List (List Nat) → List (List Nat)
  | 0, _, _, ws => ws
  | n + 1, i, rcon, ws =>
    aesExpand n (i + 1) (if i % 8 = 0 then aesTwice rcon else rcon) (aesNextWord i rcon (ws.getD 0 []) (ws.getD 7 []) :: ws)

/-- The bytes of a key, byte 0 first. -/
def keyBytes (k : BitVec 256) : List Nat := (List.range 32).map fun i => k.toNat / 256 ^ i % 256

/-- The 15 round keys of a key, in order. -/
def aesKeys (k : BitVec 256) : List (List Nat) :=
  let b := keyBytes k
  let ws := (aesExpand 52 8 1 (((List.range 8).map fun i => (b.drop (4 * i)).take 4).reverse)).reverse
  (List.range 15).map fun r => ((ws.drop (4 * r)).take 4).flatten

/-! ### One block -/

/-- The bytes of a block with its rows shifted left, or right with `back`; byte r + 4 c is row r of column c. -/
def aesShift (back : Bool) (b : List Nat) : List Nat :=
  (List.range 16).map fun i => let r := i % 4; b.getD ((4 * ((i / 4 + if back then 4 - r else r) % 4) + r)) 0

/-- The columns of a block multiplied by the circulant of four coefficients. -/
def aesMix (k : List Nat) (b : List Nat) : List Nat :=
  (List.range 16).map fun i =>
    let r := i % 4
    (List.range 4).foldl (fun x j => x ^^^ aesTimes (b.getD (4 * (i / 4) + j) 0) (k.getD ((j + 4 - r) % 4) 0)) 0

/-- The coefficients of the mixing of columns, and of its inverse. -/
def aesMixing : List Nat := [2, 3, 1, 1]
def aesUnmixing : List Nat := [14, 11, 13, 9]

/-- A block enciphered under round keys. -/
def aesEncrypt (ks : List (List Nat)) (b : List Nat) : List Nat :=
  let mid := ((ks.drop 1).take 13).foldl (fun x k => xorBytes (aesMix aesMixing (aesShift false (x.map aesSub))) k) (xorBytes b (ks.getD 0 []))
  xorBytes (aesShift false (mid.map aesSub)) (ks.getD 14 [])

/-- A block deciphered under round keys. -/
def aesDecrypt (ks : List (List Nat)) (b : List Nat) : List Nat :=
  let first := (aesShift true (xorBytes b (ks.getD 14 []))).map aesUnsub
  let mid := ((ks.drop 1).take 13).reverse.foldl (fun x k => (aesShift true (aesMix aesUnmixing (xorBytes x k))).map aesUnsub) first
  xorBytes mid (ks.getD 0 [])

/-! ### XTS over a line -/

/-- A tweak as a little-endian number of 128 bits times x in the field of XTS. -/
def xtsTwice (t : Nat) : Nat := if t < 2 ^ 127 then 2 * t else (2 * t) ^^^ (2 ^ 128 + 0x87)

/-- A tweak times x to the j. -/
def xtsPower (t : Nat) : Nat → Nat
  | 0 => t
  | j + 1 => xtsTwice (xtsPower t j)

/-- The 16 bytes of a number, lowest first, and their number. -/
def blockBytes (x : Nat) : List Nat := (List.range 16).map fun i => x / 256 ^ i % 256
def blockNumber : List Nat → Nat
  | [] => 0
  | b :: r => b + 256 * blockNumber r

/-- Blocks of 16 bytes of a line, from block j on, enciphered or deciphered with `cipher` under the line's tweak. -/
def xtsBlocks (cipher : List Nat → List Nat) (t : Nat) : Nat → Nat → List Nat → List Nat
  | 0, _, _ => []
  | n + 1, j, bs =>
    let w := blockBytes (xtsPower t j)
    xorBytes (cipher (xorBytes (bs.take 16) w)) w ++ xtsBlocks cipher t n (j + 1) (bs.drop 16)

/-- The 32 bytes of a sector at an address, enciphered (`enc`) or deciphered under a key pair: R143's line is the 128 bytes around it. -/
def xtsSector (enc : Bool) (dataKey tweakKey : BitVec 256) (addr : Nat) (bs : List (BitVec 8)) : List (BitVec 8) :=
  let t := blockNumber (aesEncrypt (aesKeys tweakKey) (blockBytes (addr / 128 * 128)))
  let ks := aesKeys dataKey
  (xtsBlocks (if enc then aesEncrypt ks else aesDecrypt ks) t 2 (addr % 128 / 16) (bs.map (·.toNat))).map (BitVec.ofNat 8)

end Sys2Proof.Machine
end

