-- ==== Sys2Proof/Config.lean ====
section
/-! DEFINITION. Config.lean: what the manual leaves to the part. Every constant here is opaque: nothing can be proved of its
value, and a statement that mentions one holds for every value. -/

namespace Sys2Proof.Config

/-- Which of the results that R217 allows an f32 special function returns for an input: a fixed function of the function's
opcode and the input's bits (log entry 5). -/
opaque specialPick : Nat → Nat → Nat

/-- The bits at a position of a sparse group whose first position is not below its second: the index nibble, the two values and
the position (R153; log entry 8). -/
opaque badGroup : Nat → Nat → Nat → Nat → Nat

/-- The bits of a window row's last byte that lie beyond the row's elements, by bit number (R146; log entry 8). -/
opaque rowTail : Nat → Nat

/-- The digest of Kelaux's root key in the boot ROM (R411; log entry 7). -/
opaque rootDigest : List (BitVec 8)

/-- The last-known-good core map in a blob's section of type 3, in the order of RESMAP: 512 D-cores, then 256 S-cores (R412; log entry 36). -/
opaque goodCores : List (BitVec 8) → BitVec 768

/-- SHAKE256 of a byte list, first 64 bytes (R410, R423; log entry 7). -/
opaque shake256 : List (BitVec 8) → List (BitVec 8)

/-- Whether an ML-DSA signature (public key, message, signature) verifies (R410; log entry 7). -/
opaque verifies : List (BitVec 8) → List (BitVec 8) → List (BitVec 8) → Bool

/-- The ML-DSA-65 signature of a message under the key generated from ξ (R423; log entry 7). -/
opaque signature : List (BitVec 8) → List (BitVec 8) → List (BitVec 8)

/-- The ML-DSA-65 public key generated from ξ (R413; log entry 7). -/
opaque publicKey : List (BitVec 8) → List (BitVec 8)

/-- The seed that the fuzzy extractor recovers from the power-on contents of the identity array and the helper data; none when its check fails
(R413; log entry 7). -/
opaque extract : List (BitVec 8) → List (BitVec 8) → Option (List (BitVec 8))

/-- The core voltage in mV of an island at a frequency in MHz, under the blob's section of type 5 (R412, R437; log entry 36). -/
opaque coreVoltage : List (BitVec 8) → Nat → Nat → BitVec 12

/-- A 64-bit value that the manual leaves open, by a running number (log entry 8). -/
opaque freeWord : Nat → BitVec 64

end Sys2Proof.Config
end

