-- ==== Sys2Proof/Syntax.lean ====
section
/-! DEFINITION. Syntax.lean: the operations of the Z7 as terms: every row of spec/opcode_table.json is one
constructor of `Instr`. Rows 0 to 183 are slot operations of a bundle (R73 to R90), the others are commands of the
streams (R358), writes and messages of outside agents, and events of the part's own agents. -/

namespace Sys2Proof

/-! ### Codes -/

/-- Element types of the V slots, codes 0 to 10 (R97). -/
inductive ElemTy where
  | f32 | bf16 | f16 | i32 | i16 | i8 | u32 | u16 | u8 | e4m3 | e5m2
deriving DecidableEq, Repr

/-- Matrix formats of fmtA and fmtB (R84). -/
inductive MatFmt where
  | f64 | bf16 | f16 | e4m3 | e5m2 | mxfp4 | tx6 | i8 | q4g
deriving DecidableEq, Repr

/-- Access widths of the L and T formats (R85): 1, 2, 4, 8 and 128 bytes. -/
inductive Width where
  | b | h | w | d | v
deriving DecidableEq, Repr

/-- Order codes of the L and T formats (R85). -/
inductive Order where
  | plain | acquire | release
deriving DecidableEq, Repr

/-- Scopes (R12). -/
inductive Scope where
  | context | core | cluster | die | package | system
deriving DecidableEq, Repr

/-- The two vector slots (R73). -/
inductive VUnit where
  | v0 | v1
deriving DecidableEq, Repr

/-- The queued spaces, in the order of the `waitr` mask (R300). -/
inductive QSpace where
  | k | d | m | f | h
deriving DecidableEq, Repr

/-- The operations of `amo`, codes 0 to 10 (R261). -/
inductive AmoKind where
  | add | min | max | minu | maxu | and | or | xor | swap | cas | fadd
deriving DecidableEq, Repr

/-- The scale latches, codes 0 to 3 of the X slot (R228). -/
inductive Latch where
  | sa0 | sa1 | sb0 | sb1
deriving DecidableEq, Repr

/-! ### Operand records of the slots -/

/-- A guard predicate and its negation (R81); p0 without negation is unconditional. -/
structure Guard where
  p : BitVec 4
  neg : Bool
deriving DecidableEq, Repr

/-- S.R with two sources (R81). -/
structure SRR where
  g : Guard
  d : BitVec 6
  a : BitVec 6
  b : BitVec 6
deriving DecidableEq, Repr

/-- S.I with one source and imm32 (R81). -/
structure SRI where
  g : Guard
  d : BitVec 6
  a : BitVec 6
  imm : BitVec 32
deriving DecidableEq, Repr

/-- S.R with one source. -/
structure SR where
  g : Guard
  d : BitVec 6
  a : BitVec 6
deriving DecidableEq, Repr

/-- A predicate operation of two sources with negations (R182). -/
structure SPP where
  g : Guard
  d : BitVec 4
  a : BitVec 4
  b : BitVec 4
  na : Bool
  nb : Bool
deriving DecidableEq, Repr

/-- The source of a CSR write (R193): a scalar register or imm20. -/
inductive CsrSrc where
  | reg (a : BitVec 6)
  | imm (x : BitVec 20)
deriving DecidableEq, Repr

/-- A CSR write of S.C (R193). -/
structure SC where
  g : Guard
  d : BitVec 6
  csr : BitVec 12
  src : CsrSrc
deriving DecidableEq, Repr

/-- V.R (R83): `ext` is ext6, whose meaning the entry of the operation gives (R206). -/
structure VOp where
  u : VUnit
  m : BitVec 3
  ty : ElemTy
  vd : BitVec 6
  va : BitVec 6
  vb : BitVec 6
  vc : BitVec 6
  rm : BitVec 2
  sat : Bool
  ext : BitVec 6
deriving DecidableEq, Repr

/-- The M format of `mma` and `mmr` (R238, R241); for `mmr`, `sA` names the row buffer. -/
structure MMul where
  g : Guard
  tile : BitVec 2
  fa : MatFmt
  fb : MatFmt
  kb1 : BitVec 4
  bank : Bool
  sA : BitVec 6
  sB : BitVec 6
deriving DecidableEq, Repr

/-- The M format of `mst`, `mld`, `mrd` and `mwr` (R242): `reg` is the dst field, `code` ext [11:8], `lo` ext [7:0]. -/
structure MMove where
  g : Guard
  tile : BitVec 2
  reg : BitVec 6
  rm : BitVec 2
  code : BitVec 4
  lo : BitVec 8
deriving DecidableEq, Repr

/-- The fields that every L and T operation shares (R85): `file` is true for a vector register. -/
structure Acc where
  g : Guard
  file : Bool
  reg : BitVec 6
  width : Width
  order : Order
  scope : Scope
deriving DecidableEq, Repr

/-- An access by base scalar register and signed displacement (R128 to R130). -/
structure MemB where
  acc : Acc
  base : BitVec 6
  disp : BitVec 30
deriving DecidableEq, Repr

/-- An access by handle and five coordinate registers (R132). -/
structure MemH where
  acc : Acc
  h : BitVec 4
  c0 : BitVec 6
  c1 : BitVec 6
  c2 : BitVec 6
  c3 : BitVec 6
  c4 : BitVec 6
deriving DecidableEq, Repr

/-- A window load (R147). -/
structure MemW where
  acc : Acc
  w : BitVec 3
  row : BitVec 6
  off : BitVec 6
  imm : BitVec 18
deriving DecidableEq, Repr

/-- A gather or scatter of core store (R255, R256): `x` is the data base register or the index vector. -/
structure MemG where
  acc : Acc
  base : BitVec 6
  x : BitVec 6
  m : BitVec 3
  disp : BitVec 21
deriving DecidableEq, Repr

/-- `amo` (R85, R261): `small` is the size bit (true for 32 bits). -/
structure AmoOp where
  g : Guard
  small : Bool
  val : BitVec 6
  base : BitVec 6
  space : QSpace
  order : Order
  scope : Scope
  op : AmoKind
  res : BitVec 6
  disp : BitVec 20
deriving DecidableEq, Repr

/-- `cpy`, `gx` and `coll` (R273, R282). -/
structure EngOp where
  g : Guard
  a : BitVec 6
  b : BitVec 6
  c : BitVec 6
  ring : BitVec 4
  tmpl : BitVec 12
deriving DecidableEq, Repr

/-- `csig` of either kind (R285): `b` is zero for kind 0, `counter` zero for kind 1. -/
structure SigOp where
  g : Guard
  a : BitVec 6
  b : BitVec 6
  c : BitVec 6
  ack : Bool
  ring : BitVec 4
  counter : BitVec 10
deriving DecidableEq, Repr

/-! ### Names of the part's agents -/

/-- A context: its core number (R19) and slot (R20). -/
structure CtxId where
  core : BitVec 16
  slot : BitVec 2
deriving DecidableEq, Repr

/-- A command stream: its die and number (R355). -/
structure StreamId where
  die : Bool
  n : BitVec 6
deriving DecidableEq, Repr

/-- What every stream command carries (R357): its tag and its completion address word. -/
structure CmdHdr where
  tag : BitVec 16
  done : W64
deriving DecidableEq, Repr

/-- LAUNCH (R359): nm1 is N - 1, pm1 is P - 1. -/
structure LaunchArgs where
  slot : BitVec 6
  nm1 : BitVec 20
  pm1 : BitVec 20
  steps : BitVec 52
  report : BitVec 52
  asid : BitVec 11
deriving DecidableEq, Repr

/-- WAIT_VALUE (R360): `host` is address bit [63], `wide` the 64-bit width. -/
structure WaitArgs where
  addr : BitVec 52
  host : Bool
  value : W64
  mask : W64
  cond : BitVec 2
  wide : Bool
deriving DecidableEq, Repr

/-- SIGNAL (R361). -/
structure SignalArgs where
  addr : BitVec 52
  host : Bool
  value : W64
  wide : Bool
deriving DecidableEq, Repr

/-- SET_AS (R363). -/
structure SetAsArgs where
  asid : BitVec 11
  world : Bool
  desc : BitVec 52
  fq : BitVec 52
  fqHost : Bool
  fqLog : BitVec 5
  ring : Bool
  vector : BitVec 11
  core : BitVec 16
  slot : BitVec 2
  cq : BitVec 4
  progress : BitVec 52
deriving DecidableEq, Repr

/-- PLACE_TPL and DROP_TPL (R364); `image` is zero for DROP_TPL. -/
structure TplArgs where
  slot : BitVec 6
  die : Bool
  asid : BitVec 11
  image : BitVec 52
deriving DecidableEq, Repr

/-- BIND_CTX (R365). -/
structure BindArgs where
  ctx : CtxId
  asid : BitVec 11
  priv : Bool
  world : Bool
  stream : BitVec 6
  prio : BitVec 2
  image : BitVec 52
  block : BitVec 52
deriving DecidableEq, Repr

/-- SAVE_CTX and RESTORE_CTX (R371). -/
structure ImageArgs where
  core : BitVec 16
  mask : BitVec 4
  base : BitVec 52
deriving DecidableEq, Repr

/-- A signal as the fabric carries it (R285, R286): the package that sends it and its number there, by which a target knows one that it has taken
(log entry 76); `ring` tells kind 1. -/
structure Signal where
  src : BitVec 8
  num : Nat
  asid : BitVec 11
  issuerSealed : Bool
  ring : Bool
  target : W64
  counter : BitVec 10
  count : BitVec 32
  tag : BitVec 16
deriving DecidableEq, Repr

/-- What the members of a collective exchange at its start and at each recomputation (R325, R329, R434): one other member's offer, with the
number of that `coll` among those of its group and the chunks that the member has marked. -/
structure CollOffer where
  rank : Nat
  seq : Nat
  op : BitVec 4
  mode : BitVec 2
  fmt : BitVec 5
  fbits : BitVec 6
  chunk : BitVec 4
  n : BitVec 32
  epoch : BitVec 32
  marks : List Nat
deriving DecidableEq, Repr

/-- A whole aligned source sector of another member's part: the part's element at which it begins, its code and its poison bit. -/
structure CollSector where
  first : Nat
  code : BitVec 16
  poison : Bool
deriving DecidableEq, Repr

/-- Another member's part of a chunk: for each of its source elements that the chunk needs, its bits and whether its sector carried a bad code or
poison; and the whole aligned sectors among them, which an operation that forms no new value carries (R160). -/
structure CollPart where
  rank : Nat
  bits : List W64
  bad : List Bool
  sectors : List CollSector
deriving DecidableEq, Repr

/-- A chunk of a collective that is done, with the other members' parts of it. -/
structure CollChunk where
  chunk : Nat
  parts : List CollPart
deriving DecidableEq, Repr

/-- What an exchange with the time master brings (R435): when the request was sent, and when the master had it and answered. -/
structure SyncTimes where
  sent : Nat
  masterIn : Nat
  masterOut : Nat
deriving DecidableEq, Repr

/-- A link change record (R433): the package, its port and whether it is now LIVE. -/
structure LinkChange where
  pkg : BitVec 8
  port : BitVec 6
  live : Bool
deriving DecidableEq, Repr

/-- What the keeper floods under an epoch's number (R433): a batch of link changes, or, with `whole`, its current table written as changes, for a
package that joins or rejoins. -/
structure LinkBatch where
  epoch : BitVec 32
  changes : List LinkChange
  whole : Bool
deriving DecidableEq, Repr

/-- What a Mivis flit carries for this package (R430, R138, R435): a signal, a peer's write of whole sectors with their codes, a
peer's `amo`, or a sync flit with the sender's chip time. -/
inductive FlitBody where
  | signal (s : Signal)
  | write (addr : Nat) (bytes : List Byte) (codes : List (BitVec 16))
  | amo (addr : Nat) (small : Bool) (op : AmoKind) (v : W64) (expect : W64)
  | sync (sent : Nat)
deriving DecidableEq, Repr

/-- One sample of Folkai's sensors (R438, R439): power in units of 10 mW, temperatures in units of 0.1 degrees C. -/
structure Sensors where
  modulePower : Nat
  diePower : List Nat
  dieTemp : List Nat
  islandPower : List Nat
  islandTemp : List Nat
  stackPower : List Nat
  dramTemp : List Nat
deriving DecidableEq, Repr

/-- What the physical part and module flash do in one boot step (R414): whether a required step completed when run, the
resources of a per-resource step that did not complete it, Folkai's failure code and its start and end times. -/
structure BootStepIn where
  ok : Bool
  failed : BitVec 64
  code : BitVec 16
  t0 : BitVec 32
  t1 : BitVec 32
deriving DecidableEq, Repr

/-- What is physically present or measured when the module starts (R413, R414, R385): the steps that run, the time at which the step after them
begins when the start is interrupted in it (R416), the power-on contents of the identity array, and the ports. -/
structure BootIn where
  steps : List BootStepIn
  cut : BitVec 32
  sram : List Byte
  pkgPorts : List (BitVec 8)
  farCap : List Nat
deriving DecidableEq, Repr

/-- The path of a request to Folkai (R418, R423, R442): MCTP over I3C or over PCIe VDM, or the host's mailbox. -/
inductive Transport where
  | i3c | vdm | mailbox
deriving DecidableEq, Repr

/-- What a world change names (R419 to R422). -/
inductive WorldTarget where
  | cluster (n : BitVec 4)
  | stack (n : BitVec 4)
  | dovetail
  | stream (s : StreamId)
  | region (n : BitVec 8) (valid : Bool) (base limit : BitVec 40)
deriving DecidableEq, Repr

/-! ### The operations -/

/-- One constructor per row of spec/opcode_table.json, in the table's order, but for the host's register writes, which stand
after the stream commands. -/
inductive Instr where
  -- the S slot (R178 to R199)
  | add (o : SRR) | addImm (o : SRI) | sub (o : SRR) | subImm (o : SRI)
  | mul (o : SRR) | mulImm (o : SRI) | mulh (o : SRR) | mulhImm (o : SRI)
  | mulhu (o : SRR) | mulhuImm (o : SRI)
  | and (o : SRR) | andImm (o : SRI) | or (o : SRR) | orImm (o : SRI)
  | xor (o : SRR) | xorImm (o : SRI) | andn (o : SRR) | andnImm (o : SRI)
  | shl (o : SRR) | shlImm (o : SR) (n : BitVec 6) | shr (o : SRR) | shrImm (o : SR) (n : BitVec 6)
  | sar (o : SRR) | sarImm (o : SR) (n : BitVec 6) | rot (o : SRR) | rotImm (o : SR) (n : BitVec 6)
  | min (o : SRR) | minImm (o : SRI) | max (o : SRR) | maxImm (o : SRI)
  | minu (o : SRR) | minuImm (o : SRI) | maxu (o : SRR) | maxuImm (o : SRI)
  | clz (o : SR) | ctz (o : SR) | popc (o : SR)
  | bext (o : SR) (sgn : Bool) (pos len1 : BitVec 6)
  | bins (o : SRR) (pos len1 : BitVec 6)
  | sext (o : SR) (n1 : BitVec 6) | zext (o : SR) (n1 : BitVec 6) | abs (o : SR)
  | sel (o : SRR) (neg : Bool) (p : BitVec 4)
  | mov (o : SR) | li (g : Guard) (d : BitVec 6) (imm : BitVec 32) | lih (o : SRI)
  | cmp (g : Guard) (d : BitVec 4) (a b : BitVec 6) (cond : BitVec 4)
  | cmpImm (g : Guard) (d : BitVec 4) (a : BitVec 6) (imm : BitVec 32) (cond : BitVec 4)
  | pand (o : SPP) | por (o : SPP) | pxor (o : SPP)
  | pnot (g : Guard) (d a : BitVec 4) | pmov (g : Guard) (d a : BitVec 4) | pset (g : Guard) (d : BitVec 4) (v : Bool)
  | br (g : Guard) (c : BitVec 4) (n : Bool) (disp : BitVec 32)
  | jmp (g : Guard) (disp : BitVec 32) | call (g : Guard) (a : BitVec 6) (disp : BitVec 32)
  | ret (g : Guard) (a : BitVec 6) | jr (o : SR)
  | bsw (g : Guard) (a : BitVec 6) (n1 : BitVec 6) (disp : BitVec 32)
  | chk (g : Guard) (file : Bool) (a : BitVec 6) (disp : BitVec 32)
  | loop (g : Guard) (lc1 : Bool) (disp : BitVec 32)
  | lea (o : SRR) (sh : BitVec 3) | leaImm (o : SRI) | madd (o : SRR) | maddImm (o : SRI)
  | cinc (o : SRR) (k : BitVec 6) | cincImm (o : SRI) (k : BitVec 6)
  | rotinit (g : Guard) (n : BitVec 5) | stg (g : Guard) (a : BitVec 6) (imm : BitVec 32)
  | lpr (g : Guard) (d : BitVec 6) (n : BitVec 4)
  | csrr (g : Guard) (d : BitVec 6) (csr : BitVec 12) | csrw (o : SC) | csrs (o : SC) | csrc (o : SC)
  | trap (g : Guard) (code : BitVec 32) | brk (g : Guard) (code : BitVec 32)
  | dpset (g : Guard) (a : BitVec 6) (ring : BitVec 4)
  | ttinv (g : Guard) (a b : BitVec 6) (ring : BitVec 4) (kind : BitVec 2)
  | ownset (g : Guard) (a b : BitVec 6) (count1 : BitVec 6)
  -- the V slots (R207 to R227)
  | vAdd (o : VOp) | vSub (o : VOp) | vMul (o : VOp) | vFma (o : VOp) | vFms (o : VOp) | vFnma (o : VOp)
  | vMin (o : VOp) | vMax (o : VOp) | vAbs (o : VOp) | vNeg (o : VOp) | vDot4 (o : VOp)
  | vCmp (o : VOp) | vSel (o : VOp) | vAnd (o : VOp) | vOr (o : VOp) | vXor (o : VOp) | vNot (o : VOp)
  | vShl (o : VOp) | vShr (o : VOp) | vSar (o : VOp)
  | vCvt (o : VOp) | vPack (o : VOp) | vUnpack (o : VOp)
  | vExp2 (o : VOp) | vLog2 (o : VOp) | vRcp (o : VOp) | vRsqrt (o : VOp) | vSqrt (o : VOp) | vTanh (o : VOp)
  | vRadd (o : VOp) | vRmax (o : VOp) | vRmin (o : VOp) | vSadd (o : VOp)
  | vPerm (o : VOp) | vShuf (o : VOp) | vBcast (o : VOp) | vSlide (o : VOp) | vMov (o : VOp)
  | vMovi (u : VUnit) (m : BitVec 3) (ty : ElemTy) (vd : BitVec 6) (imm : BitVec 32)
  | vMand (o : VOp) | vMor (o : VOp) | vMxor (o : VOp) | vMnot (o : VOp)
  | dup
  -- the X slot (R228 to R232)
  | xs2v (a : BitVec 6) (vd : BitVec 6) (all : Bool) (j : BitVec 4)
  | xv2s (d : BitVec 6) (va : BitVec 6) (j : BitVec 4)
  | xm2s (d : BitVec 6) (m : BitVec 3) (h : Bool)
  | xs2m (a : BitVec 6) (m : BitVec 3) (h : Bool)
  | sld (l : Latch) (va : BitVec 6) (a : BitVec 6)
  | szp (l : Latch) (va : BitVec 6) (a : BitVec 6) (g : BitVec 2)
  | sclr (l : Latch) (a : BitVec 6)
  -- the M slot (R238 to R248)
  | mma (o : MMul) | mmr (o : MMul) | mzero (g : Guard) (tile : BitVec 2)
  | mst (o : MMove) | mld (o : MMove) | mrd (o : MMove) | mwr (o : MMove)
  -- the L slot (R249)
  | ldc (o : MemB) | ldk (o : MemB) | ldd (o : MemB) | ldm (o : MemH) | ldf (o : MemH) | ldh (o : MemH)
  | ldw (o : MemW) | ldsw (o : MemW) | ldsm (o : MemH) | ldgc (o : MemG)
  -- the T slot (R249, R261)
  | stc (o : MemB) | stk (o : MemB) | std (o : MemB) | stm (o : MemH) | stf (o : MemH) | sth (o : MemH)
  | stsc (o : MemG) | amo (o : AmoOp)
  -- the E slot (R273 to R294)
  | cpy (o : EngOp) | gx (o : EngOp)
  | wdef (g : Guard) (w : BitVec 3) (b : BitVec 6) (n : Bool)
  | wadv (g : Guard) (w : BitVec 3) (n : Bool) (count1 : BitVec 8)
  | lb (g : Guard) (h : BitVec 4) (b c : BitVec 6) (ring : BitVec 4) (count1 : BitVec 6)
  | lbe (g : Guard) (h : BitVec 4) (b c : BitVec 6) (ring : BitVec 4)
  | coll (o : EngOp) | csig (o : SigOp) | csigRing (o : SigOp)
  | frp (g : Guard) (a : BitVec 6) (ty : ElemTy) (count1 : BitVec 12)
  | frt (g : Guard) (pd : BitVec 4) (sO sE : BitVec 6) (lpT lpL lpS : BitVec 4)
  | fru (g : Guard) (sE sO : BitVec 6) | fruSkip (g : Guard) (sE : BitVec 6)
  | frs (g : Guard) (sF sC sN : BitVec 6) (ty : ElemTy) (lpS : BitVec 4) (dis : Bool)
  | ract (g : Guard) (ch : Bool) (bank : BitVec 4) (a : BitVec 6)
  | rpre (g : Guard) (ch : Bool) (all : Bool) (bank : BitVec 4)
  | rld (g : Guard) (rb : BitVec 2) (ch : Bool) (bank : BitVec 4)
  | rstw (g : Guard) (rb : BitVec 2) (ch : Bool) (bank : BitVec 4)
  | rref (g : Guard) (ch : Bool) (set : BitVec 2)
  -- the Y slot (R267, R268, R300 to R306)
  | awaitf (d : BitVec 6) (ring : BitVec 4) | rels (ring : BitVec 4)
  | waitr (spaces : BitVec 5) | fence (scope : Scope)
  | bar (cluster : Bool) (id : BitVec 4) (count1 : BitVec 12)
  | tend | yield (n1 : BitVec 6)
  | ckeq (pred : Bool) (a b : BitVec 6) | wtime (a : BitVec 6) (rel : Bool)
  -- events of the cores, queues, engines and the Lathe
  | issueCycle (core : BitVec 16) | faultQueueRetry (c : CtxId) | resultLand (c : CtxId)
  | tileFree (c : CtxId) (t : BitVec 2) | bankStallEnd (c : CtxId)
  | engineProbeDone (c : CtxId) | translationWalkDone (c : CtxId)
  | queuedAccessPerform (c : CtxId) (q : QSpace) | variableResultArrive (c : CtxId)
  | registerUe (c : CtxId) | awaitfWake (c : CtxId) | relsWake (c : CtxId) | wtimeDeadline (c : CtxId)
  | tendDrainDone (c : CtxId) | taskStart (c : CtxId) | taskDispatch (die : Bool)
  | stepOpen (s : StreamId) | watchdogExpire (s : StreamId)
  | copyChunkDone (cmd : Nat) | copyReprobe (cmd : Nat) | heldCompletionPost (ring : Nat)
  | windowRowFilled (cmd : Nat) | blockFillDone (cmd : Nat) | lbeWritebackDone (cmd : Nat)
  | dpsetDone (cmd : Nat) | ttinvDone (cmd : Nat)
  | collProceed (cmd : Nat) (offers : List CollOffer) | collChunkDone (cmd : Nat) (parts : CollChunk)
  | csigDeliver (s : Signal) | csigAck (cmd : Nat) (dropped : Bool) | csigFail (cmd : Nat)
  | refreshGuard (stack : BitVec 4) (ch : BitVec 5) (set : BitVec 2)
  | repairWindow (die : Bool) | repwaitExpire (die : Bool)
  | deckTagError (group : Nat) (block : Nat) (correctable : Bool) | errorLogRetry
  -- commands of the streams (R358)
  | nop (h : CmdHdr) | launch (h : CmdHdr) (a : LaunchArgs)
  | waitValue (h : CmdHdr) (a : WaitArgs) | waitValuePoll (s : StreamId)
  | signalWrite (h : CmdHdr) (a : SignalArgs) | signalAdd (h : CmdHdr) (a : SignalArgs) | signalOr (h : CmdHdr) (a : SignalArgs)
  | preemptPoint (h : CmdHdr) | setAs (h : CmdHdr) (a : SetAsArgs) | clearAs (h : CmdHdr) (asid : BitVec 11)
  | placeTpl (h : CmdHdr) (a : TplArgs) | dropTpl (h : CmdHdr) (a : TplArgs)
  | bindCtx (h : CmdHdr) (a : BindArgs) | unbindCtx (h : CmdHdr) (c : CtxId)
  | resumeCtx (h : CmdHdr) (c : CtxId) | resumeCtxRetry (h : CmdHdr) (c : CtxId)
  | preemptAtPoint (h : CmdHdr) (s : StreamId) | preemptStep (h : CmdHdr) (s : StreamId)
  | preemptTask (h : CmdHdr) (s : StreamId) | preemptBundle (h : CmdHdr) (s : StreamId)
  | preemptDone (s : StreamId)
  | saveCtx (h : CmdHdr) (a : ImageArgs) | restoreCtx (h : CmdHdr) (a : ImageArgs)
  | resumeStream (h : CmdHdr) (s : StreamId)
  -- writes of the host to registers
  | leaseWrite (stack : BitVec 4) (ch : BitVec 5) (v : W64) | leaseHandoverEnd (stack : BitVec 4) (ch : BitVec 5)
  | modeRegisterWrite (stack : BitVec 4) (ch : BitVec 5) (bank : BitVec 4)
  | tsnap (v : W64) | linkAdminWrite (port : BitVec 6) (v : W64)
  | keySlotWrite (slot : BitVec 9) (folkai : Bool) (dataKey tweakKey : BitVec 256) (valid : Bool)
  | doorbell (s : StreamId) (tail : BitVec 32) | watchdogClear (s : StreamId) (v : W64)
  | registerWrite (off : Nat) (folkai : Bool) (v : W64)
  -- the host interface, the fabric, Folkai
  | hostDataWrite (addr : Nat) (bytes : List Byte) | hostDataRead (addr len : Nat)
  | mivisFlit (port : BitVec 6) (crcOk : Bool) (body : FlitBody)
  | linkDown (port : BitVec 6) | linkDownTimeout (port : BitVec 6)
  | linkTrained (port : BitVec 6) (reported : BitVec 8) | linkHoldExpire (port : BitVec 6)
  | changeRecord (r : LinkChange) | keeperBatch | epochBatchApply (b : LinkBatch)
  | timeSync (times : SyncTimes)
  | powerSample (x : Sensors) | frequencyAdjust (rise : Bool)
  | moduleStart (x : BootIn) | worldChange (t : WorldTarget) (secured : Bool)
  | updateBegin (kind : BitVec 8) (len : BitVec 32) | updateData (off : BitVec 32) (bytes : List Byte)
  | updateEnd | activate (kind : BitVec 8) | readJournal
  | evidence (nonce : List Byte) | setCap (island : BitVec 8) (mhz : BitVec 16) | clearMarks
  | powerLoss
deriving DecidableEq, Repr

end Sys2Proof
end

