-- ==== Sys2Proof/WellFormed.lean ====
section
/-! DEFINITION. WellFormed.lean: which operation terms the encodings of the manual can express: the ranges of register
numbers, codes and immediates that the decoder enforces (phase 3 of R91 for slot operations, check 4 of R450 for stream
commands). -/

namespace Sys2Proof

/-! ### Element types (R201) and matrix formats -/

/-- Bits of an element type. -/
def ElemTy.bits : ElemTy → Nat
  | .f32 | .i32 | .u32 => 32
  | .bf16 | .f16 | .i16 | .u16 => 16
  | .i8 | .u8 | .e4m3 | .e5m2 => 8

/-- Elements of a 1024-bit register. -/
def ElemTy.count (t : ElemTy) : Nat := 1024 / t.bits

/-- F of R206. -/
def ElemTy.isF : ElemTy → Bool
  | .f32 | .bf16 | .f16 => true
  | _ => false

/-- Is of R206. -/
def ElemTy.isIs : ElemTy → Bool
  | .i32 | .i16 | .i8 => true
  | _ => false

/-- I of R206. -/
def ElemTy.isI : ElemTy → Bool
  | .i32 | .i16 | .i8 | .u32 | .u16 | .u8 => true
  | _ => false

/-- The float formats that `frp` and `frs` accept (R288). -/
def ElemTy.isProbe : ElemTy → Bool
  | .f32 | .bf16 | .f16 | .e4m3 | .e5m2 => true
  | _ => false

/-- The element type of a code (R97). -/
def ElemTy.ofCode : Nat → Option ElemTy
  | 0 => some .f32 | 1 => some .bf16 | 2 => some .f16 | 3 => some .i32 | 4 => some .i16 | 5 => some .i8
  | 6 => some .u32 | 7 => some .u16 | 8 => some .u8 | 9 => some .e4m3 | 10 => some .e5m2
  | _ => none

/-- The code of an element type (R97). -/
def ElemTy.code : ElemTy → Nat
  | .f32 => 0 | .bf16 => 1 | .f16 => 2 | .i32 => 3 | .i16 => 4 | .i8 => 5
  | .u32 => 6 | .u16 => 7 | .u8 => 8 | .e4m3 => 9 | .e5m2 => 10

/-! ### S slot -/

/-- A bit field of `bext` or `bins` (R179): pos + len at most 64. -/
def fieldOk (pos len1 : BitVec 6) : Bool := decide (pos.toNat + (len1.toNat + 1) ≤ 64)

/-- A CSR number that R70 lists. -/
def csrListed (n : BitVec 12) : Bool :=
  let k := n.toNat
  decide (k ≤ 0x005) || (decide (0x008 ≤ k) && decide (k ≤ 0x00C)) || (decide (0x010 ≤ k) && decide (k ≤ 0x012)) ||
    (decide (0x020 ≤ k) && decide (k ≤ 0x022)) || (decide (0x040 ≤ k) && decide (k ≤ 0x048)) ||
    (decide (0x100 ≤ k) && decide (k ≤ 0x10F)) || (decide (0x110 ≤ k) && decide (k ≤ 0x117)) ||
    (decide (0x120 ≤ k) && decide (k ≤ 0x12F)) || (decide (0x130 ≤ k) && decide (k ≤ 0x131))

/-! ### V slots (R206) -/

/-- An operation that uses neither rounding nor saturation. -/
def VOp.plain (o : VOp) : Bool := decide (o.rm = 0) && !o.sat

/-- A two-source operation with no ext6. -/
def VOp.two (o : VOp) : Bool := decide (o.vc = 0)

/-- A one-source operation. -/
def VOp.one (o : VOp) : Bool := decide (o.vb = 0) && decide (o.vc = 0)

/-- `add`, `sub`, `mul`. -/
def VOp.okArith (o : VOp) : Bool :=
  (o.ty.isF || (o.ty.isI && decide (o.rm = 0))) && decide (o.ext = 0) && o.two

/-- `fma`, `fms`, `fnma`. -/
def VOp.okFma (o : VOp) : Bool := o.ty.isF && decide (o.ext = 0)

/-- `min`, `max`. -/
def VOp.okMinMax (o : VOp) : Bool := (o.ty.isF || o.ty.isI) && o.plain && decide (o.ext = 0) && o.two

/-- `abs`, `neg`. -/
def VOp.okAbs (o : VOp) : Bool :=
  (o.ty.isF || o.ty.isIs) && decide (o.rm = 0) && (!o.sat || o.ty.isIs) && decide (o.ext = 0) && o.one

/-- `dot4`. -/
def VOp.okDot4 (o : VOp) : Bool :=
  (match o.ty with
    | .i8 | .u8 => decide (o.rm = 0)
    | .e4m3 | .e5m2 => true
    | _ => false) && decide (o.ext = 0)

/-- `cmp` (R210). -/
def VOp.okCmp (o : VOp) : Bool :=
  (o.ty.isF || (o.ty.isI && decide (o.ext.toNat < 6))) && o.plain && decide (o.ext.toNat < 8) && decide (o.vd.toNat < 8) && o.two

/-- `sel` (R211). -/
def VOp.okSel (o : VOp) : Bool := o.plain && decide (o.ext.toNat < 8) && o.two

/-- `and`, `or`, `xor`. -/
def VOp.okLogic (o : VOp) : Bool := o.ty.isI && o.plain && decide (o.ext = 0) && o.two

/-- `not`. -/
def VOp.okNot (o : VOp) : Bool := o.ty.isI && o.plain && decide (o.ext = 0) && o.one

/-- The shifts (R213). -/
def VOp.okShift (o : VOp) : Bool :=
  o.ty.isI && o.plain && o.two &&
    (decide (o.ext = 0) || (decide (o.ext = 1) && decide (o.vb.toNat < o.ty.bits)))

/-- The source type of a conversion (R214). -/
def VOp.srcTy (o : VOp) : Option ElemTy := ElemTy.ofCode (o.ext.toNat % 16)

/-- The part of a conversion. -/
def VOp.part (o : VOp) : Nat := o.ext.toNat / 16

/-- `cvt` (R214). -/
def VOp.okCvt (o : VOp) : Bool :=
  o.one && match o.srcTy with
    | some s =>
      if s.bits = o.ty.bits then decide (o.part = 0)
      else if o.ty.bits < s.bits then decide (o.part < s.bits / o.ty.bits)
      else decide (o.part < o.ty.bits / s.bits)
    | none => false

/-- `pack` (R215). -/
def VOp.okPack (o : VOp) : Bool :=
  o.two && match o.srcTy with
    | some s => decide (s.bits = 2 * o.ty.bits) && decide (o.part = 0)
    | none => false

/-- `unpack` (R216). -/
def VOp.okUnpack (o : VOp) : Bool :=
  o.one && match o.srcTy with
    | some s => (decide (o.ty.bits = 2 * s.bits) || decide (o.ty.bits = 4 * s.bits)) && decide (o.part < o.ty.bits / s.bits)
    | none => false

/-- `exp2`, `log2`, `rcp`, `rsqrt`, `tanh`. -/
def VOp.okSpecial (o : VOp) : Bool := o.ty.isF && decide (o.rm = 0) && decide (o.ext = 0) && o.one

/-- `sqrt`. -/
def VOp.okSqrt (o : VOp) : Bool := o.ty.isF && decide (o.ext = 0) && o.one

/-- `radd`, `sadd`. -/
def VOp.okRadd (o : VOp) : Bool :=
  ((o.ty.isF && !o.sat) || (o.ty.isI && decide (o.rm = 0))) && decide (o.ext = 0) && o.one

/-- `rmax`, `rmin`. -/
def VOp.okRmax (o : VOp) : Bool := (o.ty.isF || o.ty.isI) && o.plain && decide (o.ext = 0) && o.one

/-- `perm`. -/
def VOp.okPerm (o : VOp) : Bool := o.plain && decide (o.ext = 0) && o.two

/-- `shuf`. -/
def VOp.okShuf (o : VOp) : Bool := o.plain && decide (o.ext.toNat < 4) && o.two

/-- The index k of `bcast` and `slide` (R223). -/
def VOp.index (o : VOp) : Nat := (if o.sat then 64 else 0) + o.ext.toNat

/-- `bcast`. -/
def VOp.okBcast (o : VOp) : Bool := decide (o.rm = 0) && decide (o.index < o.ty.count) && o.one

/-- `slide`. -/
def VOp.okSlide (o : VOp) : Bool := decide (o.rm = 0) && decide (o.index < o.ty.count) && o.two

/-- `mov`. -/
def VOp.okMov (o : VOp) : Bool := o.plain && decide (o.ext = 0) && o.one

/-- `movi` (R225): no bit above the element. -/
def moviOk (ty : ElemTy) (imm : BitVec 32) : Bool := decide (imm.toNat < 2 ^ ty.bits)

/-- `mand`, `mor`, `mxor` (R226). -/
def VOp.okMask2 (o : VOp) : Bool :=
  decide (o.m = 0) && decide (o.ty = .f32) && o.plain && decide (o.ext = 0) && decide (o.vc = 0) &&
    decide (o.vd.toNat < 8) && decide (o.va.toNat < 8) && decide (o.vb.toNat < 8)

/-- `mnot`. -/
def VOp.okMask1 (o : VOp) : Bool := o.okMask2 && decide (o.vb = 0)

/-! ### M slot (R237, R241, R242, R247) -/

/-- The operand format pairs of R237. -/
def pairOk : MatFmt → MatFmt → Bool
  | .f64, .f64 => true
  | .bf16, .bf16 => true
  | .bf16, .q4g => true
  | .f16, .f16 => true
  | .e4m3, .e4m3 => true
  | .e4m3, .e5m2 => true
  | .e5m2, .e4m3 => true
  | .e5m2, .e5m2 => true
  | .i8, .i8 => true
  | .mxfp4, .mxfp4 => true
  | .mxfp4, .tx6 => true
  | .tx6, .mxfp4 => true
  | .tx6, .tx6 => true
  | _, _ => false

/-- The largest kb of `mmr` by fmtA (R241). -/
def MatFmt.maxKb : MatFmt → Nat
  | .mxfp4 => 8 | .tx6 => 5 | .e4m3 => 4 | .e5m2 => 4 | .i8 => 4 | .bf16 => 2 | .f16 => 2 | .f64 => 0 | .q4g => 0

/-- Bits of a tile data code (R242): 11 f64. -/
def tileBits (code : Nat) : Nat :=
  match ElemTy.ofCode code with
  | some t => t.bits
  | none => 64

/-- The line and part of `mrd` and `mwr` (R247). -/
def tilePartOk (code : Nat) (line part : Nat) : Bool :=
  match tileBits code with
  | 64 => decide (part < 4)
  | 32 => decide (part < 2)
  | 16 => decide (part = 0)
  | _ => decide (part = 0) && decide (line % 2 = 0)

/-- `mrd` and `mwr`. -/
def MMove.okLine (o : MMove) : Bool :=
  decide (o.code.toNat ≤ 11) && tilePartOk o.code.toNat (o.lo.toNat / 4) (o.lo.toNat % 4)

/-! ### L and T slots (R249) -/

/-- Order and scope: 0 plain with scope 0 only. -/
def Acc.scopeOk (a : Acc) : Bool :=
  match a.order with
  | .plain => decide (a.scope = .context)
  | _ => true

/-- The file and width pairs of plain accesses. -/
def Acc.widthOk (a : Acc) : Bool :=
  match a.file, a.width with
  | true, .v => true
  | false, .b => true
  | false, .h => true
  | false, .w => true
  | false, .d => true
  | _, _ => false

/-- A plain access (order 0 alone). -/
def Acc.okPlain (a : Acc) : Bool := a.widthOk && decide (a.order = .plain) && decide (a.scope = .context)

/-- A queued load. -/
def Acc.okLoad (a : Acc) : Bool := a.widthOk && decide (a.order ≠ .release) && a.scopeOk

/-- A gated store. -/
def Acc.okStore (a : Acc) : Bool := a.widthOk && decide (a.order ≠ .acquire) && a.scopeOk

/-- A gather or scatter. -/
def Acc.okGather (a : Acc) : Bool :=
  a.file && decide (a.width ≠ .v) && decide (a.order = .plain) && decide (a.scope = .context)

/-- `amo` (R85, R261). -/
def AmoOp.ok (o : AmoOp) : Bool :=
  (match o.order with
    | .plain => decide (o.scope = .context)
    | _ => true) &&
  (match o.op with
    | .fadd => o.small
    | _ => true) &&
  (match o.space with
    | .h => match o.op with
      | .add | .swap | .cas => true
      | _ => false
    | .m | .f => true
    | _ => true) &&
  (match o.space with
    | .k | .d => true
    | _ => decide (o.base.toNat < 16))

/-! ### E and Y slots -/

/-- The span of `frp` (R288): count times the element size at most 4,096 bytes. -/
def probeSpanOk (ty : ElemTy) (count1 : BitVec 12) : Bool :=
  ty.isProbe && decide ((count1.toNat + 1) * (ty.bits / 8) ≤ 4096)

/-- `csig` (R285). -/
def SigOp.ok (o : SigOp) : Bool := o.ack || (decide (o.c = 0) && decide (o.ring = 0))

/-- The count of `bar` that holds on either class (R302): at most 4 at core scope and 128 at cluster scope. -/
def barCountOk (cluster : Bool) (count1 : BitVec 12) : Bool :=
  decide (count1.toNat + 1 ≤ if cluster then 128 else 4)

/-! ### Stream commands (R357 to R372) -/

/-- A completion address (R357). -/
def doneOk (w : W64) : Bool := decide (w = 0) || (decide (w.toNat % 8 = 0) && decide (field w 62 52 = 0))

/-- LAUNCH (R359). -/
def LaunchArgs.ok (a : LaunchArgs) : Bool := decide (a.steps.toNat % 128 = 0) && decide (a.report.toNat % 16 = 0)

/-- WAIT_VALUE (R360). -/
def WaitArgs.ok (a : WaitArgs) : Bool :=
  if a.wide then decide (a.addr.toNat % 8 = 0)
  else decide (a.addr.toNat % 4 = 0) && decide (a.value.toNat < 2 ^ 32) && decide (a.mask.toNat < 2 ^ 32)

/-- SIGNAL (R361). -/
def SignalArgs.ok (a : SignalArgs) : Bool :=
  if a.wide then decide (a.addr.toNat % 8 = 0)
  else decide (a.addr.toNat % 4 = 0) && decide (a.value.toNat < 2 ^ 32)

/-- A core number's fixed bits (R19): [14:9] zero, and [8] zero for an S-core. -/
def coreNumOk (c : BitVec 16) : Bool := decide (field c 14 9 = 0) && !(c.getLsbD 15 && c.getLsbD 8)

/-- SET_AS (R363): log2 of the fault queue entries from 4 to 16. -/
def SetAsArgs.ok (a : SetAsArgs) : Bool :=
  decide (a.desc.toNat % 64 = 0) && decide (a.fq.toNat % 4096 = 0) && decide (4 ≤ a.fqLog.toNat) && decide (a.fqLog.toNat ≤ 16) &&
    decide (a.progress.toNat % 4096 = 0)

/-- BIND_CTX (R365). -/
def BindArgs.ok (a : BindArgs) : Bool := decide (a.image.toNat % 4096 = 0) && decide (a.block.toNat % 64 = 0)

/-- SAVE_CTX and RESTORE_CTX (R371). -/
def ImageArgs.ok (a : ImageArgs) : Bool := decide (a.base.toNat % 4096 = 0)

/-! ### The whole -/

/-- A well-formed operation: the ranges of its operands that its encoding admits. Events carry what agents do and have no
encoding; their operands have no ranges beyond their types. An `mst` of the raw code takes any rounding field, which it does not use (log entry 100). -/
def Instr.wf : Instr → Bool
  | .bext _ _ pos len1 => fieldOk pos len1
  | .bins _ pos len1 => fieldOk pos len1
  | .cmp _ _ _ _ cond => decide (cond.toNat < 12)
  | .cmpImm _ _ _ _ cond => decide (cond.toNat < 12)
  | .cinc _ k => decide (k ≠ 0)
  | .cincImm _ k => decide (k ≠ 0)
  | .csrr _ _ n => csrListed n
  | .csrw o => csrListed o.csr
  | .csrs o => csrListed o.csr
  | .csrc o => csrListed o.csr
  | .vAdd o | .vSub o | .vMul o => o.okArith
  | .vFma o | .vFms o | .vFnma o => o.okFma
  | .vMin o | .vMax o => o.okMinMax
  | .vAbs o | .vNeg o => o.okAbs
  | .vDot4 o => o.okDot4
  | .vCmp o => o.okCmp
  | .vSel o => o.okSel
  | .vAnd o | .vOr o | .vXor o => o.okLogic
  | .vNot o => o.okNot
  | .vShl o | .vShr o | .vSar o => o.okShift
  | .vCvt o => o.okCvt
  | .vPack o => o.okPack
  | .vUnpack o => o.okUnpack
  | .vExp2 o | .vLog2 o | .vRcp o | .vRsqrt o | .vTanh o => o.okSpecial
  | .vSqrt o => o.okSqrt
  | .vRadd o | .vSadd o => o.okRadd
  | .vRmax o | .vRmin o => o.okRmax
  | .vPerm o => o.okPerm
  | .vShuf o => o.okShuf
  | .vBcast o => o.okBcast
  | .vSlide o => o.okSlide
  | .vMov o => o.okMov
  | .vMovi _ _ ty _ imm => moviOk ty imm
  | .vMand o | .vMor o | .vMxor o => o.okMask2
  | .vMnot o => o.okMask1
  | .xs2v _ _ all j => !all || decide (j = 0)
  | .szp l _ _ g => (match l with | .sb0 | .sb1 => true | _ => false) && decide (g ≠ 3)
  | .mma o => pairOk o.fa o.fb
  | .mmr o =>
    pairOk o.fa o.fb && decide (o.sA.toNat < 4) && decide (o.kb1.toNat + 1 ≤ o.fa.maxKb)
  | .mst o => decide (o.code.toNat ≤ 12) && decide (o.lo = 0)
  | .mld o => decide (o.code.toNat ≤ 12) && decide (o.rm = 0) && decide (o.lo.toNat < 2) && !(decide (o.code = 12) && decide (o.lo = 1))
  | .mrd o => o.okLine
  | .mwr o => o.okLine && decide (o.rm = 0)
  | .ldc o => o.acc.okPlain
  | .ldk o | .ldd o => o.acc.okLoad
  | .ldm o | .ldf o | .ldh o => o.acc.okLoad
  | .ldw o | .ldsw o => o.acc.okPlain
  | .ldsm o => o.acc.okPlain
  | .ldgc o => o.acc.okGather
  | .stc o => o.acc.okPlain
  | .stk o | .std o => o.acc.okStore
  | .stm o | .stf o | .sth o => o.acc.okStore
  | .stsc o => o.acc.okGather
  | .amo o => o.ok
  | .csig o => o.ok && decide (o.b = 0)
  | .csigRing o => o.ok && decide (o.counter = 0)
  | .frp _ _ ty n => probeSpanOk ty n
  | .frt _ pd _ _ _ _ _ => decide (1 ≤ pd.toNat) && decide (pd.toNat ≤ 14)
  | .frs _ _ _ _ ty _ _ => ty.isProbe
  | .rpre _ _ all bank => !all || decide (bank = 0)
  | .waitr m => decide (m ≠ 0)
  | .bar cl _ n => barCountOk cl n
  | .ckeq pred a b => !pred || (decide (a.toNat < 16) && decide (b.toNat < 16))
  | .nop h => doneOk h.done
  | .launch h a => doneOk h.done && a.ok
  | .waitValue h a => doneOk h.done && a.ok
  | .signalWrite h a | .signalAdd h a | .signalOr h a => doneOk h.done && a.ok
  | .preemptPoint h => doneOk h.done
  | .setAs h a => doneOk h.done && a.ok
  | .clearAs h _ => doneOk h.done
  | .placeTpl h a => doneOk h.done && decide (a.image.toNat % 64 = 0)
  | .dropTpl h a => doneOk h.done && decide (a.image = 0)
  | .bindCtx h a => doneOk h.done && a.ok
  | .unbindCtx h _ | .resumeCtx h _ | .resumeCtxRetry h _ => doneOk h.done
  | .preemptAtPoint h _ | .preemptStep h _ | .preemptTask h _ | .preemptBundle h _ => doneOk h.done
  | .saveCtx h a | .restoreCtx h a => doneOk h.done && a.ok
  | .resumeStream h _ => doneOk h.done
  | _ => true

end Sys2Proof
end

