-- ==== Sys2Proof/Machine/Numbers.lean ====
section
/-! DEFINITION. Machine/Numbers.lean: the number formats of the manual (R101 to R106), exact arithmetic on their values, and the
one rounding rule (R107 to R110). A finite value is a sign, a natural and a power of two, held exactly. -/

namespace Sys2Proof.Machine

/-! ### Values -/

/-- An exact value: NaN, an infinity, or (-1)^neg x man x 2^exp. A zero keeps its sign. -/
inductive Val where
  | nan
  | inf (neg : Bool)
  | fin (neg : Bool) (man : Nat) (exp : Int)
deriving DecidableEq, Repr

/-- +0. -/
def Val.zero : Val := .fin false 0 0

/-- The value of an integer. -/
def Val.ofInt (n : Int) : Val := .fin (decide (n < 0)) n.natAbs 0

/-- Negation; a NaN stays one. -/
def Val.neg : Val → Val
  | .nan => .nan
  | .inf n => .inf (!n)
  | .fin n m e => .fin (!n) m e

/-- A NaN. -/
def Val.isNan : Val → Bool
  | .nan => true
  | _ => false

/-- Finite. -/
def Val.isFin : Val → Bool
  | .fin _ _ _ => true
  | _ => false

/-- A zero of either sign. -/
def Val.isZero : Val → Bool
  | .fin _ 0 _ => true
  | _ => false

/-- The signed integer that a finite value is at exponent `e`, which is at most its own. -/
def Val.at (v : Val) (e : Int) : Int :=
  match v with
  | .fin n m x => let k : Int := (m <<< (x - e).toNat : Nat); if n then -k else k
  | _ => 0

/-- The exponent of a finite value; zero has none to speak of. -/
def Val.exp : Val → Int
  | .fin _ m x => if m = 0 then 100000 else x
  | _ => 100000

/-- The lesser exponent of two finite values, 0 when both are zero. -/
def Val.low (a b : Val) : Int := let e := min a.exp b.exp; if e = 100000 then 0 else e

/-- The flags of FPSTAT (R112). -/
abbrev Flags := BitVec 6

/-- The flag bits. -/
def Flags.invalid : Flags := 0x01
def Flags.divzero : Flags := 0x02
def Flags.overflow : Flags := 0x04
def Flags.underflow : Flags := 0x08
def Flags.inexact : Flags := 0x10
def Flags.saturated : Flags := 0x20

/-- A value and the flags that making it set. -/
structure Flagged (α : Type) where
  val : α
  fl : Flags
deriving DecidableEq, Repr

/-- The exact sum under IEEE 754 (R107, R114): `rd` is mode 2, in which an exact zero sum of opposite terms is -0. -/
def Val.add (rd : Bool) (a b : Val) : Flagged Val :=
  match a, b with
  | .nan, _ => ⟨.nan, 0⟩
  | _, .nan => ⟨.nan, 0⟩
  | .inf x, .inf y => if x = y then ⟨.inf x, 0⟩ else ⟨.nan, Flags.invalid⟩
  | .inf x, _ => ⟨.inf x, 0⟩
  | _, .inf y => ⟨.inf y, 0⟩
  | .fin x m e, .fin y n f =>
    let l := Val.low a b
    let t := a.at l + b.at l
    if t = 0 then
      if m = 0 && n = 0 && x = y then ⟨.fin x 0 0, 0⟩ else ⟨.fin rd 0 0, 0⟩
    else if m = 0 then ⟨.fin y n f, 0⟩
    else if n = 0 then ⟨.fin x m e, 0⟩
    else ⟨.fin (decide (t < 0)) t.natAbs l, 0⟩

/-- The exact product. -/
def Val.mul (a b : Val) : Flagged Val :=
  match a, b with
  | .nan, _ => ⟨.nan, 0⟩
  | _, .nan => ⟨.nan, 0⟩
  | .inf x, .inf y => ⟨.inf (x ^^ y), 0⟩
  | .inf x, .fin y n _ => if n = 0 then ⟨.nan, Flags.invalid⟩ else ⟨.inf (x ^^ y), 0⟩
  | .fin x m _, .inf y => if m = 0 then ⟨.nan, Flags.invalid⟩ else ⟨.inf (x ^^ y), 0⟩
  | .fin x m e, .fin y n f => ⟨.fin (x ^^ y) (m * n) (e + f), 0⟩

/-- a x b + c, with a NaN anywhere giving NaN without INVALID (R208). -/
def Val.fma (rd : Bool) (a b c : Val) (negP negC : Bool) : Flagged Val :=
  if a.isNan || b.isNan || c.isNan then ⟨.nan, 0⟩
  else
    let p := a.mul b
    if p.val.isNan then p
    else (if negP then p.val.neg else p.val).add rd (if negC then c.neg else c)

/-- The order of two values that are not NaN, with -0 = +0: a < b. -/
def Val.lt (a b : Val) : Bool :=
  match a, b with
  | .nan, _ => false
  | _, .nan => false
  | .inf x, .inf y => x && !y
  | .inf x, _ => x
  | _, .inf y => !y
  | .fin _ _ _, .fin _ _ _ => let l := Val.low a b; decide (a.at l < b.at l)

/-- Equality of two values that are not NaN, with -0 = +0. -/
def Val.eq (a b : Val) : Bool := !a.isNan && !b.isNan && !a.lt b && !b.lt a

/-- The sign of a value. -/
def Val.sign : Val → Bool
  | .nan => false
  | .inf n => n
  | .fin n _ _ => n

/-- Whether `b` is the one that `min` returns: below a, or a zero of lower sign (R114). -/
def Val.below (b a : Val) : Bool := b.lt a || (b.isZero && a.isZero && b.sign && !a.sign)

/-! ### Floating-point formats (R101, R102) -/

/-- A floating-point format. -/
structure FFmt where
  w : Nat
  eb : Nat
  fb : Nat
  bias : Int
  emax : Int
  maxMan : Nat
  ieee : Bool       -- infinities and NaN as IEEE 754
  nan : Nat
deriving DecidableEq, Repr

def FFmt.f64 : FFmt := ⟨64, 11, 52, 1023, 1023, 2 ^ 53 - 1, true, 0x7FF8000000000000⟩
def FFmt.f32 : FFmt := ⟨32, 8, 23, 127, 127, 2 ^ 24 - 1, true, 0x7FC00000⟩
def FFmt.bf16 : FFmt := ⟨16, 8, 7, 127, 127, 255, true, 0x7FC0⟩
def FFmt.f16 : FFmt := ⟨16, 5, 10, 15, 15, 2047, true, 0x7E00⟩
def FFmt.e4m3 : FFmt := ⟨8, 4, 3, 7, 8, 14, false, 0x7F⟩
def FFmt.e5m2 : FFmt := ⟨8, 5, 2, 15, 15, 7, true, 0x7E⟩

/-- The exponent of the smallest normal. -/
def FFmt.emin (f : FFmt) : Int := 1 - f.bias

/-- An encoding from sign, exponent field and fraction. -/
def FFmt.pack (f : FFmt) (neg : Bool) (e fr : Nat) : Nat := (if neg then 2 ^ (f.w - 1) else 0) + e * 2 ^ f.fb + fr

/-- The infinity of a sign. -/
def FFmt.infBits (f : FFmt) (neg : Bool) : Nat := f.pack neg (2 ^ f.eb - 1) 0

/-- The largest finite value of a sign. -/
def FFmt.maxBits (f : FFmt) (neg : Bool) : Nat := f.pack neg (f.emax + f.bias).toNat (f.maxMan - 2 ^ f.fb)

/-- The value of an encoding (R101). -/
def FFmt.decode (f : FFmt) (x : Nat) : Val :=
  let neg := decide (2 ^ (f.w - 1) ≤ x % 2 ^ f.w)
  let e := x / 2 ^ f.fb % 2 ^ f.eb
  let fr := x % 2 ^ f.fb
  if e = 2 ^ f.eb - 1 && f.ieee then (if fr = 0 then .inf neg else .nan)
  else if e = 2 ^ f.eb - 1 && fr = 2 ^ f.fb - 1 then .nan
  else if e = 0 then .fin neg fr (f.emin - f.fb)
  else .fin neg (2 ^ f.fb + fr) ((e : Int) - f.bias - f.fb)

/-- How a quotient q with a remainder rounds (R108): the remainder is nonzero, and `cmp` orders it against one half. -/
def roundUp (mode : Nat) (neg : Bool) (q : Nat) (cmp : Ordering) : Bool :=
  match mode with
  | 0 => match cmp with
    | .gt => true
    | .eq => decide (q % 2 = 1)
    | .lt => false
  | 1 => false
  | 2 => neg
  | _ => !neg

/-- A natural times 2^x rounded to an integer at 2^0 (mode and sign of R108): the integer, and whether it was exact. -/
def roundNat (mode : Nat) (neg : Bool) (m : Nat) (x : Int) : Nat × Bool :=
  if m = 0 then (0, true)
  else if 0 ≤ x then (m <<< x.toNat, true)
  else
    let k := (-x).toNat
    if m.log2 + 2 ≤ k then ((if roundUp mode neg 0 .lt then 1 else 0), false)
    else
      let q := m >>> k
      let r := m % 2 ^ k
      if r = 0 then (q, true)
      else (if roundUp mode neg q (compare r (2 ^ (k - 1))) then q + 1 else q, false)

/-- `round(x, F, mode, sat)` of R108 for a floating-point format. -/
def FFmt.round (f : FFmt) (v : Val) (mode : Nat) (sat : Bool) : Flagged Nat :=
  match v with
  | .nan => ⟨f.nan, 0⟩
  | .inf n =>
    if sat then ⟨f.maxBits n, Flags.saturated⟩
    else if f.ieee then ⟨f.infBits n, 0⟩ else ⟨f.nan, 0⟩
  | .fin n m x =>
    if m = 0 then ⟨f.pack n 0 0, 0⟩
    else
      let e := max (x + (m.log2 : Int)) f.emin
      let q := roundNat mode n m (x - (e - f.fb))
      let carry := decide (q.1 = 2 ^ (f.fb + 1))
      let e' := if carry then e + 1 else e
      let k := if carry then 2 ^ f.fb else q.1
      if f.emax < e' || (e' = f.emax && f.maxMan < k) then
        let big := mode = 0 || (mode = 3 && !n) || (mode = 2 && n)
        let fl := Flags.overflow ||| Flags.inexact
        if !big then ⟨f.maxBits n, fl⟩
        else if sat then ⟨f.maxBits n, fl ||| Flags.saturated⟩
        else if f.ieee then ⟨f.infBits n, fl⟩ else ⟨f.nan, fl⟩
      else
        let tiny := decide (k < 2 ^ f.fb)
        let fl : Flags := (if q.2 then 0 else Flags.inexact) ||| (if tiny && k ≠ 0 && !q.2 then Flags.underflow else 0)
        if tiny then ⟨f.pack n 0 k, fl⟩ else ⟨f.pack n (e' + f.bias).toNat (k - 2 ^ f.fb), fl⟩

/-! ### Integer types (R103, R109) -/

/-- An integer type. -/
structure IFmt where
  w : Nat
  signed : Bool
deriving DecidableEq, Repr

/-- The least and greatest value. -/
def IFmt.min (i : IFmt) : Int := if i.signed then -(2 ^ (i.w - 1) : Nat) else 0
def IFmt.max (i : IFmt) : Int := if i.signed then (2 ^ (i.w - 1) : Nat) - 1 else (2 ^ i.w : Nat) - 1

/-- The value of an encoding. -/
def IFmt.decode (i : IFmt) (x : Nat) : Int :=
  let y := x % 2 ^ i.w
  if i.signed && 2 ^ (i.w - 1) ≤ y then (y : Int) - (2 ^ i.w : Nat) else y

/-- The low bits of an integer. -/
def lowBits (w : Nat) (n : Int) : Nat := (n % (2 ^ w : Nat)).toNat

/-- An integer wrapped or clamped (R114). -/
def IFmt.fit (i : IFmt) (sat : Bool) (n : Int) : Flagged Nat :=
  if !sat then ⟨lowBits i.w n, 0⟩
  else if n < i.min then ⟨lowBits i.w i.min, Flags.saturated⟩
  else if i.max < n then ⟨lowBits i.w i.max, Flags.saturated⟩
  else ⟨lowBits i.w n, 0⟩

/-- `round(x, I, mode, sat)` of R109: `fromInt` tells an integer source. -/
def IFmt.round (i : IFmt) (v : Val) (mode : Nat) (sat fromInt : Bool) : Flagged Nat :=
  match v with
  | .nan => ⟨0, Flags.invalid⟩
  | .inf n => ⟨lowBits i.w (if n then i.min else i.max), Flags.saturated⟩
  | .fin n m x =>
    let q := roundNat mode n m x
    let k : Int := if n then -(q.1 : Int) else q.1
    let r := i.fit (sat || !fromInt) k
    ⟨r.val, r.fl ||| (if q.2 then 0 else Flags.inexact)⟩

/-! ### Element and tensor formats -/

/-- A format that a value can be converted to. -/
inductive NumFmt where
  | flt (f : FFmt)
  | int (i : IFmt)
deriving DecidableEq, Repr

/-- An element with a NaN made canonical (R107). -/
def NumFmt.canon : NumFmt → Nat → Nat
  | .flt f, x => if (f.decode x).isNan then f.nan else x
  | .int _, x => x

/-- The format of an element type code, 11 f64, 15 u64, 16 i64 (R97, R136, R242). -/
def NumFmt.ofCode : Nat → Option NumFmt
  | 0 => some (.flt .f32) | 1 => some (.flt .bf16) | 2 => some (.flt .f16)
  | 3 => some (.int ⟨32, true⟩) | 4 => some (.int ⟨16, true⟩) | 5 => some (.int ⟨8, true⟩)
  | 6 => some (.int ⟨32, false⟩) | 7 => some (.int ⟨16, false⟩) | 8 => some (.int ⟨8, false⟩)
  | 9 => some (.flt .e4m3) | 10 => some (.flt .e5m2) | 11 => some (.flt .f64)
  | 15 => some (.int ⟨64, false⟩) | 16 => some (.int ⟨64, true⟩)
  | _ => none

/-- The format of an element type. -/
def NumFmt.ofElem : ElemTy → NumFmt
  | .f32 => .flt .f32 | .bf16 => .flt .bf16 | .f16 => .flt .f16
  | .i32 => .int ⟨32, true⟩ | .i16 => .int ⟨16, true⟩ | .i8 => .int ⟨8, true⟩
  | .u32 => .int ⟨32, false⟩ | .u16 => .int ⟨16, false⟩ | .u8 => .int ⟨8, false⟩
  | .e4m3 => .flt .e4m3 | .e5m2 => .flt .e5m2

/-- Width in bits. -/
def NumFmt.bits : NumFmt → Nat
  | .flt f => f.w
  | .int i => i.w

/-- The exact value of an encoding. -/
def NumFmt.decode (f : NumFmt) (x : Nat) : Val :=
  match f with
  | .flt f => f.decode x
  | .int i => Val.ofInt (i.decode x)

/-- An integer format. -/
def NumFmt.isInt : NumFmt → Bool
  | .flt _ => false
  | .int _ => true

/-- One `round` to a format (R108, R109). -/
def NumFmt.round (f : NumFmt) (v : Val) (mode : Nat) (sat fromInt : Bool) : Flagged Nat :=
  match f with
  | .flt f => f.round v mode sat
  | .int i => i.round v mode sat fromInt

/-- One conversion (R110): a float to its own format keeps its bits but for a NaN (R214). -/
def convert (src dst : NumFmt) (x : Nat) (mode : Nat) (sat : Bool) : Flagged Nat :=
  dst.round (src.decode x) mode sat src.isInt

/-- The value of an E2M1 code (R102). -/
def e2m1 (x : Nat) : Val :=
  let neg := decide (8 ≤ x % 16)
  match x % 8 with
  | 0 => .fin neg 0 0 | 1 => .fin neg 1 (-1) | 2 => .fin neg 1 0 | 3 => .fin neg 3 (-1)
  | 4 => .fin neg 2 0 | 5 => .fin neg 3 0 | 6 => .fin neg 4 0 | _ => .fin neg 6 0

/-- An E2M1 element under an E8M0 scale (R104). -/
def mxfp4 (x scale : Nat) : Val :=
  if scale = 255 then .nan
  else match e2m1 x with
    | .fin n m e => .fin n m (e + (scale : Int) - 127)
    | v => v

/-- A TX6 element under its block's two exponents (R105). "A magnitude of zero is zero, whatever the sign" does not say which of the two zeros: here
the element's sign stays, so that sign 1 gives the negative zero (log entry 80). -/
def tx6 (x e0 e1 : Nat) : Val :=
  let sel := if 32 ≤ x % 64 then e1 else e0
  if sel = 255 then .nan else .fin (decide (16 ≤ x % 32)) (x % 16) ((sel : Int) - 130)

/-- Q4G expansion (R124): the BF16 value of a weight under scale s (BF16 bits) and zero point z. -/
def q4g (q s z : Nat) : Flagged Nat :=
  let d : Int := (q : Int) - (z : Int)
  match FFmt.bf16.decode s with
  | .nan => ⟨FFmt.bf16.nan, 0⟩
  | .inf n =>
    if d = 0 then ⟨FFmt.bf16.nan, Flags.invalid⟩ else ⟨FFmt.bf16.infBits (n ^^ decide (d < 0)), 0⟩
  | v => FFmt.bf16.round ((Val.ofInt d).mul v).val 0 false

/-! ### Special functions (R217, R218)

The exact value of each function lies in an interval [m x 2^e, (m + 1) x 2^e) that integer arithmetic brackets; `exact`
says that it is m x 2^e itself. m has more than 60 significant bits, so the bracket decides every rounding of the 16-bit
formats. -/

/-- A bracketed positive value. -/
structure Bracket where
  m : Nat
  e : Int
  exact : Bool
deriving DecidableEq, Repr

/-- A value that rounds as every value of the bracket does. -/
def Bracket.val (b : Bracket) (neg : Bool) : Val := .fin neg (2 * b.m + (if b.exact then 0 else 1)) (b.e - 1)

/-- The fixed point of the series. -/
def fixBits : Nat := 192

/-- ln 2 in fixed point: the sum of 1 / (k 2^k). -/
def ln2Sum : Nat → Nat
  | 0 => 0
  | k + 1 => ln2Sum k + 2 ^ fixBits / ((k + 1) * 2 ^ (k + 1))

/-- ln 2 x 2^192. -/
def ln2Fix : Nat := ln2Sum 192

/-- The sum of y^k / k! from k, with the k-th term `t`. -/
def expSum (y : Nat) : Nat → Nat → Nat → Nat
  | 0, _, _ => 0
  | n + 1, k, t => t + expSum y n (k + 1) (t * y / 2 ^ fixBits / (k + 1))

/-- 2^f in fixed point, for f in [0, 1) in fixed point. -/
def exp2Fix (f : Nat) : Nat := expSum (f * ln2Fix / 2 ^ fixBits) 60 0 (2 ^ fixBits)

/-- x x 2^192 rounded down, for a finite value. -/
def fixFloor (n : Bool) (m : Nat) (x : Int) : Int :=
  let s := x + fixBits
  if 0 ≤ s then (if n then -((m <<< s.toNat : Nat) : Int) else (m <<< s.toNat : Nat))
  else
    let q := m >>> (-s).toNat
    if n then (if q <<< (-s).toNat = m then -(q : Int) else -(q : Int) - 1) else q

/-- 2^x for a finite x that is not an integer, or any x beyond the range where it matters. -/
def exp2Bracket (n : Bool) (m : Nat) (x : Int) : Bracket :=
  if 20 ≤ x + (m.log2 : Int) then (if n then ⟨2 ^ 62, -3000, false⟩ else ⟨2 ^ 62, 3000, false⟩)
  else if x + (m.log2 : Int) < -64 then (if n then ⟨2 ^ 62 - 1, -62, false⟩ else ⟨2 ^ 62, -62, false⟩)
  else
    let t := fixFloor n m x
    let k := t / (2 ^ fixBits : Nat)
    let f := (t % (2 ^ fixBits : Nat)).toNat
    if f = 0 then ⟨2 ^ 62, k - 62, true⟩ else ⟨exp2Fix f / 2 ^ (fixBits - 62), k - 62, false⟩

/-- The first bits of log2 of y in [1, 2), y in fixed point, by repeated squaring. -/
def log2Bits : Nat → Nat → Nat → Nat
  | 0, _, acc => acc
  | n + 1, y, acc =>
    let z := y * y / 2 ^ fixBits
    if 2 ^ (fixBits + 1) ≤ z then log2Bits n (z / 2) (2 * acc + 1) else log2Bits n z (2 * acc)

/-- log2 of a positive value m x 2^x that is no power of two: its sign and bracket. -/
def log2Bracket (m : Nat) (x : Int) : Bool × Bracket :=
  let l := m.log2
  let k := x + (l : Int)
  let fr := log2Bits 96 ((m <<< fixBits) >>> l) 0
  let t : Int := k * (2 ^ 96 : Nat) + fr
  if 0 ≤ t then (false, ⟨t.toNat, -96, false⟩) else (true, ⟨(-t - 1).toNat, -96, false⟩)

/-- 1 / (m x 2^x). -/
def rcpBracket (m : Nat) (x : Int) : Bracket :=
  let p := m.log2 + 64
  ⟨2 ^ p / m, -x - p, decide (2 ^ p % m = 0)⟩

/-- The square root of m x 2^x. -/
def sqrtBracket (m : Nat) (x : Int) : Bracket :=
  let sh := if x % 2 = 0 then 128 else 129
  let n := m <<< sh
  ⟨n.sqrt, (x - sh) / 2, decide (n.sqrt * n.sqrt = n)⟩

/-- 1 / sqrt(m x 2^x): floor of the root of 2^p / (m x 2^x). -/
def rsqrtBracket (m : Nat) (x : Int) : Bracket :=
  let p0 := 2 * m.log2 + 160
  let p := if (x + p0) % 2 = 0 then p0 else p0 + 1
  let q := 2 ^ p / m
  ⟨q.sqrt, (-x - (p : Int)) / 2, decide (2 ^ p % m = 0) && decide (q.sqrt * q.sqrt = q)⟩

/-- tanh of m x 2^x, m positive. -/
def tanhBracket (m : Nat) (x : Int) : Bracket :=
  if x + (m.log2 : Int) < -14 then ⟨(m <<< 70) - 1, x - 70, false⟩
  else if 5 ≤ x + (m.log2 : Int) then ⟨2 ^ 62 - 1, -62, false⟩
  else
    -- 2 x log2(e) in fixed point
    let t := (fixFloor false m (x + 1)).toNat * 2 ^ fixBits / ln2Fix
    let e := (exp2Fix (t % 2 ^ fixBits)) <<< (t / 2 ^ fixBits)
    ⟨(e - 2 ^ fixBits) * 2 ^ 100 / (e + 2 ^ fixBits), -100, false⟩

/-- The special functions. -/
inductive SpecFn where
  | exp2 | log2 | rcp | rsqrt | sqrt | tanh
deriving DecidableEq, Repr

/-- The opcode of a special function (R88). -/
def SpecFn.code : SpecFn → Nat
  | .exp2 => 0x28 | .log2 => 0x29 | .rcp => 0x2A | .rsqrt => 0x2B | .sqrt => 0x2C | .tanh => 0x2D

/-- The f32 error bound in units of the last place (R217). -/
def SpecFn.ulps : SpecFn → Nat
  | .tanh => 2
  | _ => 1

/-- The exact result: a special value with its flags, or a signed bracket (R218). -/
inductive SpecExact where
  | special (v : Val) (fl : Flags)
  | real (neg : Bool) (b : Bracket)
deriving DecidableEq, Repr

/-- The exact result of a special function. -/
def SpecFn.exact (f : SpecFn) (v : Val) : SpecExact :=
  let one : Val := .fin false 1 0
  match v with
  | .nan => .special .nan 0
  | .inf n =>
    match f with
    | .exp2 => .special (if n then Val.zero else .inf false) 0
    | .log2 => if n then .special .nan Flags.invalid else .special (.inf false) 0
    | .rcp => .special (.fin n 0 0) 0
    | .rsqrt => if n then .special .nan Flags.invalid else .special Val.zero 0
    | .sqrt => if n then .special .nan Flags.invalid else .special (.inf false) 0
    | .tanh => .special (.fin n 1 0) 0
  | .fin n m x =>
    if m = 0 then
      match f with
      | .exp2 => .special one 0
      | .log2 => .special (.inf true) Flags.divzero
      | .rcp => .special (.inf n) Flags.divzero
      | .rsqrt => .special (.inf n) Flags.divzero
      | .sqrt => .special v 0
      | .tanh => .special v 0
    else
      match f with
      | .exp2 => .real false (exp2Bracket n m x)
      | .rcp => .real n (rcpBracket m x)
      | .tanh => .real n (tanhBracket m x)
      | .log2 =>
        if n then .special .nan Flags.invalid
        else if m = 2 ^ m.log2 then .special (Val.ofInt (x + (m.log2 : Int))) 0
        else let b := log2Bracket m x; .real b.1 b.2
      | .rsqrt => if n then .special .nan Flags.invalid else .real false (rsqrtBracket m x)
      | .sqrt => if n then .special .nan Flags.invalid else .real false (sqrtBracket m x)

/-- Whether an encoding lies within k units of the last place of a bracketed value (R217), by magnitudes. -/
def withinUlps (f : FFmt) (b : Bracket) (k : Nat) (x : Nat) : Bool :=
  match f.decode x with
  | .fin _ m e =>
    let ulp := max (b.e + (b.m.log2 : Int)) f.emin - f.fb
    let l := min (min ulp e) b.e
    let at' (y : Nat) (z : Int) : Int := (y <<< (z - l).toNat : Nat)
    decide (at' m e - at' k ulp ≤ at' b.m b.e) && decide (at' (b.m + 1) b.e ≤ at' m e + at' k ulp)
  | _ => false

/-- The f32 results that R217 allows: the encodings of its sign within the bound, near the correctly rounded one, at most
`top` in magnitude. -/
def f32Candidates (b : Bracket) (k top : Nat) : List Nat :=
  let r := (FFmt.f32.round (b.val false) 1 false).val
  ((List.range 8).map fun i => r + i - 3).filter fun x => decide (x ≤ top) && withinUlps FFmt.f32 b k x

/-- A special function in a format (R217, R218). R217 itself gives rcp.f32 of 3.0, and R347 that of 10,240. An f32 result that is no value of f32 is
the candidate that `Config.specialPick` selects, also where the exact result is known, as 2^-150 is (log entry 5). UNDERFLOW and OVERFLOW are those of
R108 on the exact value. -/
def SpecFn.eval (f : SpecFn) (fmt : FFmt) (x mode : Nat) (sat : Bool) : Flagged Nat :=
  match f.exact (fmt.decode x) with
  | .special v fl => let r := fmt.round v mode sat; ⟨r.val, r.fl ||| fl⟩
  | .real neg b =>
    let r := fmt.round (b.val neg) mode sat
    if fmt.w ≠ 32 || f = .sqrt || (b.exact && r.fl &&& Flags.inexact = 0) || (f = .rcp && (x = 0x40400000 || x = 0x46200000)) || r.fl &&& Flags.overflow ≠ 0 then r
    else
      let top := if f = .tanh then 0x3F800000 else FFmt.f32.maxBits false
      let cs := f32Candidates b f.ulps top
      let y := cs.getD (Config.specialPick f.code x % cs.length) (r.val % 2 ^ 31)
      ⟨(if neg then 2 ^ 31 else 0) + y, Flags.inexact ||| (r.fl &&& Flags.underflow)⟩

end Sys2Proof.Machine
end

