-- ==== Sys2Proof/Decode.lean ====
section
/-! DEFINITION. Decode.lean: from the words of a bundle (R73 to R90) and of a stream command (R357 to R372) to operations,
total on any bits, rejecting by name; and after it the encoder, written from the same tables. -/

namespace Sys2Proof

/-- Why a slot is not an operation: an unassigned opcode (phase 2 of R91) or a breach of the slot's format (phase 3). -/
inductive DecErr where
  | op | form
deriving DecidableEq, Repr

/-- The answer of a slot decoder. -/
abbrev Dec := Res DecErr Instr

/-- An operation whose unused fields are zero (`c`, R80) and whose fields are in range. -/
def mk (c : Bool) (i : Instr) : Dec := if c && i.wf then .ok i else .error .form

/-- An operation, if its coded fields are all assigned. -/
def mkOpt (c : Bool) : Option Instr → Dec
  | some i => mk c i
  | none => .error .form

/-! ### Field readers -/

/-- The guard of an S, M, L or T slot (R81). -/
def guardOf64 (x : W64) : Guard := ⟨slice x 52 4, x.getLsbD 51⟩

/-- The guard of an E slot (R86). -/
def guardOf48 (x : BitVec 48) : Guard := ⟨slice x 38 4, x.getLsbD 37⟩

/-- S fields d, a, b, ext16, ext6, imm32 (R81). -/
def sD (x : W64) : BitVec 6 := slice x 44 6
def sA (x : W64) : BitVec 6 := slice x 38 6
def sB (x : W64) : BitVec 6 := slice x 32 6
def sExt (x : W64) : BitVec 16 := slice x 16 16
def sImm (x : W64) : BitVec 32 := slice x 0 32

/-- S.R with bits [15:0] zero and bit [50] 0. -/
def isR (x : W64) : Bool := !x.getLsbD 50 && decide (slice x 0 16 = (0 : BitVec 16))

/-- S.I: bit [50]. -/
def isI (x : W64) : Bool := x.getLsbD 50

/-- An operation with an S.R and an S.I form (R178). -/
def decRI (x : W64) (r : SRR → Instr) (i : SRI → Instr) : Dec :=
  let g := guardOf64 x
  if isI x then mk (decide (sB x = 0)) (i ⟨g, sD x, sA x, sImm x⟩)
  else mk (isR x && decide (sExt x = 0)) (r ⟨g, sD x, sA x, sB x⟩)

/-- A shift or `rot` (R178). -/
def decShift (x : W64) (r : SRR → Instr) (i : SR → BitVec 6 → Instr) : Dec :=
  let g := guardOf64 x
  if isI x then mk (decide (sB x = 0) && decide (slice x 6 26 = (0 : BitVec 26))) (i ⟨g, sD x, sA x⟩ (slice x 0 6))
  else mk (isR x && decide (sExt x = 0)) (r ⟨g, sD x, sA x, sB x⟩)

/-- A unary operation of S.R (R179). -/
def decUn (x : W64) (c : SR → Instr) : Dec :=
  mk (isR x && decide (sExt x = 0) && decide (sB x = 0)) (c ⟨guardOf64 x, sD x, sA x⟩)

/-- A predicate number in a 6-bit field (R63). -/
def isP (f : BitVec 6) : Bool := decide (f.toNat < 16)

/-- A two-source predicate operation (R182). -/
def decPP (x : W64) (c : SPP → Instr) : Dec :=
  mk (isR x && decide (slice (sExt x) 2 14 = (0 : BitVec 14)) && isP (sD x) && isP (sA x) && isP (sB x))
    (c ⟨guardOf64 x, (sD x).truncate 4, (sA x).truncate 4, (sB x).truncate 4, (sExt x).getLsbD 1, (sExt x).getLsbD 0⟩)

/-- The fields that S.B operations without a condition leave zero: [50:44] (R81, R184). -/
def noCond (x : W64) : Bool := decide (slice x 44 7 = (0 : BitVec 7))

/-- A CSR write (R193). -/
def decCsr (x : W64) (c : SC → Instr) : Dec :=
  let g := guardOf64 x
  let n : BitVec 12 := slice x 20 12
  if isI x then mk (decide (sA x = 0) && decide (sB x = 0)) (c ⟨g, sD x, n, .imm (slice x 0 20)⟩)
  else mk (decide (sB x = 0) && decide (slice x 0 20 = (0 : BitVec 20))) (c ⟨g, sD x, n, .reg (sA x)⟩)

/-! ### The S slot (R178 to R199) -/

/-- The S slot. -/
def decodeS (x : W64) : Dec :=
  let g := guardOf64 x
  let d := sD x
  let a := sA x
  let b := sB x
  let e := sExt x
  let im := sImm x
  match (slice x 56 8).toNat with
  | 0x01 => decRI x .add .addImm
  | 0x02 => decRI x .sub .subImm
  | 0x03 => decRI x .mul .mulImm
  | 0x04 => decRI x .mulh .mulhImm
  | 0x05 => decRI x .mulhu .mulhuImm
  | 0x06 => decRI x .and .andImm
  | 0x07 => decRI x .or .orImm
  | 0x08 => decRI x .xor .xorImm
  | 0x09 => decRI x .andn .andnImm
  | 0x0A => decShift x .shl .shlImm
  | 0x0B => decShift x .shr .shrImm
  | 0x0C => decShift x .sar .sarImm
  | 0x0D => decShift x .rot .rotImm
  | 0x0E => decRI x .min .minImm
  | 0x0F => decRI x .max .maxImm
  | 0x10 => decRI x .minu .minuImm
  | 0x11 => decRI x .maxu .maxuImm
  | 0x12 => decUn x .clz
  | 0x13 => decUn x .ctz
  | 0x14 => decUn x .popc
  | 0x15 => mk (isR x && decide (b = 0) && decide (slice e 13 3 = (0 : BitVec 3)))
      (.bext ⟨g, d, a⟩ (e.getLsbD 12) (slice e 6 6) (slice e 0 6))
  | 0x16 => mk (isR x && decide (slice e 12 4 = (0 : BitVec 4))) (.bins ⟨g, d, a, b⟩ (slice e 6 6) (slice e 0 6))
  | 0x17 => mk (isR x && decide (b = 0) && decide (slice e 6 10 = (0 : BitVec 10))) (.sext ⟨g, d, a⟩ (slice e 0 6))
  | 0x18 => mk (isR x && decide (b = 0) && decide (slice e 6 10 = (0 : BitVec 10))) (.zext ⟨g, d, a⟩ (slice e 0 6))
  | 0x19 => decUn x .abs
  | 0x1A => mk (isR x && decide (slice e 5 11 = (0 : BitVec 11))) (.sel ⟨g, d, a, b⟩ (e.getLsbD 4) (slice e 0 4))
  | 0x1B => decUn x .mov
  | 0x1C => mk (isI x && decide (a = 0) && decide (b = 0)) (.li g d im)
  | 0x1D => mk (isI x && decide (b = 0)) (.lih ⟨g, d, a, im⟩)
  | 0x20 =>
    if isI x then mk (isP d && decide (slice b 4 2 = (0 : BitVec 2))) (.cmpImm g (d.truncate 4) a im (b.truncate 4))
    else mk (isR x && isP d && decide (slice e 4 12 = (0 : BitVec 12))) (.cmp g (d.truncate 4) a b (slice e 0 4))
  | 0x21 => decPP x .pand
  | 0x22 => decPP x .por
  | 0x23 => decPP x .pxor
  | 0x24 => mk (isR x && decide (e = 0) && decide (b = 0) && isP d && isP a) (.pnot g (d.truncate 4) (a.truncate 4))
  | 0x25 => mk (isR x && decide (e = 0) && decide (b = 0) && isP d && isP a) (.pmov g (d.truncate 4) (a.truncate 4))
  | 0x26 => mk (isR x && decide (slice e 1 15 = (0 : BitVec 15)) && decide (a = 0) && decide (b = 0) && isP d)
      (.pset g (d.truncate 4) (e.getLsbD 0))
  | 0x30 => mk (decide (slice x 44 2 = (0 : BitVec 2)) && decide (a = 0) && decide (b = 0))
      (.br g (slice x 47 4) (x.getLsbD 46) im)
  | 0x31 => mk (noCond x && decide (a = 0) && decide (b = 0)) (.jmp g im)
  | 0x32 => mk (noCond x && decide (b = 0)) (.call g a im)
  | 0x33 => mk (isR x && decide (d = 0) && decide (b = 0) && decide (e = 0)) (.ret g a)
  | 0x34 => decUn x .jr
  | 0x35 => mk (noCond x && decide (a = 0) && decide (slice b 1 5 = (0 : BitVec 5))) (.loop g (b.getLsbD 0) im)
  | 0x36 => mk (noCond x && decide (slice b 1 5 = (0 : BitVec 5))) (.chk g (b.getLsbD 0) a im)
  | 0x37 => mk (noCond x) (.bsw g a b im)
  | 0x40 =>
    if isI x then mk (decide (b = 0)) (.leaImm ⟨g, d, a, im⟩)
    else mk (isR x && decide (slice e 3 13 = (0 : BitVec 13))) (.lea ⟨g, d, a, b⟩ (slice e 0 3))
  | 0x41 => decRI x .madd .maddImm
  | 0x42 =>
    if isI x then mk true (.cincImm ⟨g, d, a, im⟩ b)
    else mk (isR x && decide (slice e 6 10 = (0 : BitVec 10))) (.cinc ⟨g, d, a, b⟩ (slice e 0 6))
  | 0x43 => mk (isI x && decide (d = 0) && decide (a = 0) && decide (b = 0) && decide (slice im 5 27 = (0 : BitVec 27)))
      (.rotinit g (slice im 0 5))
  | 0x44 => mk (isI x && decide (d = 0) && decide (b = 0)) (.stg g a im)
  | 0x45 => mk (isI x && decide (a = 0) && decide (b = 0) && decide (slice im 4 28 = (0 : BitVec 28)))
      (.lpr g d (slice im 0 4))
  | 0x50 => mk (!isI x && decide (a = 0) && decide (b = 0) && decide (slice x 0 20 = (0 : BitVec 20)))
      (.csrr g d (slice x 20 12))
  | 0x51 => decCsr x .csrw
  | 0x52 => decCsr x .csrs
  | 0x53 => decCsr x .csrc
  | 0x54 => mk (isI x && decide (d = 0) && decide (a = 0) && decide (b = 0)) (.trap g im)
  | 0x55 => mk (isI x && decide (d = 0) && decide (a = 0) && decide (b = 0)) (.brk g im)
  | 0x56 => mk (isR x && decide (d = 0) && decide (b = 0) && decide (slice e 10 6 = (0 : BitVec 6)) &&
      decide (slice e 0 6 = (0 : BitVec 6))) (.dpset g a (slice e 6 4))
  | 0x57 => mk (isR x && decide (d = 0) && decide (slice e 10 6 = (0 : BitVec 6)) && decide (slice e 2 4 = (0 : BitVec 4)))
      (.ttinv g a b (slice e 6 4) (slice e 0 2))
  | 0x58 => mk (isR x && decide (d = 0) && decide (slice e 6 10 = (0 : BitVec 10))) (.ownset g a b (slice e 0 6))
  | _ => .error .op

/-! ### The V slots (R207 to R227) -/

/-- The V.R operation of a slot, if its type code is assigned and bits [15:0] are zero. -/
def decV (u : VUnit) (x : W64) (c : VOp → Instr) : Dec :=
  mkOpt (decide (slice x 0 16 = (0 : BitVec 16)))
    ((ElemTy.ofCode (slice x 49 4).toNat).map fun ty =>
      c ⟨u, slice x 53 3, ty, slice x 43 6, slice x 37 6, slice x 31 6, slice x 25 6, slice x 23 2, x.getLsbD 22, slice x 16 6⟩)

/-- A V slot. -/
def decodeV (u : VUnit) (x : W64) : Dec :=
  match (slice x 56 8).toNat with
  | 0x01 => decV u x .vAdd
  | 0x02 => decV u x .vSub
  | 0x03 => decV u x .vMul
  | 0x04 => decV u x .vFma
  | 0x05 => decV u x .vFms
  | 0x06 => decV u x .vFnma
  | 0x07 => decV u x .vMin
  | 0x08 => decV u x .vMax
  | 0x09 => decV u x .vAbs
  | 0x0A => decV u x .vNeg
  | 0x0B => decV u x .vDot4
  | 0x10 => decV u x .vCmp
  | 0x11 => decV u x .vSel
  | 0x12 => decV u x .vAnd
  | 0x13 => decV u x .vOr
  | 0x14 => decV u x .vXor
  | 0x15 => decV u x .vNot
  | 0x16 => decV u x .vShl
  | 0x17 => decV u x .vShr
  | 0x18 => decV u x .vSar
  | 0x20 => decV u x .vCvt
  | 0x21 => decV u x .vPack
  | 0x22 => decV u x .vUnpack
  | 0x28 => decV u x .vExp2
  | 0x29 => decV u x .vLog2
  | 0x2A => decV u x .vRcp
  | 0x2B => decV u x .vRsqrt
  | 0x2C => decV u x .vSqrt
  | 0x2D => decV u x .vTanh
  | 0x30 => decV u x .vRadd
  | 0x31 => decV u x .vRmax
  | 0x32 => decV u x .vRmin
  | 0x33 => decV u x .vSadd
  | 0x34 => decV u x .vPerm
  | 0x35 => decV u x .vShuf
  | 0x36 => decV u x .vBcast
  | 0x37 => decV u x .vSlide
  | 0x38 => decV u x .vMov
  | 0x39 => mkOpt (decide (slice x 32 5 = (0 : BitVec 5)) && decide (slice x 37 6 = (0 : BitVec 6)))
      ((ElemTy.ofCode (slice x 49 4).toNat).map fun ty => .vMovi u (slice x 53 3) ty (slice x 43 6) (slice x 0 32))
  | 0x3A => decV u x .vMand
  | 0x3B => decV u x .vMor
  | 0x3C => decV u x .vMxor
  | 0x3D => decV u x .vMnot
  | 0x3F => match u with
    | .v0 => .error .op
    | .v1 => mk (decide (slice x 0 56 = (0 : BitVec 56))) .dup
  | _ => .error .op

/-! ### The X slot (R228) -/

/-- The latch of a code (R228). -/
def Latch.ofBits (x : BitVec 2) : Latch :=
  match x.toNat with
  | 0 => .sa0 | 1 => .sa1 | 2 => .sb0 | _ => .sb1

/-- The code of a latch. -/
def Latch.code : Latch → Nat
  | .sa0 => 0 | .sa1 => 1 | .sb0 => 2 | .sb1 => 3

/-- The X slot. -/
def decodeX (x : BitVec 24) : Dec :=
  let s : BitVec 6 := slice x 13 6
  let v : BitVec 6 := slice x 7 6
  let e : BitVec 7 := slice x 0 7
  match (slice x 19 5).toNat with
  | 0x01 => mk (decide (slice e 5 2 = (0 : BitVec 2))) (.xs2v s v (e.getLsbD 4) (slice e 0 4))
  | 0x02 => mk (decide (slice e 4 3 = (0 : BitVec 3))) (.xv2s s v (slice e 0 4))
  | 0x03 => mk (decide (slice e 1 6 = (0 : BitVec 6)) && decide (v.toNat < 8)) (.xm2s s (v.truncate 3) (e.getLsbD 0))
  | 0x04 => mk (decide (slice e 1 6 = (0 : BitVec 6)) && decide (v.toNat < 8)) (.xs2m s (v.truncate 3) (e.getLsbD 0))
  | 0x05 => mk (decide (slice e 0 5 = (0 : BitVec 5))) (.sld (Latch.ofBits (slice e 5 2)) v s)
  | 0x06 => mk (decide (slice e 2 3 = (0 : BitVec 3))) (.szp (Latch.ofBits (slice e 5 2)) v s (slice e 0 2))
  | 0x07 => mk (decide (slice e 0 5 = (0 : BitVec 5)) && decide (v = 0)) (.sclr (Latch.ofBits (slice e 5 2)) s)
  | _ => .error .op

/-! ### The M slot (R84, R238 to R248) -/

/-- The matrix format of a code (R84). -/
def MatFmt.ofCode : Nat → Option MatFmt
  | 0 => some .f64 | 2 => some .bf16 | 3 => some .f16 | 4 => some .e4m3 | 5 => some .e5m2 | 6 => some .mxfp4
  | 7 => some .tx6 | 8 => some .i8 | 10 => some .q4g
  | _ => none

/-- The code of a matrix format. -/
def MatFmt.code : MatFmt → Nat
  | .f64 => 0 | .bf16 => 2 | .f16 => 3 | .e4m3 => 4 | .e5m2 => 5 | .mxfp4 => 6 | .tx6 => 7 | .i8 => 8 | .q4g => 10

/-- `mma` and `mmr`. -/
def decMul (x : W64) (c : MMul → Instr) : Dec :=
  mkOpt (decide (slice x 0 24 = (0 : BitVec 24)))
    (match MatFmt.ofCode (slice x 45 4).toNat, MatFmt.ofCode (slice x 41 4).toNat with
      | some fa, some fb => some (c ⟨guardOf64 x, slice x 49 2, fa, fb, slice x 37 4, x.getLsbD 36, slice x 30 6, slice x 24 6⟩)
      | _, _ => none)

/-- `mst`, `mld`, `mrd`, `mwr`: fmtA, fmtB, Kb - 1, bank, sA and sB zero, and ext [15:12] zero. -/
def decMove (x : W64) (c : MMove → Instr) : Dec :=
  mk (decide (slice x 24 25 = (0 : BitVec 25)) && decide (slice x 12 4 = (0 : BitVec 4)))
    (c ⟨guardOf64 x, slice x 49 2, slice x 18 6, slice x 16 2, slice x 8 4, slice x 0 8⟩)

/-- The M slot. -/
def decodeM (x : W64) : Dec :=
  match (slice x 56 8).toNat with
  | 0x01 => decMul x .mma
  | 0x02 => decMul x .mmr
  | 0x03 => mk (decide (slice x 0 49 = (0 : BitVec 49))) (.mzero (guardOf64 x) (slice x 49 2))
  | 0x04 => decMove x .mst
  | 0x05 => decMove x .mld
  | 0x06 => decMove x .mrd
  | 0x07 => decMove x .mwr
  | _ => .error .op

/-! ### The L and T slots (R85, R249) -/

/-- The width of a code. -/
def Width.ofCode : Nat → Option Width
  | 0 => some .b | 1 => some .h | 2 => some .w | 3 => some .d | 4 => some .v
  | _ => none

/-- The code of a width. -/
def Width.code : Width → Nat
  | .b => 0 | .h => 1 | .w => 2 | .d => 3 | .v => 4

/-- The order of a code. -/
def Order.ofCode : Nat → Option Order
  | 0 => some .plain | 1 => some .acquire | 2 => some .release
  | _ => none

/-- The code of an order. -/
def Order.code : Order → Nat
  | .plain => 0 | .acquire => 1 | .release => 2

/-- The scope of a code (R12). -/
def Scope.ofCode : Nat → Option Scope
  | 0 => some .context | 1 => some .core | 2 => some .cluster | 3 => some .die | 4 => some .package | 5 => some .system
  | _ => none

/-- The code of a scope. -/
def Scope.code : Scope → Nat
  | .context => 0 | .core => 1 | .cluster => 2 | .die => 3 | .package => 4 | .system => 5

/-- The queued space of a code (R85). -/
def QSpace.ofCode : Nat → Option QSpace
  | 0 => some .k | 1 => some .d | 2 => some .m | 3 => some .f | 4 => some .h
  | _ => none

/-- The code of a queued space. -/
def QSpace.code : QSpace → Nat
  | .k => 0 | .d => 1 | .m => 2 | .f => 3 | .h => 4

/-- The shared fields of an L or T slot. -/
def accOf (x : W64) : Option Acc :=
  match Width.ofCode (slice x 35 3).toNat, Order.ofCode (slice x 33 2).toNat, Scope.ofCode (slice x 30 3).toNat with
  | some wd, some o, some sc => some ⟨guardOf64 x, x.getLsbD 50, slice x 44 6, wd, o, sc⟩
  | _, _, _ => none

/-- Base and displacement. -/
def decB (x : W64) (c : MemB → Instr) : Dec :=
  mkOpt true ((accOf x).map fun a => c ⟨a, slice x 38 6, slice x 0 30⟩)

/-- Handle and coordinates. -/
def decH (x : W64) (c : MemH → Instr) : Dec :=
  mkOpt (decide (slice x 42 2 = (0 : BitVec 2)))
    ((accOf x).map fun a =>
      c ⟨a, slice x 38 4, slice x 24 6, slice x 18 6, slice x 12 6, slice x 6 6, slice x 0 6⟩)

/-- Window loads (R147). -/
def decW (x : W64) (c : MemW → Instr) : Dec :=
  mkOpt (decide (slice x 41 3 = (0 : BitVec 3)))
    ((accOf x).map fun a => c ⟨a, slice x 38 3, slice x 24 6, slice x 18 6, slice x 0 18⟩)

/-- Gather and scatter (R249). -/
def decG (x : W64) (c : MemG → Instr) : Dec :=
  mkOpt true ((accOf x).map fun a => c ⟨a, slice x 38 6, slice x 24 6, slice x 21 3, slice x 0 21⟩)

/-- The L slot. -/
def decodeL (x : W64) : Dec :=
  match (slice x 56 8).toNat with
  | 0x01 => decB x .ldc
  | 0x02 => decB x .ldk
  | 0x03 => decB x .ldd
  | 0x04 => decH x .ldm
  | 0x05 => decH x .ldf
  | 0x06 => decH x .ldh
  | 0x07 => decW x .ldw
  | 0x08 => decW x .ldsw
  | 0x09 => decH x .ldsm
  | 0x0A => decG x .ldgc
  | _ => .error .op

/-- The operation of an `amo` code. -/
def AmoKind.ofCode : Nat → Option AmoKind
  | 0 => some .add | 1 => some .min | 2 => some .max | 3 => some .minu | 4 => some .maxu | 5 => some .and | 6 => some .or
  | 7 => some .xor | 8 => some .swap | 9 => some .cas | 10 => some .fadd
  | _ => none

/-- The code of an `amo` operation. -/
def AmoKind.code : AmoKind → Nat
  | .add => 0 | .min => 1 | .max => 2 | .minu => 3 | .maxu => 4 | .and => 5 | .or => 6 | .xor => 7 | .swap => 8 | .cas => 9
  | .fadd => 10

/-- `amo` (R85). -/
def decAmo (x : W64) : Dec :=
  mkOpt true
    (match QSpace.ofCode (slice x 35 3).toNat, Order.ofCode (slice x 33 2).toNat, Scope.ofCode (slice x 30 3).toNat,
        AmoKind.ofCode (slice x 26 4).toNat with
      | some sp, some o, some sc, some k =>
        some (.amo ⟨guardOf64 x, x.getLsbD 50, slice x 44 6, slice x 38 6, sp, o, sc, k, slice x 20 6, slice x 0 20⟩)
      | _, _, _, _ => none)

/-- The T slot. -/
def decodeT (x : W64) : Dec :=
  match (slice x 56 8).toNat with
  | 0x01 => decB x .stc
  | 0x02 => decB x .stk
  | 0x03 => decB x .std
  | 0x04 => decH x .stm
  | 0x05 => decH x .stf
  | 0x06 => decH x .sth
  | 0x07 => decG x .stsc
  | 0x10 => decAmo x
  | _ => .error .op

/-! ### The E slot (R86, R273 to R294) -/

/-- E fields a, b, c and imm19 (R86). -/
def eA (x : BitVec 48) : BitVec 6 := slice x 31 6
def eB (x : BitVec 48) : BitVec 6 := slice x 25 6
def eC (x : BitVec 48) : BitVec 6 := slice x 19 6
def eImm (x : BitVec 48) : BitVec 19 := slice x 0 19

/-- `cpy`, `gx`, `coll`. -/
def decEng (x : BitVec 48) (c : EngOp → Instr) : Dec :=
  mk (decide (slice x 16 3 = (0 : BitVec 3))) (c ⟨guardOf48 x, eA x, eB x, eC x, slice x 12 4, slice x 0 12⟩)

/-- The E slot. -/
def decodeE (x : BitVec 48) : Dec :=
  let g := guardOf48 x
  let a := eA x
  let b := eB x
  let c := eC x
  let m := eImm x
  match (slice x 42 6).toNat with
  | 0x01 => decEng x .cpy
  | 0x02 => decEng x .gx
  | 0x03 => mk (decide (a.toNat < 8) && decide (c = 0) && decide (slice m 9 10 = (0 : BitVec 10)) && decide (slice m 0 8 = (0 : BitVec 8)))
      (.wdef g (a.truncate 3) b (m.getLsbD 8))
  | 0x04 => mk (decide (a.toNat < 8) && decide (b = 0) && decide (c = 0) && decide (slice m 9 10 = (0 : BitVec 10)))
      (.wadv g (a.truncate 3) (m.getLsbD 8) (slice m 0 8))
  | 0x05 => mk (decide (a.toNat < 16) && decide (slice m 16 3 = (0 : BitVec 3)) && decide (slice m 6 6 = (0 : BitVec 6)))
      (.lb g (a.truncate 4) b c (slice m 12 4) (slice m 0 6))
  | 0x06 => mk (decide (a.toNat < 16) && decide (slice m 16 3 = (0 : BitVec 3)) && decide (slice m 0 12 = (0 : BitVec 12)))
      (.lbe g (a.truncate 4) b c (slice m 12 4))
  | 0x07 => decEng x .coll
  | 0x08 =>
    let o : SigOp := ⟨g, a, b, c, m.getLsbD 17, slice m 13 4, slice m 0 10⟩
    mk (decide (slice m 10 3 = (0 : BitVec 3))) (if m.getLsbD 18 then .csigRing o else .csig o)
  | 0x09 => mkOpt (decide (b = 0) && decide (c = 0) && decide (slice m 16 3 = (0 : BitVec 3)))
      ((ElemTy.ofCode (slice m 0 4).toNat).map fun ty => .frp g a ty (slice m 4 12))
  | 0x0A => mk (decide (a.toNat < 16) && decide (slice m 12 7 = (0 : BitVec 7)))
      (.frt g (a.truncate 4) b c (slice m 0 4) (slice m 4 4) (slice m 8 4))
  | 0x0B =>
    if m.getLsbD 0 then mk (decide (b = 0) && decide (c = 0) && decide (slice m 1 18 = (0 : BitVec 18))) (.fruSkip g a)
    else mk (decide (c = 0) && decide (slice m 1 18 = (0 : BitVec 18))) (.fru g a b)
  | 0x0C => mkOpt (decide (slice m 9 10 = (0 : BitVec 10)))
      ((ElemTy.ofCode (slice m 0 4).toNat).map fun ty => .frs g a b c ty (slice m 4 4) (m.getLsbD 8))
  | 0x10 => mk (decide (b = 0) && decide (c = 0) && decide (slice m 5 14 = (0 : BitVec 14)))
      (.ract g (m.getLsbD 4) (slice m 0 4) a)
  | 0x11 => mk (decide (a = 0) && decide (b = 0) && decide (c = 0) && decide (slice m 6 13 = (0 : BitVec 13)))
      (.rpre g (m.getLsbD 4) (m.getLsbD 5) (slice m 0 4))
  | 0x12 => mk (decide (a.toNat < 4) && decide (b = 0) && decide (c = 0) && decide (slice m 5 14 = (0 : BitVec 14)))
      (.rld g (a.truncate 2) (m.getLsbD 4) (slice m 0 4))
  | 0x13 => mk (decide (a.toNat < 4) && decide (b = 0) && decide (c = 0) && decide (slice m 5 14 = (0 : BitVec 14)))
      (.rstw g (a.truncate 2) (m.getLsbD 4) (slice m 0 4))
  | 0x14 => mk (decide (a = 0) && decide (b = 0) && decide (c = 0) && decide (slice m 5 14 = (0 : BitVec 14)) &&
      decide (slice m 2 2 = (0 : BitVec 2))) (.rref g (m.getLsbD 4) (slice m 0 2))
  | _ => .error .op

/-! ### The Y slot (R267 to R306) -/

/-- The Y slot. -/
def decodeY (x : BitVec 24) : Dec :=
  match (slice x 19 5).toNat with
  | 0x01 => mk (decide (slice x 0 9 = (0 : BitVec 9))) (.awaitf (slice x 13 6) (slice x 9 4))
  | 0x02 => mk (decide (slice x 0 9 = (0 : BitVec 9)) && decide (slice x 13 6 = (0 : BitVec 6))) (.rels (slice x 9 4))
  | 0x03 => mk (decide (slice x 5 14 = (0 : BitVec 14))) (.waitr (slice x 0 5))
  | 0x04 => mkOpt (decide (slice x 3 16 = (0 : BitVec 16))) ((Scope.ofCode (slice x 0 3).toNat).map .fence)
  | 0x05 =>
    match (slice x 16 3).toNat with
    | 1 => mk true (.bar false (slice x 12 4) (slice x 0 12))
    | 2 => mk true (.bar true (slice x 12 4) (slice x 0 12))
    | _ => .error .form
  | 0x06 => mk (decide (slice x 0 19 = (0 : BitVec 19))) .tend
  | 0x07 => mk (decide (slice x 6 13 = (0 : BitVec 13))) (.yield (slice x 0 6))
  | 0x08 => mk (decide (slice x 0 6 = (0 : BitVec 6))) (.ckeq (x.getLsbD 18) (slice x 12 6) (slice x 6 6))
  | 0x09 => mk (decide (slice x 0 12 = (0 : BitVec 12))) (.wtime (slice x 13 6) (x.getLsbD 12))
  | _ => .error .op

/-! ### The bundle (R73 to R79) -/

/-- The slots in the order of R91, with the slot codes of R377. -/
inductive Slot where
  | s | v0 | v1 | x | m | l | t | e | y
deriving DecidableEq, Repr

/-- The slot code of an info word (R377). -/
def Slot.code : Slot → Nat
  | .s => 1 | .v0 => 2 | .v1 => 3 | .x => 4 | .m => 5 | .l => 6 | .t => 7 | .e => 8 | .y => 9

/-- The nine slots. -/
def Slot.all : List Slot := [.s, .v0, .v1, .x, .m, .l, .t, .e, .y]

/-- The lowest bit and the width of a slot (R73). -/
def Slot.place : Slot → Nat × Nat
  | .s => (32, 64) | .v0 => (96, 64) | .v1 => (160, 64) | .m => (224, 64) | .l => (288, 64) | .t => (352, 64)
  | .e => (416, 48) | .y => (464, 24) | .x => (488, 24)

/-- The bits of a slot as a number. -/
def Slot.bitsOf (sl : Slot) (b : BitVec 512) : Nat := field b (sl.place.1 + sl.place.2 - 1) sl.place.1

/-- A slot: empty when its bits are all zero (R74). -/
def decodeSlot (sl : Slot) (b : BitVec 512) : Option Dec :=
  if sl.bitsOf b = 0 then none
  else some (match sl with
    | .s => decodeS (slice b 32 64)
    | .v0 => decodeV .v0 (slice b 96 64)
    | .v1 => decodeV .v1 (slice b 160 64)
    | .m => decodeM (slice b 224 64)
    | .l => decodeL (slice b 288 64)
    | .t => decodeT (slice b 352 64)
    | .e => decodeE (slice b 416 48)
    | .y => decodeY (slice b 464 24)
    | .x => decodeX (slice b 488 24))

/-- The opcode field of a slot. -/
def Slot.opcode (sl : Slot) (b : BitVec 512) : Nat :=
  match sl with
  | .e => field b 463 458
  | .y => field b 487 483
  | .x => field b 511 507
  | _ => field b (sl.place.1 + 63) (sl.place.1 + 56)

/-- A bundle's header fields (R75). -/
structure Header where
  gap : BitVec 4
  mark : Bool
  rot : Bool
  allotV0 : BitVec 2
  allotV1 : BitVec 2
  allotM : BitVec 2
  allotT : BitVec 2
  allotX : BitVec 2
deriving DecidableEq, Repr

/-- A header of zeros. -/
def Header.zero : Header := ⟨0, false, false, 0, 0, 0, 0, 0⟩

/-- The header of a line (R75). -/
def headerOf (b : BitVec 512) : Header :=
  ⟨slice b 24 4, b.getLsbD 23, b.getLsbD 22, slice b 20 2, slice b 18 2, slice b 16 2, slice b 14 2, slice b 12 2⟩

/-- The sum of the allotments (R24). -/
def Header.allot (h : Header) : Nat :=
  h.allotV0.toNat + h.allotV1.toNat + h.allotM.toNat + h.allotT.toNat + h.allotX.toNat

/-- Vector source fields that an operation uses (R78). -/
def Instr.vReads : Instr → Nat
  | .vFma _ | .vFms _ | .vFnma _ | .vDot4 _ => 3
  | .vAdd _ | .vSub _ | .vMul _ | .vMin _ | .vMax _ | .vCmp _ | .vSel _ | .vAnd _ | .vOr _ | .vXor _ | .vPack _ | .vPerm _
  | .vShuf _ | .vSlide _ => 2
  | .vShl o | .vShr o | .vSar o => if o.ext = 1 then 1 else 2
  | .vAbs _ | .vNeg _ | .vNot _ | .vCvt _ | .vUnpack _ | .vExp2 _ | .vLog2 _ | .vRcp _ | .vRsqrt _ | .vSqrt _ | .vTanh _
  | .vRadd _ | .vRmax _ | .vRmin _ | .vSadd _ | .vBcast _ | .vMov _ => 1
  | .mwr _ => 1
  | .stsc _ => 2
  | .stc o | .stk o | .std o => if o.acc.file then 1 else 0
  | .stm o | .stf o | .sth o => if o.acc.file then 1 else 0
  | .xv2s _ _ _ | .sld _ _ _ | .szp _ _ _ _ => 1
  | _ => 0

/-- The allotment that a slot has; the S, L, E and Y slots have none (R77). -/
def Header.of (h : Header) : Slot → Nat
  | .v0 => h.allotV0.toNat | .v1 => h.allotV1.toNat | .m => h.allotM.toNat | .t => h.allotT.toNat | .x => h.allotX.toNat
  | _ => 0

/-- The operations that require the mark bit (R34, R196). -/
def Instr.needsMark : Instr → Bool
  | .cpy _ | .gx _ | .wdef _ _ _ _ | .wadv _ _ _ _ | .lb _ _ _ _ _ _ | .lbe _ _ _ _ _ | .coll _ | .csig _ | .csigRing _
  | .fru _ _ _ | .fruSkip _ _ | .frs _ _ _ _ _ _ _ | .ract _ _ _ _ | .rpre _ _ _ _ | .rstw _ _ _ _ | .rref _ _ _
  | .rels _ | .bar _ _ _ | .tend | .amo _ | .dpset _ _ _ | .ttinv _ _ _ _ _ => true
  | _ => false

/-- Phase 3 of one slot beyond its own decoder: vector reads, mark bit, and the `dup` rules of R79. -/
def slotFits (h : Header) (v0Empty : Bool) (sl : Slot) (i : Instr) : Bool :=
  decide (i.vReads ≤ h.of sl) && (!i.needsMark || h.mark) &&
    (match i with
      | .dup => !v0Empty && decide (h.allotV1 = 0)
      | _ => true)

/-- A bundle: its header and its operations in the order of R91. -/
structure Bundle where
  hdr : Header
  ops : List (Slot × Instr)
deriving DecidableEq, Repr

/-- Why a bundle is refused in phases 1 to 3: the phase, the slot code (0 for the header) and the opcode. -/
structure BundleErr where
  phase : Nat
  slot : Nat
  opcode : Nat
deriving DecidableEq, Repr

/-- The first slot whose opcode is unassigned (phase 2). -/
def firstOpErr (b : BitVec 512) : List Slot → Option BundleErr
  | [] => none
  | sl :: r =>
    match decodeSlot sl b with
    | some (.error .op) => some ⟨2, sl.code, sl.opcode b⟩
    | _ => firstOpErr b r

/-- The operations, or the first slot that breaks its format (phase 3). -/
def decodeOps (b : BitVec 512) : List Slot → Res BundleErr (List (Slot × Instr))
  | [] => .ok []
  | sl :: r =>
    match decodeSlot sl b with
    | none => decodeOps b r
    | some (.ok i) =>
      if slotFits (headerOf b) (decide (Slot.v0.bitsOf b = 0)) sl i then (decodeOps b r).map ((sl, i) :: ·)
      else .error ⟨3, sl.code, sl.opcode b⟩
    | some (.error _) => .error ⟨3, sl.code, sl.opcode b⟩

/-- Phase 1 (R75, R77, R91). -/
def headerOk (b : BitVec 512) : Bool :=
  decide (slice b 28 4 = (0 : BitVec 4)) && decide (slice b 0 12 = (0 : BitVec 12)) && decide ((headerOf b).allot ≤ 6)

/-- Phases 1 to 3 of R91. -/
def decodeBundle (b : BitVec 512) : Res BundleErr Bundle :=
  if headerOk b then
    match firstOpErr b Slot.all with
    | some e => .error e
    | none => (decodeOps b Slot.all).map (⟨headerOf b, ·⟩)
  else .error ⟨1, 0, 0⟩

/-! ### Stream commands (R357 to R372) -/

/-- Why a command is refused (R357). -/
inductive CmdErr where
  | address    -- word 6: REJECTED with no status written
  | rejected   -- an unknown opcode, a reserved field or a value out of range
deriving DecidableEq, Repr

/-- A device address field with its bits [63:52] zero. -/
def dev52 (w : W64) : Bool := decide (field w 63 52 = 0)

/-- A core, slot word with nothing else (R366). -/
def ctxWord (w : W64) : CtxId := ⟨slice w 0 16, slice w 16 2⟩

/-- A stream named by [5:0] and [8] (R370, R372). -/
def streamWord (w : W64) : StreamId := ⟨w.getLsbD 8, slice w 0 6⟩

/-- Bits outside the listed fields are zero: `m` has a one in every bit of a field. -/
def within (w : W64) (m : Nat) : Bool := decide (w &&& ~~~(BitVec.ofNat 64 m) = 0)

/-- Words 1 to 5 and 7 named by the list are zero. -/
def zeros (l : List W64) : Bool := l.all fun w => decide (w = 0)

/-- A command, if its words are within their fields and its values in range. -/
def mkCmd (c : Bool) (i : Instr) : Res CmdErr Instr := if c && i.wf then .ok i else .error .rejected

/-- The opcodes that R358 assigns, with true for the control commands and none for those of both kinds. -/
def cmdKind : Nat → Option (Option Bool)
  | 0x00 => some none | 0x02 => some none | 0x03 => some none
  | 0x01 => some (some false) | 0x04 => some (some false)
  | 0x10 => some (some true) | 0x11 => some (some true) | 0x12 => some (some true) | 0x13 => some (some true)
  | 0x14 => some (some true) | 0x15 => some (some true) | 0x16 => some (some true) | 0x17 => some (some true)
  | 0x18 => some (some true) | 0x19 => some (some true) | 0x1A => some (some true)
  | _ => none

/-- The opcode of a command (R357). -/
def cmdOpcode (w0 : W64) : Nat := field w0 7 0

/-- A command of eight words. -/
def decodeWords (w0 w1 w2 w3 w4 w5 w6 w7 : W64) : Res CmdErr Instr :=
  let h : CmdHdr := ⟨slice w0 16 16, w6⟩
  let ok0 := decide (slice w0 8 8 = (0 : BitVec 8)) && decide (slice w0 32 32 = (0 : BitVec 32))
  if !doneOk w6 then .error .address
  else match cmdOpcode w0 with
  | 0x00 => mkCmd (ok0 && zeros [w1, w2, w3, w4, w5, w7]) (.nop h)
  | 0x01 => mkCmd (ok0 && within w1 0x0000FFFFFFFFFF3F && dev52 w2 && dev52 w3 && within w4 0x7FF && zeros [w5, w7])
      (.launch h ⟨slice w1 0 6, slice w1 8 20, slice w1 28 20, slice w2 0 52, slice w3 0 52, slice w4 0 11⟩)
  | 0x02 => mkCmd (ok0 && within w1 0x800FFFFFFFFFFFFF && within w4 0x107 && !w4.getLsbD 2 && zeros [w5, w7])
      (.waitValue h ⟨slice w1 0 52, w1.getLsbD 63, w2, w3, slice w4 0 2, w4.getLsbD 8⟩)
  | 0x03 =>
    let a : SignalArgs := ⟨slice w1 0 52, w1.getLsbD 63, w2, w3.getLsbD 8⟩
    let c := ok0 && within w1 0x800FFFFFFFFFFFFF && within w3 0x103 && zeros [w4, w5, w7]
    match (slice w3 0 2).toNat with
    | 0 => mkCmd c (.signalWrite h a)
    | 1 => mkCmd c (.signalAdd h a)
    | 2 => mkCmd c (.signalOr h a)
    | _ => .error .rejected
  | 0x04 => mkCmd (ok0 && zeros [w1, w2, w3, w4, w5, w7]) (.preemptPoint h)
  | 0x10 => mkCmd (ok0 && within w1 0x107FF && dev52 w2 && within w3 0x800FFFFFFFFFFFFF && within w4 0x1F &&
        within w5 0x3FFFFF0FFF && dev52 w7)
      (.setAs h ⟨slice w1 0 11, w1.getLsbD 16, slice w2 0 52, slice w3 0 52, w3.getLsbD 63, slice w4 0 5, w5.getLsbD 0, slice w5 1 11,
        slice w5 16 16, slice w5 32 2, slice w5 34 4, slice w7 0 52⟩)
  | 0x11 => mkCmd (ok0 && within w1 0x7FF && zeros [w2, w3, w4, w5, w7]) (.clearAs h (slice w1 0 11))
  | 0x12 => mkCmd (ok0 && within w1 0x7FF013F && dev52 w2 && zeros [w3, w4, w5, w7])
      (.placeTpl h ⟨slice w1 0 6, w1.getLsbD 8, slice w1 16 11, slice w2 0 52⟩)
  | 0x13 => mkCmd (ok0 && within w1 0x7FF013F && zeros [w2, w3, w4, w5, w7])
      (.dropTpl h ⟨slice w1 0 6, w1.getLsbD 8, slice w1 16 11, 0⟩)
  | 0x14 => mkCmd (ok0 && within w1 0xFF7FFFFFFF && dev52 w2 && dev52 w3 && zeros [w4, w5, w7])
      (.bindCtx h ⟨ctxWord w1, slice w1 18 11, w1.getLsbD 29, w1.getLsbD 30, slice w1 32 6, slice w1 38 2, slice w2 0 52, slice w3 0 52⟩)
  | 0x15 => mkCmd (ok0 && within w1 0x3FFFF && zeros [w2, w3, w4, w5, w7]) (.unbindCtx h (ctxWord w1))
  | 0x16 =>
    let c := ok0 && within w1 0x3FFFF && within w2 1 && zeros [w3, w4, w5, w7]
    if w2.getLsbD 0 then mkCmd c (.resumeCtxRetry h (ctxWord w1)) else mkCmd c (.resumeCtx h (ctxWord w1))
  | 0x17 =>
    let c := ok0 && within w1 0x3013F && zeros [w2, w3, w4, w5, w7]
    match (slice w1 16 2).toNat with
    | 0 => mkCmd c (.preemptAtPoint h (streamWord w1))
    | 1 => mkCmd c (.preemptStep h (streamWord w1))
    | 2 => mkCmd c (.preemptTask h (streamWord w1))
    | _ => mkCmd c (.preemptBundle h (streamWord w1))
  | 0x18 => mkCmd (ok0 && within w1 0xFFFFF && dev52 w2 && zeros [w3, w4, w5, w7])
      (.saveCtx h ⟨slice w1 0 16, slice w1 16 4, slice w2 0 52⟩)
  | 0x19 => mkCmd (ok0 && within w1 0xFFFFF && dev52 w2 && zeros [w3, w4, w5, w7])
      (.restoreCtx h ⟨slice w1 0 16, slice w1 16 4, slice w2 0 52⟩)
  | 0x1A => mkCmd (ok0 && within w1 0x13F && zeros [w2, w3, w4, w5, w7]) (.resumeStream h (streamWord w1))
  | _ => .error .rejected

/-- A command of 64 bytes, read as a 512-bit number. -/
def decodeCommand (b : BitVec 512) : Res CmdErr Instr :=
  decodeWords (slice b 0 64) (slice b 64 64) (slice b 128 64) (slice b 192 64) (slice b 256 64) (slice b 320 64) (slice b 384 64)
    (slice b 448 64)

/-- The operation that the decoder reads from a line whose bits are w: the line is a bundle, and the answer is the operation
of its first occupied slot in the order of R91. The opcode table gives its rows no bits, so every row is read this way. -/
def decodeTableWord (_nbits w : Nat) : Option Instr :=
  match decodeBundle (BitVec.ofNat 512 w) with
  | .ok ⟨_, (_, i) :: _⟩ => some i
  | _ => none

/-! ### The encoder -/

/-- The guard bits [55:51]. -/
def encG (g : Guard) : BitVec 5 := g.p ++ BitVec.ofBool g.neg

/-- S.R (R81). -/
def encR (op : BitVec 8) (g : Guard) (d a b : BitVec 6) (ext : BitVec 16) : W64 :=
  op ++ encG g ++ (0 : BitVec 1) ++ d ++ a ++ b ++ ext ++ (0 : BitVec 16)

/-- S.I (R81). -/
def encI (op : BitVec 8) (g : Guard) (d a e : BitVec 6) (imm : BitVec 32) : W64 :=
  op ++ encG g ++ (1 : BitVec 1) ++ d ++ a ++ e ++ imm

/-- S.B (R81). -/
def encB (op : BitVec 8) (g : Guard) (c : BitVec 4) (n : Bool) (a e : BitVec 6) (disp : BitVec 32) : W64 :=
  op ++ encG g ++ c ++ BitVec.ofBool n ++ (0 : BitVec 2) ++ a ++ e ++ disp

/-- S.C (R81). -/
def encC (op : BitVec 8) (g : Guard) (d : BitVec 6) (n : BitVec 12) : CsrSrc → W64
  | .reg a => op ++ encG g ++ (0 : BitVec 1) ++ d ++ a ++ (0 : BitVec 6) ++ n ++ (0 : BitVec 20)
  | .imm x => op ++ encG g ++ (1 : BitVec 1) ++ d ++ (0 : BitVec 6) ++ (0 : BitVec 6) ++ n ++ x

/-- A predicate or other small number in a 6-bit field. -/
def wide6 {w : Nat} (x : BitVec w) : BitVec 6 := x.setWidth 6

/-- S.R of an SRR. -/
def encRR (op : BitVec 8) (o : SRR) : W64 := encR op o.g o.d o.a o.b 0

/-- S.I of an SRI. -/
def encRI (op : BitVec 8) (o : SRI) : W64 := encI op o.g o.d o.a 0 o.imm

/-- S.I of a shift. -/
def encSh (op : BitVec 8) (o : SR) (n : BitVec 6) : W64 := encI op o.g o.d o.a 0 (n.setWidth 32)

/-- S.R of a unary operation. -/
def encUn (op : BitVec 8) (o : SR) : W64 := encR op o.g o.d o.a 0 0

/-- S.R of a two-source predicate operation. -/
def encPP (op : BitVec 8) (o : SPP) : W64 :=
  encR op o.g (wide6 o.d) (wide6 o.a) (wide6 o.b) ((0 : BitVec 14) ++ BitVec.ofBool o.na ++ BitVec.ofBool o.nb)

/-- V.R (R83). -/
def encV (op : BitVec 8) (o : VOp) : W64 :=
  op ++ o.m ++ BitVec.ofNat 4 o.ty.code ++ o.vd ++ o.va ++ o.vb ++ o.vc ++ o.rm ++ BitVec.ofBool o.sat ++ o.ext ++ (0 : BitVec 16)

/-- The M format of `mma` and `mmr` (R84). -/
def encMul (op : BitVec 8) (o : MMul) : W64 :=
  op ++ encG o.g ++ o.tile ++ BitVec.ofNat 4 o.fa.code ++ BitVec.ofNat 4 o.fb.code ++ o.kb1 ++ BitVec.ofBool o.bank ++ o.sA ++ o.sB ++
    (0 : BitVec 24)

/-- The M format of `mst`, `mld`, `mrd` and `mwr` (R84, R242). -/
def encMove (op : BitVec 8) (o : MMove) : W64 :=
  op ++ encG o.g ++ o.tile ++ (0 : BitVec 25) ++ o.reg ++ o.rm ++ (0 : BitVec 4) ++ o.code ++ o.lo

/-- Bits [63:30] of an L or T slot with its base field (R85). -/
def encAcc (op : BitVec 8) (a : Acc) (base : BitVec 6) (low : BitVec 30) : W64 :=
  op ++ encG a.g ++ BitVec.ofBool a.file ++ a.reg ++ base ++ BitVec.ofNat 3 a.width.code ++ BitVec.ofNat 2 a.order.code ++
    BitVec.ofNat 3 a.scope.code ++ low

/-- Base and displacement. -/
def encMB (op : BitVec 8) (o : MemB) : W64 := encAcc op o.acc o.base o.disp

/-- Handle and coordinates (R132). -/
def encMH (op : BitVec 8) (o : MemH) : W64 := encAcc op o.acc (wide6 o.h) (o.c0 ++ o.c1 ++ o.c2 ++ o.c3 ++ o.c4)

/-- Window loads (R147). -/
def encMW (op : BitVec 8) (o : MemW) : W64 := encAcc op o.acc (wide6 o.w) (o.row ++ o.off ++ o.imm)

/-- Gather and scatter (R249). -/
def encMG (op : BitVec 8) (o : MemG) : W64 := encAcc op o.acc o.base (o.x ++ o.m ++ o.disp)

/-- `amo` (R85). -/
def encAmo (o : AmoOp) : W64 :=
  (0x10 : BitVec 8) ++ encG o.g ++ BitVec.ofBool o.small ++ o.val ++ o.base ++ BitVec.ofNat 3 o.space.code ++
    BitVec.ofNat 2 o.order.code ++ BitVec.ofNat 3 o.scope.code ++ BitVec.ofNat 4 o.op.code ++ o.res ++ o.disp

/-- The E format (R86). -/
def encE (op : BitVec 6) (g : Guard) (a b c : BitVec 6) (imm : BitVec 19) : BitVec 48 := op ++ encG g ++ a ++ b ++ c ++ imm

/-- `cpy`, `gx`, `coll` (R273). -/
def encEng (op : BitVec 6) (o : EngOp) : BitVec 48 := encE op o.g o.a o.b o.c ((0 : BitVec 3) ++ o.ring ++ o.tmpl)

/-- `csig` (R285). -/
def encSig (kind : Bool) (o : SigOp) : BitVec 48 :=
  encE 0x08 o.g o.a o.b o.c (BitVec.ofBool kind ++ BitVec.ofBool o.ack ++ o.ring ++ (0 : BitVec 3) ++ o.counter)

/-- The X format (R86). -/
def encX (op : BitVec 5) (s v : BitVec 6) (e : BitVec 7) : BitVec 24 := op ++ s ++ v ++ e

/-- The Y format (R86). -/
def encY (op : BitVec 5) (low : BitVec 19) : BitVec 24 := op ++ low

/-- The bits of a slot operation, with its slot. -/
inductive SlotWord where
  | s (w : W64) | v (u : VUnit) (w : W64) | x (w : BitVec 24) | m (w : W64) | l (w : W64) | t (w : W64) | e (w : BitVec 48)
  | y (w : BitVec 24)
deriving DecidableEq, Repr

/-- The slot encoding of an operation (none for commands and events). -/
def encodeSlot : Instr → Option SlotWord
  | .add o => some (.s (encRR 0x01 o)) | .addImm o => some (.s (encRI 0x01 o))
  | .sub o => some (.s (encRR 0x02 o)) | .subImm o => some (.s (encRI 0x02 o))
  | .mul o => some (.s (encRR 0x03 o)) | .mulImm o => some (.s (encRI 0x03 o))
  | .mulh o => some (.s (encRR 0x04 o)) | .mulhImm o => some (.s (encRI 0x04 o))
  | .mulhu o => some (.s (encRR 0x05 o)) | .mulhuImm o => some (.s (encRI 0x05 o))
  | .and o => some (.s (encRR 0x06 o)) | .andImm o => some (.s (encRI 0x06 o))
  | .or o => some (.s (encRR 0x07 o)) | .orImm o => some (.s (encRI 0x07 o))
  | .xor o => some (.s (encRR 0x08 o)) | .xorImm o => some (.s (encRI 0x08 o))
  | .andn o => some (.s (encRR 0x09 o)) | .andnImm o => some (.s (encRI 0x09 o))
  | .shl o => some (.s (encRR 0x0A o)) | .shlImm o n => some (.s (encSh 0x0A o n))
  | .shr o => some (.s (encRR 0x0B o)) | .shrImm o n => some (.s (encSh 0x0B o n))
  | .sar o => some (.s (encRR 0x0C o)) | .sarImm o n => some (.s (encSh 0x0C o n))
  | .rot o => some (.s (encRR 0x0D o)) | .rotImm o n => some (.s (encSh 0x0D o n))
  | .min o => some (.s (encRR 0x0E o)) | .minImm o => some (.s (encRI 0x0E o))
  | .max o => some (.s (encRR 0x0F o)) | .maxImm o => some (.s (encRI 0x0F o))
  | .minu o => some (.s (encRR 0x10 o)) | .minuImm o => some (.s (encRI 0x10 o))
  | .maxu o => some (.s (encRR 0x11 o)) | .maxuImm o => some (.s (encRI 0x11 o))
  | .clz o => some (.s (encUn 0x12 o)) | .ctz o => some (.s (encUn 0x13 o)) | .popc o => some (.s (encUn 0x14 o))
  | .bext o sg pos len1 => some (.s (encR 0x15 o.g o.d o.a 0 ((0 : BitVec 3) ++ BitVec.ofBool sg ++ pos ++ len1)))
  | .bins o pos len1 => some (.s (encR 0x16 o.g o.d o.a o.b ((0 : BitVec 4) ++ pos ++ len1)))
  | .sext o n => some (.s (encR 0x17 o.g o.d o.a 0 (n.setWidth 16)))
  | .zext o n => some (.s (encR 0x18 o.g o.d o.a 0 (n.setWidth 16)))
  | .abs o => some (.s (encUn 0x19 o))
  | .sel o n p => some (.s (encR 0x1A o.g o.d o.a o.b ((0 : BitVec 11) ++ BitVec.ofBool n ++ p)))
  | .mov o => some (.s (encUn 0x1B o))
  | .li g d imm => some (.s (encI 0x1C g d 0 0 imm))
  | .lih o => some (.s (encRI 0x1D o))
  | .cmp g d a b cond => some (.s (encR 0x20 g (wide6 d) a b (cond.setWidth 16)))
  | .cmpImm g d a imm cond => some (.s (encI 0x20 g (wide6 d) a (wide6 cond) imm))
  | .pand o => some (.s (encPP 0x21 o)) | .por o => some (.s (encPP 0x22 o)) | .pxor o => some (.s (encPP 0x23 o))
  | .pnot g d a => some (.s (encR 0x24 g (wide6 d) (wide6 a) 0 0))
  | .pmov g d a => some (.s (encR 0x25 g (wide6 d) (wide6 a) 0 0))
  | .pset g d v => some (.s (encR 0x26 g (wide6 d) 0 0 ((0 : BitVec 15) ++ BitVec.ofBool v)))
  | .br g c n disp => some (.s (encB 0x30 g c n 0 0 disp))
  | .jmp g disp => some (.s (encB 0x31 g 0 false 0 0 disp))
  | .call g a disp => some (.s (encB 0x32 g 0 false a 0 disp))
  | .ret g a => some (.s (encR 0x33 g 0 a 0 0))
  | .jr o => some (.s (encUn 0x34 o))
  | .bsw g a n1 disp => some (.s (encB 0x37 g 0 false a n1 disp))
  | .chk g f a disp => some (.s (encB 0x36 g 0 false a ((0 : BitVec 5) ++ BitVec.ofBool f) disp))
  | .loop g l disp => some (.s (encB 0x35 g 0 false 0 ((0 : BitVec 5) ++ BitVec.ofBool l) disp))
  | .lea o sh => some (.s (encR 0x40 o.g o.d o.a o.b (sh.setWidth 16)))
  | .leaImm o => some (.s (encRI 0x40 o))
  | .madd o => some (.s (encRR 0x41 o)) | .maddImm o => some (.s (encRI 0x41 o))
  | .cinc o k => some (.s (encR 0x42 o.g o.d o.a o.b (k.setWidth 16)))
  | .cincImm o k => some (.s (encI 0x42 o.g o.d o.a k o.imm))
  | .rotinit g n => some (.s (encI 0x43 g 0 0 0 (n.setWidth 32)))
  | .stg g a imm => some (.s (encI 0x44 g 0 a 0 imm))
  | .lpr g d n => some (.s (encI 0x45 g d 0 0 (n.setWidth 32)))
  | .csrr g d n => some (.s (encC 0x50 g d n (.reg 0)))
  | .csrw o => some (.s (encC 0x51 o.g o.d o.csr o.src)) | .csrs o => some (.s (encC 0x52 o.g o.d o.csr o.src))
  | .csrc o => some (.s (encC 0x53 o.g o.d o.csr o.src))
  | .trap g code => some (.s (encI 0x54 g 0 0 0 code)) | .brk g code => some (.s (encI 0x55 g 0 0 0 code))
  | .dpset g a ring => some (.s (encR 0x56 g 0 a 0 ((0 : BitVec 6) ++ ring ++ (0 : BitVec 6))))
  | .ttinv g a b ring kind => some (.s (encR 0x57 g 0 a b ((0 : BitVec 6) ++ ring ++ (0 : BitVec 4) ++ kind)))
  | .ownset g a b n => some (.s (encR 0x58 g 0 a b (n.setWidth 16)))
  | .vAdd o => some (.v o.u (encV 0x01 o)) | .vSub o => some (.v o.u (encV 0x02 o)) | .vMul o => some (.v o.u (encV 0x03 o))
  | .vFma o => some (.v o.u (encV 0x04 o)) | .vFms o => some (.v o.u (encV 0x05 o)) | .vFnma o => some (.v o.u (encV 0x06 o))
  | .vMin o => some (.v o.u (encV 0x07 o)) | .vMax o => some (.v o.u (encV 0x08 o)) | .vAbs o => some (.v o.u (encV 0x09 o))
  | .vNeg o => some (.v o.u (encV 0x0A o)) | .vDot4 o => some (.v o.u (encV 0x0B o))
  | .vCmp o => some (.v o.u (encV 0x10 o)) | .vSel o => some (.v o.u (encV 0x11 o)) | .vAnd o => some (.v o.u (encV 0x12 o))
  | .vOr o => some (.v o.u (encV 0x13 o)) | .vXor o => some (.v o.u (encV 0x14 o)) | .vNot o => some (.v o.u (encV 0x15 o))
  | .vShl o => some (.v o.u (encV 0x16 o)) | .vShr o => some (.v o.u (encV 0x17 o)) | .vSar o => some (.v o.u (encV 0x18 o))
  | .vCvt o => some (.v o.u (encV 0x20 o)) | .vPack o => some (.v o.u (encV 0x21 o)) | .vUnpack o => some (.v o.u (encV 0x22 o))
  | .vExp2 o => some (.v o.u (encV 0x28 o)) | .vLog2 o => some (.v o.u (encV 0x29 o)) | .vRcp o => some (.v o.u (encV 0x2A o))
  | .vRsqrt o => some (.v o.u (encV 0x2B o)) | .vSqrt o => some (.v o.u (encV 0x2C o)) | .vTanh o => some (.v o.u (encV 0x2D o))
  | .vRadd o => some (.v o.u (encV 0x30 o)) | .vRmax o => some (.v o.u (encV 0x31 o)) | .vRmin o => some (.v o.u (encV 0x32 o))
  | .vSadd o => some (.v o.u (encV 0x33 o)) | .vPerm o => some (.v o.u (encV 0x34 o)) | .vShuf o => some (.v o.u (encV 0x35 o))
  | .vBcast o => some (.v o.u (encV 0x36 o)) | .vSlide o => some (.v o.u (encV 0x37 o)) | .vMov o => some (.v o.u (encV 0x38 o))
  | .vMovi u m ty vd imm => some (.v u
      ((0x39 : BitVec 8) ++ m ++ BitVec.ofNat 4 ty.code ++ vd ++ (0 : BitVec 6) ++ (0 : BitVec 5) ++ imm))
  | .vMand o => some (.v o.u (encV 0x3A o)) | .vMor o => some (.v o.u (encV 0x3B o)) | .vMxor o => some (.v o.u (encV 0x3C o))
  | .vMnot o => some (.v o.u (encV 0x3D o))
  | .dup => some (.v .v1 0x3F00000000000000)
  | .xs2v a vd all j => some (.x (encX 0x01 a vd ((0 : BitVec 2) ++ BitVec.ofBool all ++ j)))
  | .xv2s d va j => some (.x (encX 0x02 d va ((0 : BitVec 3) ++ j)))
  | .xm2s d m h => some (.x (encX 0x03 d (wide6 m) ((0 : BitVec 6) ++ BitVec.ofBool h)))
  | .xs2m a m h => some (.x (encX 0x04 a (wide6 m) ((0 : BitVec 6) ++ BitVec.ofBool h)))
  | .sld l va a => some (.x (encX 0x05 a va (BitVec.ofNat 2 l.code ++ (0 : BitVec 5))))
  | .szp l va a g => some (.x (encX 0x06 a va (BitVec.ofNat 2 l.code ++ (0 : BitVec 3) ++ g)))
  | .sclr l a => some (.x (encX 0x07 a 0 (BitVec.ofNat 2 l.code ++ (0 : BitVec 5))))
  | .mma o => some (.m (encMul 0x01 o)) | .mmr o => some (.m (encMul 0x02 o))
  | .mzero g t => some (.m ((0x03 : BitVec 8) ++ encG g ++ t ++ (0 : BitVec 49)))
  | .mst o => some (.m (encMove 0x04 o)) | .mld o => some (.m (encMove 0x05 o)) | .mrd o => some (.m (encMove 0x06 o))
  | .mwr o => some (.m (encMove 0x07 o))
  | .ldc o => some (.l (encMB 0x01 o)) | .ldk o => some (.l (encMB 0x02 o)) | .ldd o => some (.l (encMB 0x03 o))
  | .ldm o => some (.l (encMH 0x04 o)) | .ldf o => some (.l (encMH 0x05 o)) | .ldh o => some (.l (encMH 0x06 o))
  | .ldw o => some (.l (encMW 0x07 o)) | .ldsw o => some (.l (encMW 0x08 o)) | .ldsm o => some (.l (encMH 0x09 o))
  | .ldgc o => some (.l (encMG 0x0A o))
  | .stc o => some (.t (encMB 0x01 o)) | .stk o => some (.t (encMB 0x02 o)) | .std o => some (.t (encMB 0x03 o))
  | .stm o => some (.t (encMH 0x04 o)) | .stf o => some (.t (encMH 0x05 o)) | .sth o => some (.t (encMH 0x06 o))
  | .stsc o => some (.t (encMG 0x07 o)) | .amo o => some (.t (encAmo o))
  | .cpy o => some (.e (encEng 0x01 o)) | .gx o => some (.e (encEng 0x02 o))
  | .wdef g w b n => some (.e (encE 0x03 g (wide6 w) b 0 ((0 : BitVec 10) ++ BitVec.ofBool n ++ (0 : BitVec 8))))
  | .wadv g w n c => some (.e (encE 0x04 g (wide6 w) 0 0 ((0 : BitVec 10) ++ BitVec.ofBool n ++ c)))
  | .lb g h b c r n => some (.e (encE 0x05 g (wide6 h) b c ((0 : BitVec 3) ++ r ++ (0 : BitVec 6) ++ n)))
  | .lbe g h b c r => some (.e (encE 0x06 g (wide6 h) b c ((0 : BitVec 3) ++ r ++ (0 : BitVec 12))))
  | .coll o => some (.e (encEng 0x07 o))
  | .csig o => some (.e (encSig false o)) | .csigRing o => some (.e (encSig true o))
  | .frp g a ty n => some (.e (encE 0x09 g a 0 0 ((0 : BitVec 3) ++ n ++ BitVec.ofNat 4 ty.code)))
  | .frt g pd sO sE lT lL lS => some (.e (encE 0x0A g (wide6 pd) sO sE ((0 : BitVec 7) ++ lS ++ lL ++ lT)))
  | .fru g sE sO => some (.e (encE 0x0B g sE sO 0 0))
  | .fruSkip g sE => some (.e (encE 0x0B g sE 0 0 1))
  | .frs g f c n ty lS dis => some (.e (encE 0x0C g f c n ((0 : BitVec 10) ++ BitVec.ofBool dis ++ lS ++ BitVec.ofNat 4 ty.code)))
  | .ract g ch bank a => some (.e (encE 0x10 g a 0 0 ((0 : BitVec 14) ++ BitVec.ofBool ch ++ bank)))
  | .rpre g ch all bank => some (.e (encE 0x11 g 0 0 0 ((0 : BitVec 13) ++ BitVec.ofBool all ++ BitVec.ofBool ch ++ bank)))
  | .rld g rb ch bank => some (.e (encE 0x12 g (wide6 rb) 0 0 ((0 : BitVec 14) ++ BitVec.ofBool ch ++ bank)))
  | .rstw g rb ch bank => some (.e (encE 0x13 g (wide6 rb) 0 0 ((0 : BitVec 14) ++ BitVec.ofBool ch ++ bank)))
  | .rref g ch set => some (.e (encE 0x14 g 0 0 0 ((0 : BitVec 14) ++ BitVec.ofBool ch ++ (0 : BitVec 2) ++ set)))
  | .awaitf d r => some (.y (encY 0x01 (d ++ r ++ (0 : BitVec 9))))
  | .rels r => some (.y (encY 0x02 ((0 : BitVec 6) ++ r ++ (0 : BitVec 9))))
  | .waitr m => some (.y (encY 0x03 ((0 : BitVec 14) ++ m)))
  | .fence sc => some (.y (encY 0x04 (BitVec.ofNat 19 sc.code)))
  | .bar cl id n => some (.y (encY 0x05 ((if cl then (2 : BitVec 3) else 1) ++ id ++ n)))
  | .tend => some (.y (encY 0x06 0))
  | .yield n => some (.y (encY 0x07 ((0 : BitVec 13) ++ n)))
  | .ckeq p a b => some (.y (encY 0x08 (BitVec.ofBool p ++ a ++ b ++ (0 : BitVec 6))))
  | .wtime a rel => some (.y (encY 0x09 (a ++ BitVec.ofBool rel ++ (0 : BitVec 12))))
  | _ => none

/-- What a slot's own decoder reads from its bits. -/
def decodeSlotWord : SlotWord → Dec
  | .s w => decodeS w
  | .v u w => decodeV u w
  | .x w => decodeX w
  | .m w => decodeM w
  | .l w => decodeL w
  | .t w => decodeT w
  | .e w => decodeE w
  | .y w => decodeY w

/-- The bits of a bundle that holds one slot and a header (R73). -/
def SlotWord.line (h : BitVec 32) : SlotWord → BitVec 512
  | .s w => w.setWidth 512 <<< 32 ||| h.setWidth 512
  | .v .v0 w => w.setWidth 512 <<< 96 ||| h.setWidth 512
  | .v .v1 w => w.setWidth 512 <<< 160 ||| h.setWidth 512
  | .m w => w.setWidth 512 <<< 224 ||| h.setWidth 512
  | .l w => w.setWidth 512 <<< 288 ||| h.setWidth 512
  | .t w => w.setWidth 512 <<< 352 ||| h.setWidth 512
  | .e w => w.setWidth 512 <<< 416 ||| h.setWidth 512
  | .y w => w.setWidth 512 <<< 464 ||| h.setWidth 512
  | .x w => w.setWidth 512 <<< 488 ||| h.setWidth 512

/-- The header that a bundle of one operation carries: its allotment (R78, R98) and, where R34 or R196 requires it, the mark
bit. -/
def soloHeader (i : Instr) : SlotWord → BitVec 32
  | .v .v0 _ => (BitVec.ofNat 32 i.vReads) <<< 20
  | .v .v1 _ => (BitVec.ofNat 32 i.vReads) <<< 18
  | .m _ => (BitVec.ofNat 32 i.vReads) <<< 16
  | .t _ => (BitVec.ofNat 32 i.vReads) <<< 14 ||| (if i.needsMark then 0x00800000 else 0)
  | .x _ => (BitVec.ofNat 32 i.vReads) <<< 12
  | _ => if i.needsMark then 0x00800000 else 0

/-- The eight words of a stream command (R357 to R372): words 1, 2, 3, 4, 5, 7 after the header and opcode. -/
def cmdLine (op : BitVec 8) (h : CmdHdr) (w1 w2 w3 w4 w5 w7 : W64) : BitVec 512 :=
  w7 ++ h.done ++ w5 ++ w4 ++ w3 ++ w2 ++ w1 ++ ((0 : BitVec 32) ++ h.tag ++ (0 : BitVec 8) ++ op)

/-- The word that names a context. -/
def encCtx (c : CtxId) : W64 := (0 : BitVec 46) ++ c.slot ++ c.core

/-- The word that names a stream, with a granularity. -/
def encStream (s : StreamId) (gran : BitVec 2) : W64 :=
  (0 : BitVec 46) ++ gran ++ (0 : BitVec 7) ++ BitVec.ofBool s.die ++ (0 : BitVec 2) ++ s.n

/-- An address with bit [63] for host memory. -/
def encAddr (a : BitVec 52) (host : Bool) : W64 := BitVec.ofBool host ++ (0 : BitVec 11) ++ a

/-- SIGNAL with an operation code. -/
def encSignal (h : CmdHdr) (a : SignalArgs) (op : BitVec 2) : BitVec 512 :=
  cmdLine 0x03 h (encAddr a.addr a.host) a.value ((0 : BitVec 55) ++ BitVec.ofBool a.wide ++ (0 : BitVec 6) ++ op) 0 0 0

/-- PLACE_TPL or DROP_TPL. -/
def encTpl (op : BitVec 8) (h : CmdHdr) (a : TplArgs) (image : BitVec 52) : BitVec 512 :=
  cmdLine op h ((0 : BitVec 37) ++ a.asid ++ (0 : BitVec 7) ++ BitVec.ofBool a.die ++ (0 : BitVec 2) ++ a.slot) (image.setWidth 64) 0 0 0 0

/-- SAVE_CTX or RESTORE_CTX. -/
def encImage (op : BitVec 8) (h : CmdHdr) (a : ImageArgs) : BitVec 512 :=
  cmdLine op h ((0 : BitVec 44) ++ a.mask ++ a.core) (a.base.setWidth 64) 0 0 0 0

/-- The 64 bytes of a stream command (none for slot operations and events). -/
def encodeCommand : Instr → Option (BitVec 512)
  | .nop h => some (cmdLine 0x00 h 0 0 0 0 0 0)
  | .launch h a => some (cmdLine 0x01 h ((0 : BitVec 16) ++ a.pm1 ++ a.nm1 ++ (0 : BitVec 2) ++ a.slot) (a.steps.setWidth 64)
      (a.report.setWidth 64) (a.asid.setWidth 64) 0 0)
  | .waitValue h a => some (cmdLine 0x02 h (encAddr a.addr a.host) a.value a.mask
      ((0 : BitVec 55) ++ BitVec.ofBool a.wide ++ (0 : BitVec 6) ++ a.cond) 0 0)
  | .signalWrite h a => some (encSignal h a 0)
  | .signalAdd h a => some (encSignal h a 1)
  | .signalOr h a => some (encSignal h a 2)
  | .preemptPoint h => some (cmdLine 0x04 h 0 0 0 0 0 0)
  | .setAs h a => some (cmdLine 0x10 h ((0 : BitVec 47) ++ BitVec.ofBool a.world ++ (0 : BitVec 5) ++ a.asid) (a.desc.setWidth 64)
      (encAddr a.fq a.fqHost) (a.fqLog.setWidth 64)
      ((0 : BitVec 26) ++ a.cq ++ a.slot ++ a.core ++ (0 : BitVec 4) ++ a.vector ++ BitVec.ofBool a.ring) (a.progress.setWidth 64))
  | .clearAs h asid => some (cmdLine 0x11 h (asid.setWidth 64) 0 0 0 0 0)
  | .placeTpl h a => some (encTpl 0x12 h a a.image)
  | .dropTpl h a => some (encTpl 0x13 h a 0)
  | .bindCtx h a => some (cmdLine 0x14 h
      ((0 : BitVec 24) ++ a.prio ++ a.stream ++ (0 : BitVec 1) ++ BitVec.ofBool a.world ++ BitVec.ofBool a.priv ++ a.asid ++ a.ctx.slot ++
        a.ctx.core) (a.image.setWidth 64) (a.block.setWidth 64) 0 0 0)
  | .unbindCtx h c => some (cmdLine 0x15 h (encCtx c) 0 0 0 0 0)
  | .resumeCtx h c => some (cmdLine 0x16 h (encCtx c) 0 0 0 0 0)
  | .resumeCtxRetry h c => some (cmdLine 0x16 h (encCtx c) 1 0 0 0 0)
  | .preemptAtPoint h s => some (cmdLine 0x17 h (encStream s 0) 0 0 0 0 0)
  | .preemptStep h s => some (cmdLine 0x17 h (encStream s 1) 0 0 0 0 0)
  | .preemptTask h s => some (cmdLine 0x17 h (encStream s 2) 0 0 0 0 0)
  | .preemptBundle h s => some (cmdLine 0x17 h (encStream s 3) 0 0 0 0 0)
  | .saveCtx h a => some (encImage 0x18 h a)
  | .restoreCtx h a => some (encImage 0x19 h a)
  | .resumeStream h s => some (cmdLine 0x1A h (encStream s 0) 0 0 0 0 0)
  | _ => none

/-- The 64 bytes of a well-formed operation: a bundle that holds it alone, or a stream command. Events have none. -/
def encode (i : Instr) : Option (BitVec 512) :=
  match encodeSlot i with
  | some w => some (w.line (soloHeader i w))
  | none => encodeCommand i

end Sys2Proof
end

