-- ==== Sys2Proof/Machine/Map.lean ====
section
/-! DEFINITION. Machine/Map.lean: sparse maps in one canonical form, which hold every register file, table and memory of
the machine as plain data: keys strictly rising, and no entry equal to what an unlisted key reads as; and lists sorted by a key. -/

namespace Sys2Proof.Machine

/-- A sparse map; what an unlisted key reads as is an argument of the operations. -/
abbrev SMap (α : Type) := List (Nat × α)

/-- What key `k` reads as. -/
def SMap.get {α : Type} (d : α) : SMap α → Nat → α
  | [], _ => d
  | (k, v) :: r, a => if k = a then v else SMap.get d r a

/-- Puts a value under a key, keeping the keys rising. -/
def SMap.put {α : Type} : SMap α → Nat → α → SMap α
  | [], a, v => [(a, v)]
  | (k, w) :: r, a, v =>
    if a < k then (a, v) :: (k, w) :: r
    else if a = k then (a, v) :: r
    else (k, w) :: SMap.put r a v

/-- Removes a key. -/
def SMap.del {α : Type} (m : SMap α) (a : Nat) : SMap α := m.filter (fun e => e.1 ≠ a)

/-- Writes a key; writing what an unlisted key reads as removes it. -/
def SMap.set {α : Type} [DecidableEq α] (d : α) (m : SMap α) (a : Nat) (v : α) : SMap α :=
  if v = d then SMap.del m a else SMap.put m a v

/-- Applies a function to the value under a key. -/
def SMap.upd {α : Type} [DecidableEq α] (d : α) (m : SMap α) (a : Nat) (f : α → α) : SMap α :=
  SMap.set d m a (f (SMap.get d m a))

/-- The canonical form: keys strictly rising, no value equal to `d`. -/
def SMap.wf {α : Type} [DecidableEq α] (d : α) : SMap α → Bool
  | [] => true
  | [(_, v)] => !decide (v = d)
  | (k, v) :: (k', v') :: r => decide (k < k') && !decide (v = d) && SMap.wf d ((k', v') :: r)

/-- Writes a list of values at consecutive keys. -/
def SMap.setList {α : Type} [DecidableEq α] (d : α) (m : SMap α) (a : Nat) : List α → SMap α
  | [] => m
  | v :: r => SMap.setList d (SMap.set d m a v) (a + 1) r

/-- Reads n consecutive keys. -/
def SMap.getList {α : Type} (d : α) (m : SMap α) (a n : Nat) : List α :=
  (List.range n).map (fun i => SMap.get d m (a + i))

/-- Inserts an item by a key, before the items of its own key. -/
def insertBy {α : Type} (key : α → Nat) (k : α) : List α → List α
  | [] => [k]
  | h :: t => if key k ≤ key h then k :: h :: t else h :: insertBy key k t

/-- Sorts by a key; items of one key keep their order. -/
def sortBy {α : Type} (key : α → Nat) : List α → List α
  | [] => []
  | h :: t => insertBy key h (sortBy key t)

end Sys2Proof.Machine
end

