-- ==== Sys2Proof/Machine/State.lean ====
section
/-! DEFINITION. Machine/State.lean: all the state that the manual gives one KX-Z7M, as plain data, and its state after
reset. Register files, tables and memories are sparse maps (Machine/Map.lean). -/

namespace Sys2Proof.Machine

/-! ### Reasons to stop -/

/-- Why the machine stops. -/
inductive Fault where
  /-- Raised by `step` alone, when the module has no power (R417, R439) and the agenda brings none back. Safe: a module
  without power does nothing. -/
  | noPower
deriving DecidableEq, Repr

/-- What the model gives no meaning to. -/
inductive Refusal where
  /-- Raised by an arm of `exec` whose operation has no meaning yet. Safe: nothing can be proved of a next state. -/
  | notModelled (mnemonic : String)
deriving DecidableEq, Repr

/-! ### Memory -/

/-- One space of bytes (R127): the bytes, and for each 32-byte sector the exclusive OR of its stored grain code with the
code that R158 gives for its bytes (zero for a good code) and its poison bit (R159). A line of an enciphered frame lies there as ciphertext (R143). -/
structure Memory where
  bytes : List Host.Cell
  codeDiff : SMap (BitVec 16)
  poison : SMap Bool
deriving DecidableEq, Repr

/-- What a byte that nothing has written reads as (log entry 3). -/
def Memory.fill : Byte := 0

/-- A space in which nothing is listed. -/
def Memory.empty : Memory := ⟨[], [], []⟩

/-- The canonical form of a space. -/
def Memory.wf (m : Memory) : Bool :=
  SMap.wf Memory.fill m.bytes && SMap.wf 0 m.codeDiff && SMap.wf false m.poison

/-- A sector as it travels: its bytes, its stored code and its poison bit. -/
structure Sector where
  bytes : List Byte
  code : BitVec 16
  poison : Bool
deriving DecidableEq, Repr

/-! ### Tiles -/

/-- The class of an element of a WINDOW tile (R117). -/
inductive ElemClass where
  | finite | posInf | negInf | nan
deriving DecidableEq, Repr

/-- An element of a WINDOW tile: class, sign and 128-bit magnitude (R117). -/
structure WinElem where
  cls : ElemClass
  neg : Bool
  mag : BitVec 128
deriving DecidableEq, Repr

/-- The cleared element of `mzero` (R117). -/
def WinElem.zero : WinElem := ⟨.finite, false, 0⟩

/-- The mode bit of a tile (R117). -/
inductive TileMode where
  | window | f64
deriving DecidableEq, Repr

/-- A tile (R117): element (i, j) stands under key 64 i + j; `f64` holds the binary64 values of F64 mode. -/
structure Tile where
  mode : TileMode
  anchor : Int
  win : SMap WinElem
  f64 : SMap W64
deriving DecidableEq, Repr

/-- The tile that `mzero` leaves (R117). -/
def Tile.zero : Tile := ⟨.window, -320, [], []⟩

/-! ### Results that wait for their tick -/

/-- A result of the landing queue (R27): what it writes. Vector and mask results name the byte lanes or bits they write. -/
inductive LandVal where
  | s (r : Nat) (x : W64)
  | p (r : Nat) (x : Bool)
  | v (r : Nat) (x : V1024) (lanes : Mask)
  | m (r : Nat) (x : Mask) (bits : Mask)
  | latch (l : Nat) (entries : List (Nat × BitVec 32))
  | rb (r : Nat) (row : Memory)
  | prb (lanes : List (BitVec 32))
deriving DecidableEq, Repr

/-- An entry of the landing queue: its due tick (none while a variable result is not covered, R28), its value, the poison
tag of its sources, for a variable result its space and access number, and the tick of its issue (R375). -/
structure Landing where
  due : Option Nat
  val : LandVal
  tag : Bool
  var : Option (QSpace × Nat)
  iss : Nat
deriving DecidableEq, Repr

/-- A pending tile result (R234): `mm` is true for `mma` and `mmr`, whose result every later M operation sees. -/
structure PendTile where
  tile : Nat
  due : Nat
  val : Tile
  mm : Bool
deriving DecidableEq, Repr

/-- A CSR write that does not govern yet (R71): its governing tick, register and value, and the core cycle of its issue. -/
structure CsrPend where
  gov : Nat
  csr : Nat
  val : W64
  cyc : Nat
deriving DecidableEq, Repr

/-- FPSTAT flags that wait for their tick (R113): the due tick, the tick of issue and the flags. -/
structure FlagPend where
  due : Nat
  iss : Nat
  bits : BitVec 6
deriving DecidableEq, Repr

/-- A pending compare of `dup` (R79, R227): the bundle of the `dup`, and the result and flags of its own unit, which V0's must equal at the
due tick. -/
structure DupPend where
  bundle : Nat
  second : Landing
  flags : BitVec 6
deriving DecidableEq, Repr

/-! ### A context -/

/-- What a Blocked context waits for (R22, R23). -/
inductive Block where
  | noTask
  | awaitf (cq : Nat) (d : Nat)
  | rels (cq : Nat)
  | waitr (spaces : BitVec 5) (upTo : Nat) (bundle : Nat)
  | bar (key : Nat) (phase : Nat)
  | wtime (deadline : Nat)
  | tend
deriving DecidableEq, Repr

/-- Why a context is Stalled (R22): a busy tile, a vector bank with cycles left, a mark that waits for translations, for its
command's probe or for an in-flight entry; and a bundle that reads core store and has to wait for an earlier store or `amo` (log entry 75). -/
inductive Stall where
  | tile | bank (left : Nat) | walks | probe | entry | order
deriving DecidableEq, Repr

/-- The state of a context (R22). Running lasts within one cycle; Pre-empted is that of a context held in the latch bank (one held in
an image has left its slot, see `State.saved`). -/
inductive CtxState where
  | unbound
  | blocked (b : Block)
  | ready
  | running
  | stalled (w : Stall)
  | suspended
  | preempted
  | lost
deriving DecidableEq, Repr

/-- PRB (R287). -/
structure Prb where
  lanes : SMap (BitVec 32)
  tag : Bool
deriving DecidableEq, Repr

/-- The registers that the restart-mark shadow holds (R32, R235, R287), in physical order. Scale latch entry (latch, line,
block) stands under key 1024 latch + 16 line + block. -/
structure RegSet where
  s : SMap W64
  sTag : BitVec 64
  p : BitVec 16
  v : SMap V1024
  vTag : BitVec 64
  m : SMap Mask
  mTag : BitVec 8
  tiles : SMap Tile
  latches : SMap (BitVec 32)
  rb : SMap Memory
  h : SMap (BitVec 16)
  lc : SMap W64
  prb : Prb
  rrb : BitVec 5
  redirects : List (Nat × Nat)
  pc : Nat
  tick : Nat
  landing : List Landing
  pendTiles : List PendTile
  flagQ : List FlagPend
  csrQ : List CsrPend
  dupQ : List DupPend
deriving DecidableEq, Repr

/-- Zero registers (R365). -/
def RegSet.zero : RegSet :=
  { s := [], sTag := 0, p := 0, v := [], vTag := 0, m := [], mTag := 0, tiles := [], latches := [], rb := [], h := [], lc := [],
    prb := ⟨[], false⟩, rrb := 0, redirects := [], pc := 0, tick := 0, landing := [], pendTiles := [], flagQ := [], csrQ := [],
    dupQ := [] }

/-- Where an access goes (R129, R130, R132): cluster-store or deck-store offset, or a handle's tensor and coordinates. -/
inductive Target where
  | k (addr : Nat)
  | d (off : Nat)
  | t (sp : QSpace) (handle tensor : Nat) (coords : List Nat)
deriving DecidableEq, Repr

/-- A held store of the store gate (R33) with its bundle; `part` is the number of `dpset` of its cluster that issued in earlier cycles
(R197, R426), `seq` the number that its context's next queued access had at its issue, `walked` whether it has passed the translation
that a mark waits for (R32), `bank` the first bank of a k target that its context did not match at issue (R199), and `gone` whether a
shrinking `dpset` has performed it, so that its release has no effect (R426). -/
structure GateEntry where
  bundle : Nat
  target : Target
  bytes : List Byte
  order : Order
  scope : Scope
  part : Nat
  seq : Nat
  walked : Bool
  bank : Option Nat
  gone : Bool
deriving DecidableEq, Repr

/-- The home of a located access (R138). A host place is an aperture's base and shadow base with an offset in it (R385,
R400). -/
inductive Place where
  | core (core : Nat) (off : Nat)
  | deck (group : Nat) (off : Nat)
  | dev (addr : Nat)
  | peer (pkg : Nat) (addr : Nat)
  | host (base shadow off : Nat)
  | const (pattern : W64) (code : BitVec 16) (off : Nat)
deriving DecidableEq, Repr

/-- A located access: its place and, for an encrypted frame, its key slot (R143). -/
structure Loc where
  place : Place
  key : Option Nat
deriving DecidableEq, Repr

/-- A cached table entry of the layout units (R386): tile none for a tensor-table entry. -/
structure CachedEntry where
  asid : BitVec 11
  tensor : Nat
  tile : Option Nat
  words : List W64
deriving DecidableEq, Repr

/-- What a queued access does. -/
inductive AccKind where
  | load (spec : Bool)
  | store
  | amo (op : AmoKind) (small : Bool) (v expect : W64)
deriving DecidableEq, Repr

/-- How far a queued access has come: queued, translated (`walked`, with the table entry that it used), performed (with the bytes read, and
the fault that a consuming lane found in them: 15 GRAIN or 16 POISON, with the sector's space code and address, and its home). -/
inductive AccPhase where
  | queued
  | walked (l : Loc) (e : Option CachedEntry)
  | done (bytes : List Byte) (bad : Option (Nat × Nat × Nat)) (home : Option Loc)
deriving DecidableEq, Repr

/-- A queued access (R133): its number in program order, its bundle, what it does, its target, store data, the bytes that a load takes
from the gate (R33), its destination (file, physical register), order, scope, the `dpset` issued before it (R197), the first bank of a k
target that its context did not match at issue (R199), its phase, and `taken`: of an access of several 32-byte sectors those that have performed
already, each at a moment of its own (R134), with the bytes read and the fault found in them. -/
structure QAcc where
  seq : Nat
  bundle : Nat
  kind : AccKind
  target : Target
  bytes : List Byte
  fwd : List (Option Byte)
  vec : Bool
  dest : Nat
  order : Order
  scope : Scope
  part : Nat
  bank : Option Nat
  phase : AccPhase
  taken : List (Nat × List Byte × Option (Nat × Nat × Nat))
deriving DecidableEq, Repr

/-- What FAULTINFO, the record and RESUME_CTX need of the last fault (R377 to R379). -/
structure FaultNote where
  retryPc : Nat
  retryRedirects : List (Nat × Nat)
  retry : Bool
  always : Bool
deriving DecidableEq, Repr

/-- A control transfer that the S slot of the bundle in issue makes (R183): delayed, or a taken `loop`. -/
inductive Transfer where
  | none
  | delayed (target : Nat)
  | loopTo (target : Nat)
deriving DecidableEq, Repr

/-- A context (R20). `bid` numbers its binding: it tells what a slot's context has left behind from what the next one of the slot does. `xfer` and `newRrb` hold what the S slot of the bundle in issue does to the pc and to RRB at the bundle's
end (R183, R190); `markSeq` is the number of the first access issued after the last mark, `fences` those of the first accesses issued
after fences that still hold accesses back, with the scopes of the fences (R167), `early` the number and the widest scope of what an access that
has performed for the parties outside that scope alone has still to follow for those inside (R165, log entry 13), `drainWait` the cycles that a draining `tend` still waits for a vector bank (R69), and
`blockedAt` the core cycle in which the context blocked (R322); `mEnd` is the length of the landing queue after the M slot's result of the
bundle in issue (R227).
For a shared ring, `ringSrc` holds 1 + 16 × source slot + source ring, and for a shared
window `winSrc` 1 + 8 × source slot + source window (R365). -/
structure Ctx where
  st : CtxState
  bid : Nat
  asid : BitVec 11
  priv : Bool
  world : Bool
  stream : BitVec 6
  prio : BitVec 2
  regs : RegSet
  shadow : RegSet
  lp : SMap W64
  fpstat : BitVec 6
  vbank : BitVec 8
  repower : SMap Nat
  tileBusy : SMap Nat
  gap : Nat
  gate : List GateEntry
  queue : List QAcc
  seq : Nat
  markSeq : Nat
  fences : List (Nat × Scope)
  early : Option (Nat × Scope)
  mono : Nat
  xfer : Transfer
  newRrb : Option (BitVec 5)
  task : BitVec 128
  hasTask : Bool
  launch : Nat
  faultInfo : W64
  note : FaultNote
  ringLink : SMap Nat
  winLink : SMap Nat
  ringSrc : SMap Nat
  winSrc : SMap Nat
  passed : Nat
  yieldLeft : Nat
  drainWait : Nat
  blockedAt : Nat
  mEnd : Nat
  probed : Bool
  wanted : Nat
  snap : CtxState
deriving DecidableEq, Repr

/-- A context of the state after reset: Unbound, registers zero (log entry 2). -/
def Ctx.init : Ctx :=
  { st := .unbound, bid := 0, asid := 0, priv := false, world := false, stream := 0, prio := 0, regs := RegSet.zero, shadow := RegSet.zero,
    lp := [], fpstat := 0, vbank := 0, repower := [], tileBusy := [], gap := 0, gate := [], queue := [], seq := 0, markSeq := 0, fences := [], early := none, mono := 0, xfer := .none, newRrb := none,
    task := 0, hasTask := false, launch := 0, faultInfo := 0, note := ⟨0, [], false, false⟩, ringLink := [], winLink := [], ringSrc := [],
    winSrc := [], passed := 0, yieldLeft := 0, drainWait := 0, blockedAt := 0, mEnd := 0, probed := false, wanted := 0, snap := .unbound }

/-! ### Rings, windows, barriers -/

/-- A ring object (R264), under a number of its own; a context's `ringLink` names it, and a link of 0 is unbound. 2^j slots; `filled` and `status` are its slots, `held` the completions held while it is full,
each with the core whose in-flight entry it keeps (R266). `owed` holds the `rels` of Suspended contexts, which stand (R268, R308; log entry 99): the core
of each, and when and in which slot it blocked. -/
structure Ring where
  j : Nat
  wp : Nat
  rp : Nat
  filled : SMap Bool
  status : SMap W64
  held : List (W64 × Option Nat)
  owed : List (Nat × Nat)
deriving DecidableEq, Repr

/-- A ring with every slot FREE. -/
def Ring.init : Ring := ⟨0, 0, 0, [], [], [], []⟩

/-- The state of a window slot (R146). -/
inductive SlotState where
  | empty | filling | filled | poisoned
deriving DecidableEq, Repr

/-- A window slot: its tag and state (R146). -/
structure WinSlot where
  tag : BitVec 16
  st : SlotState
deriving DecidableEq, Repr

/-- A window object (R145, R146): the descriptor's eight words, the row stride S and the head H. -/
structure Window where
  bound : Bool
  desc : List W64
  stride : Nat
  head : Nat
  slots : SMap WinSlot
deriving DecidableEq, Repr

/-- An unbound window. -/
def Window.init : Window := ⟨false, [], 0, 0, []⟩

/-- An arrival at a barrier: its context and binding, and the number of the first access issued after it. -/
structure Arrival where
  ctx : CtxId
  bid : Nat
  seq : Nat
deriving DecidableEq, Repr

/-- A phase or waiting group of a barrier (R302): its number, ASID, count, arrivals so far, and who they are. -/
structure BarGroup where
  id : Nat
  asid : BitVec 11
  count : Nat
  arrived : Nat
  from_ : List Arrival
deriving DecidableEq, Repr

/-! ### A core -/

/-- A bank's owner tag (R156). -/
structure Owner where
  valid : Bool
  asid : BitVec 11
  slot : BitVec 2
deriving DecidableEq, Repr

/-- No owner. -/
def Owner.none : Owner := ⟨false, 0, 0⟩

/-- A task record with the launch it belongs to (R37, R40). -/
structure TaskRec where
  launch : Nat
  stream : BitVec 6
  word : BitVec 128
deriving DecidableEq, Repr

/-- A core-store write of a context: its slot and binding, its perform tick, where it goes and what it writes; `seq` is the number that its
context's next queued access had at its issue, `whole` says that it writes whole sectors, whose codes the core generates (R253), and `after`, unless
it is 0, that the write follows the accesses before that number which its context has left (log entry 94). -/
structure CoreWrite where
  slot : BitVec 2
  bid : Nat
  due : Nat
  off : Nat
  bytes : List Byte
  lanes : List Bool
  seq : Nat
  whole : Bool
  after : Nat
deriving DecidableEq, Repr

/-- What lies over the bytes of a core store, in coherence order (R162): a core-store write that the other parties see before its own context
reaches its perform tick, because an access ordered after it has performed (R163, R166, R168); and, above one, what another party has written to
a sector, with the bits that it wrote. A write no longer `waits` once its context has reached its tick. -/
inductive CoreLayer where
  | write (w : CoreWrite) (waits : Bool)
  | sector (off : Nat) (x : Sector) (mask : BitVec 256)
deriving DecidableEq, Repr

/-- A core (R16, R20). `layers` lie over `store`, the lowest first. `writes` holds the core-store writes that no other party sees yet: those whose
perform tick their context has not reached, and those that a fence still keeps back (R163, R167). `left` is the tick count that each slot's last context had, on which the next one's goes on: the intervals of R296 count
the commander's ticks (R297, log entry 77). -/
structure Core where
  store : Memory
  owners : SMap Owner
  newOwners : List (Nat × Owner)
  cspart : W64
  cycles : Nat
  layers : List CoreLayer
  writes : List CoreWrite
  tasks : List TaskRec
  left : SMap Nat
deriving DecidableEq, Repr

/-- A core of the state after reset. -/
def Core.init : Core := ⟨Memory.empty, [], [], 0, 0, [], [], [], []⟩

/-! ### Clusters and stacks -/

/-- A deck block (R150): the tensor it was declared through, its lines, the way and line where it lies (R425), its bytes,
its and dirty lines. -/
structure DeckBlock where
  asid : BitVec 11
  tensor : Nat
  tile : Nat
  first : Nat
  count : Nat
  addr : Nat
  key : Option Nat
  way : Nat
  line : Nat
  data : Memory
  dirty : List Nat
  order : Nat
deriving DecidableEq, Repr

/-- A reuse entry (R287). -/
structure ReuseEntry where
  valid : Bool
  launch : Nat
  tpl : BitVec 6
  node : BitVec 12
  inst : BitVec 24
  probe : SMap (BitVec 32)
  laststep : BitVec 20
  run : BitVec 32
  out : W64
deriving DecidableEq, Repr

/-- An invalid reuse entry. -/
def ReuseEntry.init : ReuseEntry := ⟨false, 0, 0, 0, 0, [], 0, 0, 0⟩

/-- A cluster (groups 0 to 15: die x 8 + cluster) or a stack's S-cores (groups 16 to 31): DPART, the value that a `dpset` of this
cycle gives it from the next, the number of `dpset` issued so far, the discards done (the number of each one's `dpset` and its new way
count, R197, R426), deck store, blocks and reuse entries. -/
structure Group where
  dpart : BitVec 5
  newPart : Option (BitVec 5)
  dpsets : Nat
  discards : List (Nat × Nat)
  deck : Memory
  blocks : List DeckBlock
  reuse : SMap ReuseEntry
deriving DecidableEq, Repr

/-- A group of the state after reset. -/
def Group.init : Group := ⟨0, none, 0, [], Memory.empty, [], []⟩

/-! ### Stacks -/

/-- A DRAM channel of a stack (R293 to R298): the open rows, the ticks of the last commands, the deadlines of the four sets,
the sets whose deadlines passed while the refresh was the commander's duty (R298), the lease register and a handover in progress (R396,
R397). -/
structure Channel where
  openRow : SMap (Option Nat)
  ractAt : SMap (Option Nat)
  rpreAt : SMap (Option Nat)
  rstwAt : SMap (Option Nat)
  rrefAt : SMap (Option Nat)
  racts : List Nat
  deadline : SMap Nat
  late : List (Nat × Nat)
  lease : W64
  handover : Option W64
deriving DecidableEq, Repr

/-- A channel of the state after reset: nothing open, not leased, the first refresh of each set due after one TREFI. -/
def Channel.init : Channel :=
  ⟨[], [], [], [], [], [], [(0, 3900), (1, 3900), (2, 3900), (3, 3900)], [], 0, none⟩

/-- A bank's mode register and scrub state (R405 to R407): `pending` holds the repairs asked for, each of a row (true) or a column group;
`found` the row and column group of every error that the bank has met since that row and column were last repaired, and `ueRows` the
rows that have met an uncorrectable one. -/
structure BankMode where
  cols : Nat
  degraded : Bool
  pending : List (Bool × Nat)
  found : List (Nat × Nat)
  ueRows : SMap Bool
  rows : Nat
  ue : Nat
  ce : Nat
  scrub : Nat
  lastFixed : SMap Bool
deriving DecidableEq, Repr

/-- A bank of the state after reset. -/
def BankMode.init : BankMode := ⟨0, false, [], [], [], 0, 0, 0, 0, []⟩

/-- An error that stands in a DRAM cell and that a scrub will find (R406). -/
structure CellError where
  channel : Nat
  bank : Nat
  row : Nat
  sector : Nat
  column : Nat
  correctable : Bool
deriving DecidableEq, Repr

/-- A stack (R293, R405). -/
structure Stack where
  channels : SMap Channel
  banks : SMap BankMode
  errors : List CellError
  trefi : Nat
deriving DecidableEq, Repr

/-- A stack of the state after reset. -/
def Stack.init : Stack := ⟨[], [], [], 3900⟩

/-! ### The Lathe -/

/-- A pending PREEMPT of a stream (R370): granularity, the control stream that carries it, its command header and the
contexts that it has snapshotted, each with its binding. -/
structure PreemptReq where
  gran : Nat
  by_ : StreamId
  hdr : CmdHdr
  counted : List (CtxId × Nat)
deriving DecidableEq, Repr

/-- The command in progress on a stream (R356). -/
inductive Busy where
  | launch (h : CmdHdr) (id : Nat)
  | wait (h : CmdHdr) (a : WaitArgs) (nextRead : Nat)
  | preempt (h : CmdHdr) (target : StreamId)
deriving DecidableEq, Repr

/-- A command stream's registers and command in progress (R355). -/
structure Stream where
  base : W64
  size : BitVec 5
  head : BitVec 32
  tail : BitVec 32
  ctl : BitVec 6
  running : Bool
  halted : Bool
  preempted : Bool
  watchdog : Bool
  overrun : Bool
  curTag : BitVec 16
  wdog : BitVec 32
  busy : Option Busy
  progressAt : Nat
  preempt : Option PreemptReq
deriving DecidableEq, Repr

/-- A stream of the state after reset. -/
def Stream.init : Stream :=
  ⟨0, 0, 0, 0, 0, false, false, false, false, false, 0, 0, none, 0, none⟩

/-- An open step (R52): its number, its loop registers, the tasks dispatched, returned and ended. Task (node, instance)
stands under key 2^24 node + instance. -/
structure StepState where
  n : Nat
  lp : SMap W64
  dispatched : SMap Bool
  requeued : SMap Bool
  ended : SMap Bool
deriving DecidableEq, Repr

/-- A node's reuse state (R287). -/
structure NodeState where
  disabled : Option Nat
  samples : Nat
  divergences : Nat
deriving DecidableEq, Repr

/-- A node state that LAUNCH clears. -/
def NodeState.init : NodeState := ⟨none, 0, 0⟩

/-- A launch (R51 to R54, R359). `nodes` holds its node states: that of node n in the table of cluster or stack g stands under 4096 g + n (R287). -/
structure Launch where
  id : Nat
  stream : StreamId
  hdr : CmdHdr
  args : LaunchArgs
  next : Nat
  steps : List StepState
  stop : Option Nat
  kept : Bool
  highest : Nat
  counters : SMap W64
  nodes : SMap NodeState
  lost : Nat
  stopStep : Bool
  starve : Nat
deriving DecidableEq, Repr

/-- A resident template (R364): the ASID it was placed for and its image. -/
structure Template where
  asid : BitVec 11
  image : List Byte
deriving DecidableEq, Repr

/-- The Lathe of a die. `repwaitFrom` is the chip time from which a wait for a repair window counts, while a repair of the die is pending;
`openUntil` is the chip time until which steps open although one is pending (R408). -/
structure Lathe where
  templates : SMap (Option Template)
  streams : SMap Stream
  launches : List Launch
  lastServed : SMap Nat
  openUntil : Nat
  repwaitFrom : Option Nat
deriving DecidableEq, Repr

/-- A Lathe of the state after reset. -/
def Lathe.init : Lathe := ⟨[], [], [], [], 0, none⟩

/-! ### Engine commands -/

/-- A side of a copy after its deltas (R312, R313). -/
structure Side where
  space : Nat
  fmt : Nat
  tensor : Nat
  org : List Nat
  ext : List Nat
deriving DecidableEq, Repr

/-- What a chunk that has been read has yet to write to a sector (R276): the units by byte, lowest bit and value, whether a source of them was
faulty, and the sector that is carried whole (R160). -/
structure PendWrite where
  loc : Loc
  units : List (Nat × Nat × Nat)
  bad : Bool
  carry : Option Sector
deriving DecidableEq, Repr

/-- A chunk that has been read and not wholly written: its number, the sectors that it has written with poison, and what is left. -/
structure OpenChunk where
  chunk : Nat
  bad : List Loc
  left : List PendWrite
deriving DecidableEq, Repr

/-- A copy or grid transfer that has been accepted (R311, R317), with the destination sectors that its marked chunks wrote with poison (`soft`, R275): the template's fields, the stencil's first dimension, shape and weights,
the number of `dpset` of its cluster issued before it (R197), its progress marks, and the chunks that have been read and not wholly written
(R276, R319, R320). -/
structure CopyJob where
  kind : Nat
  factor : Nat
  expand : Nat
  clamp : Bool
  mode : Nat
  sat : Bool
  src : Side
  dst : Side
  sd : Nat
  shape : List Nat
  weights : List Int
  part : Nat
  chunks : Nat
  marked : SMap Bool
  opened : List OpenChunk
  soft : List Loc
deriving DecidableEq, Repr

/-- A collective that has been accepted (R282, R323); `seq` is its number among those that the package has issued on its group (R325), and `numbered`
whether the package had a pod number then (R429); `agreed` is how many of its sets the members' exchanges have settled (R434), and `failed` marks one whose failure waits for a handover to end (R451). -/
structure CollJob where
  group : Nat
  seq : Nat
  numbered : Bool
  members : List Nat
  rank : Nat
  fmt : Nat
  mode : Nat
  fbits : Nat
  op : Nat
  chunk : Nat
  src : Nat
  sfirst : Nat
  dst : Nat
  dfirst : Nat
  n : Nat
  recT : Nat
  recFirst : Nat
  going : Bool
  offers : List CollOffer
  epoch : Nat
  trees : List (List (Nat × Nat))
  sets : List (Nat × Nat × Nat)
  agreed : Nat
  total : Nat
  marked : SMap Bool
  order : List Nat
  failed : Bool
deriving DecidableEq, Repr

/-- What an engine command does. For a window fill: the window, the first row, the rows in all and done, the POISONED rows so far, and the rows
that `.n` made POISONED (R146, R277). -/
inductive Job where
  | copy (j : CopyJob)
  | fill (win first total done bad : Nat) (soft : List Nat)
  | block (group part tensor tile first count : Nat)
  | evict (group part tensor tile first : Nat)
  | dpset (group old new index : Nat)
  | ttinv (kind : Nat) (asid : BitVec 11) (tensor tile : Nat)
  | coll (j : CollJob)
  | csig (s : Signal) (ack sent : Bool) (dropped : Option Bool)
deriving DecidableEq, Repr

/-- Whether an engine command runs or was stopped by a changed owner tag (R320). -/
inductive CmdState where
  | running | stopped
deriving DecidableEq, Repr

/-- An engine command in flight (R270): its number, issuing context with its binding and the ASID, privilege and world it had, opcode, ring, tag,
the number of the first access program-ordered after it (R168), the tick count of its issue (R307), the poisoned sectors counted, and the
translations that its probe found (R271). -/
structure Cmd where
  id : Nat
  ctx : CtxId
  owner : Nat
  asid : BitVec 11
  priv : Bool
  world : Bool
  op : Nat
  ring : Nat
  ringId : Nat
  tag : BitVec 16
  after : Nat
  iss : Nat
  count : Nat
  st : CmdState
  job : Job
  trans : List CachedEntry
deriving DecidableEq, Repr

/-! ### Address spaces and translation caches -/

/-- An installed address space (R363, R382): the command's fields with the fault queue and its notification, the descriptor's words, the
queue's producer count, the next sequence number, and the records held in the cores while the queue is full, oldest first, each with the key
of its context (R376). -/
structure AddrSpace where
  args : SetAsArgs
  desc : List W64
  produced : Nat
  seqNo : Nat
  held : List (Nat × List W64)
deriving DecidableEq, Repr

/-! ### The rest of the package -/

/-- A key slot (R394): the key pair, byte 0 of each key lowest, and whether it is valid. -/
structure KeySlot where
  dataKey : BitVec 256
  tweakKey : BitVec 256
  valid : Bool
deriving DecidableEq, Repr

/-- A key slot that nothing has written. -/
def KeySlot.init : KeySlot := ⟨0, 0, false⟩

/-- A region-table entry (R421). -/
structure Region where
  valid : Bool
  world : Bool
  base : BitVec 40
  limit : BitVec 40
deriving DecidableEq, Repr

/-- The error log (R402): base and size registers, producer count, held records and frames already logged as retired. -/
structure ErrorLog where
  base : W64
  size : W64
  produced : Nat
  seqNo : Nat
  held : List (List W64)
  retired : SMap Bool
deriving DecidableEq, Repr

/-- A Mivis port (R431, R432): 0 DOWN, 1 TRAINING, 2 HOLD, 3 LIVE. -/
structure Port where
  state : BitVec 2
  reported : BitVec 8
  admin : Bool
  since : Nat
  replays : List Nat
deriving DecidableEq, Repr

/-- A port never reported. -/
def Port.init : Port := ⟨0, 0, false, 0, []⟩

/-- The link block and the keeper's work (R432, R433, R435). `alone` is set while the package has lost every port and has not taken the
keeper's table since; `later` holds records that arrived after the gathering window of the batch, with their chip times; `syncAt` is the chip time of the
last exchange with the time master, `slew` the correction still to be made by slewing, `slewAcc` the nanoseconds towards its next one, and `moved` what steps
and slews have added to chip time (R436). `past` holds the earlier tables with their epochs, the latest first, and `joined` says that the package
has taken a table of another package since its module start. -/
structure Links where
  ports : SMap Port
  live : SMap (BitVec 36)
  epoch : BitVec 32
  keeper : BitVec 8
  self : BitVec 8
  selfValid : Bool
  locked : Bool
  everLocked : Bool
  offset : Int
  good : Nat
  bad : Nat
  slew : Int
  batch : List LinkChange
  batchFrom : Option Nat
  unacked : List LinkChange
  waiting : List LinkBatch
  alone : Bool
  later : List (LinkChange × Nat)
  syncAt : Nat
  slewAcc : Nat
  moved : Int
  past : List (BitVec 32 × SMap (BitVec 36))
  joined : Bool
deriving DecidableEq, Repr

/-- An island (R437). -/
structure Island where
  freq : Nat
  cap : Nat
  volt : Nat
  throttled : Bool
  derated : Bool
  power : Nat
  temp : Nat
  dramtemp : Nat
deriving DecidableEq, Repr

/-- An island of the state after reset (log entry 2). -/
def Island.init : Island := ⟨2000, 2000, 0, false, false, 0, 0, 0⟩

/-- Folkai's control of power and heat (R438, R439): the samples of the last millisecond, newest first, the chip times of the last sample, of the last
lowering and of the last rise of frequencies, and for each stack the chip time from which its DRAM has been at or below 83.0 °C. -/
structure Folkai where
  samples : List Sensors
  sampleAt : Nat
  lowerAt : Nat
  riseAt : Nat
  coolFrom : SMap (Option Nat)
deriving DecidableEq, Repr

/-- A boot journal entry (R416) as its four words. -/
structure JournalEntry where
  w0 : W64
  w1 : W64
  w2 : W64
  w3 : W64
deriving DecidableEq, Repr

/-- An unused journal slot. -/
def JournalEntry.init : JournalEntry := ⟨0, 0, 0, 0⟩

/-- Module flash, the replay-protected partition, the session of R443 and what the last start used (R410, R414, R442). Counters,
preferred slots and slots in use stand under their image kind, `verified` under 2 × kind + slot, and `used` holds 1 for slot A, 2 for B, 0 while
the start has run no image of the kind; `blobVersion` is that of the last blob used, and `installed` says that
recovery mode has taken an image (R418); `loaded` holds the blob sections that the start's steps have read, by type (R412), `requests` the requests for
evidence that wait for step 12 (R423), `staged` the bytes of the image that recovery mode is receiving (R418), `via` the path of the last request (R442), and `seed` the 32 bytes that the extractor has recovered (R413). -/
structure Boot where
  flash : List Host.Cell
  journal : SMap JournalEntry
  journalAt : Nat
  startNo : BitVec 32
  counters : SMap W64
  preferred : SMap Bool
  used : SMap Nat
  differently : BitVec 12
  seed : List Byte
  session : Option (Nat × Nat)
  verified : SMap Bool
  step12 : Bool
  lastEvidence : List Byte
  blobVersion : BitVec 16
  installed : Bool
  loaded : SMap (List Byte)
  requests : List (Transport × List Byte)
  staged : List Host.Cell
  via : Transport
deriving DecidableEq, Repr

/-- Whether the module runs (R414, R417, R418). -/
inductive Power where
  | off | recovery | up
deriving DecidableEq, Repr

/-- RESMAP (R415): bits 1 for present. -/
structure Resmap where
  clusters : BitVec 16
  stackMask : BitVec 16
  cxl : BitVec 2
  ports : BitVec 36
  dcores : BitVec 512
  scores : BitVec 256
deriving DecidableEq, Repr

/-- What leaves the package. A `hostTlp` is the data of a host read (R161), or a sector that the Z7 sends to host memory with EP set; one sent without
EP shows in host memory alone (log entry 109). -/
inductive Output where
  | msix (vector : Nat)
  | mctp (via : Transport) (status : Nat) (data : List Byte)
  | hostTlp (addr : Nat) (bytes : List Byte) (poisoned : Bool)
  | signal (cmd : Nat) (s : Signal)
  | change (r : LinkChange)
  | batch (b : LinkBatch)
  | replay (port : Nat)
  | amoReply (addr : Nat) (bytes : List Byte) (bad : Bool)
  | sync (port : Nat) (sent : Nat)
  | syncAnswer (port : Nat) (sent got answered : Nat)
deriving DecidableEq, Repr

/-! ### The machine -/

/-- What the agenda names: the next operation of an agent, a request to Folkai with the path on which it comes (R442), the start of a stream's
next command, or an error that arises in a DRAM cell of a stack (R406). -/
inductive Action where
  | event (i : Instr)
  | request (via : Transport) (i : Instr)
  | stream (s : StreamId)
  | cell (stack : Nat) (e : CellError)
deriving DecidableEq, Repr

/-- An action with the nanoseconds of chip time before it. -/
structure Planned where
  ns : Nat
  act : Action
deriving DecidableEq, Repr

/-- A bundle that the issue stage has chosen in this cycle (R24), or with `probe` one whose command's probe has finished (R271): its slot
operations in the order of R91. -/
structure Issued where
  ctx : CtxId
  hdr : Header
  ops : List Instr
  probe : Bool
deriving DecidableEq, Repr

/-- A Pre-empted context that SAVE_CTX has moved to the image at `base` (R22, R371), with what the image has no field for (log entry 31),
what steps and slews had added to chip time (R436), and the cycles that its core had counted (R304). -/
structure Saved where
  ctx : CtxId
  x : Ctx
  base : Nat
  moved : Int
  cycles : Nat
deriving DecidableEq, Repr

/-- A released store or `amo` whose context has left its slot, or is Lost after an arrival that releases it, while its place is held or leased (R36,
R302, R451; log entry 94), with the table entry that its walk used. -/
structure Orphan where
  ctx : CtxId
  bid : Nat
  acc : QAcc
  loc : Loc
  entry : Option CachedEntry
deriving DecidableEq, Repr

/-- The last writes of a copy that has completed, as other parties may still have to see them (R169, R276, R337; log entry 13): the core whose
contexts can join the copy, what it needs to write them, and the widest scope for which a release of the core has already ordered them. -/
structure Trail where
  core : BitVec 16
  computing : Bool
  grain : Nat
  writes : List PendWrite
  seen : Option Scope
deriving DecidableEq, Repr

/-- The machine: one KX-Z7M, the memories it reaches, and the model's own agenda, current context and stream, issue latch,
mark that the bundles in the latch have passed their checks, and counter of free values. -/
structure State where
  power : Power
  ctxs : SMap Ctx
  saved : List Saved
  cores : SMap Core
  groups : SMap Group
  stackTab : SMap Stack
  rings : SMap Ring
  windows : SMap Window
  barriers : SMap (List BarGroup)
  lathe0 : Lathe
  lathe1 : Lathe
  spaces : SMap (Option AddrSpace)
  cache : List CachedEntry
  cmds : List Cmd
  nextId : Nat
  dev : Memory
  host : Memory
  peers : SMap Memory
  farCap : SMap Nat
  keys : SMap KeySlot
  chip : Nat
  resmap : Resmap
  worldmap : BitVec 33
  regions : SMap Region
  log : ErrorLog
  repwait : BitVec 32
  links : Links
  islands : SMap Island
  sample : Sensors
  folkai : Folkai
  energy : SMap Nat
  telemetry : SMap Nat
  shadowTel : SMap Nat
  tsnap : Nat
  boot : Boot
  collSeq : SMap Nat
  taken : List (BitVec 8 × Nat)
  orphans : List Orphan
  trails : List Trail
  agenda : List Planned
  out : List Output
  cur : CtxId
  curStream : StreamId
  hdr : Header
  latch : List Issued
  checked : Bool
  free : Nat
deriving DecidableEq, Repr

/-- The machine right after reset: a completed normal module start with every resource present, nothing bound, placed,
installed or enabled, and nothing listed in any memory (log entries 1 to 4). -/
def State.reset : State :=
  { power := .up
    ctxs := [], saved := [], cores := [], groups := [], stackTab := [], rings := [], windows := [], barriers := []
    lathe0 := Lathe.init, lathe1 := Lathe.init, spaces := [], cache := [], cmds := [], nextId := 1
    dev := Memory.empty, host := Memory.empty, peers := []
    farCap := [(0, 0x3C000000000), (1, 0x3C000000000)]
    keys := [], chip := 0
    resmap := ⟨BitVec.allOnes 16, BitVec.allOnes 16, 3, BitVec.allOnes 36, BitVec.allOnes 512, BitVec.allOnes 256⟩
    worldmap := 0, regions := []
    log := ⟨0, 0, 0, 0, [], []⟩, repwait := 1000
    links := ⟨[], [], 0, 0, 0, false, false, false, 0, 0, 0, 0, [], none, [], [], false, [], 0, 0, 0, [], false⟩
    islands := [], sample := ⟨0, [], [], [], [], [], []⟩, folkai := ⟨[], 0, 0, 0, []⟩, energy := [], telemetry := [], shadowTel := [], tsnap := 0
    boot := ⟨[], [], 0, 0, [], [], [(1, 1), (2, 1), (3, 1)], 0, [], none, [(2, true), (4, true), (6, true)], true, [], 0, false, [], [], [], .i3c⟩
    collSeq := [], taken := [], orphans := [], trails := [], agenda := [], out := []
    cur := ⟨0, 0⟩, curStream := ⟨false, 0⟩, hdr := Header.zero, latch := [], checked := false, free := 0 }

end Sys2Proof.Machine
end

