-- ==== Sys2Proof/Machine/Memory.lean ====
section
/-! DEFINITION. Machine/Memory.lean: bytes and 32-byte sectors of one space with their grain codes and poison bits (R158 to
R161), and the ways a unit writes a sector: generate, merge, carry. -/

namespace Sys2Proof.Machine

/-! ### The grain code (R158) -/

/-- One shift of the code. -/
def grainShift (c : BitVec 16) : BitVec 16 := if c.getLsbD 15 then (c <<< 1) ^^^ 0x8BB7 else c <<< 1

/-- Eight shifts. -/
def grainShift8 (c : BitVec 16) : BitVec 16 :=
  grainShift (grainShift (grainShift (grainShift (grainShift (grainShift (grainShift (grainShift c)))))))

/-- The code of the bytes of a sector from a state. -/
def grainFrom (c : BitVec 16) : List Byte → BitVec 16
  | [] => c
  | b :: r => grainFrom (grainShift8 (c ^^^ (b.setWidth 16 <<< 8))) r

/-- The grain code of a sector's bytes. -/
def grain (bs : List Byte) : BitVec 16 := grainFrom 0xFFFF bs

/-! ### Bytes and words -/

/-- A little-endian number of bytes (R5). -/
def ofBytes : List Byte → Nat
  | [] => 0
  | b :: r => b.toNat + 256 * ofBytes r

/-- The n low bytes of a number, little-endian. -/
def toBytes : Nat → Nat → List Byte
  | 0, _ => []
  | n + 1, x => BitVec.ofNat 8 x :: toBytes n (x / 256)

/-- A byte of a space. -/
def Memory.byte (m : Memory) (a : Nat) : Byte := SMap.get Memory.fill m.bytes a

/-- n bytes of a space. -/
def Memory.bytesAt (m : Memory) (a n : Nat) : List Byte := SMap.getList Memory.fill m.bytes a n

/-- Writes bytes and leaves codes and poison alone (the codes' differences are the caller's). -/
def Memory.putBytes (m : Memory) (a : Nat) (bs : List Byte) : Memory := { m with bytes := SMap.setList Memory.fill m.bytes a bs }

/-! ### Sectors -/

/-- The first byte of the sector of an address (R158). -/
def sectorOf (a : Nat) : Nat := a / 32 * 32

/-- A sector with a good code. -/
def Sector.good (bs : List Byte) : Sector := ⟨bs, grain bs, false⟩

/-- A bad code (R161). -/
def Sector.bad (x : Sector) : Bool := decide (x.code ≠ grain x.bytes)

/-- A sector that no consuming lane accepts. -/
def Sector.faulty (x : Sector) : Bool := x.bad || x.poison

/-- What a consuming lane finds (R161): POISON 16 before GRAIN 15. -/
def Sector.fault (x : Sector) : Option Nat := if x.poison then some 16 else if x.bad then some 15 else none

/-- The sector that holds an address. -/
def Memory.sector (m : Memory) (a : Nat) : Sector :=
  let bs := m.bytesAt (sectorOf a) 32
  ⟨bs, SMap.get 0 m.codeDiff (a / 32) ^^^ grain bs, SMap.get false m.poison (a / 32)⟩

/-- Replaces the sector that holds an address. -/
def Memory.setSector (m : Memory) (a : Nat) (x : Sector) : Memory :=
  { bytes := SMap.setList Memory.fill m.bytes (sectorOf a) (x.bytes.take 32)
    codeDiff := SMap.set 0 m.codeDiff (a / 32) (x.code ^^^ grain (x.bytes.take 32))
    poison := SMap.set false m.poison (a / 32) x.poison }

/-- Bytes of a list replaced from a position on. -/
def overlay (old : List Byte) (i : Nat) (new : List Byte) : List Byte :=
  old.take i ++ new.take (old.length - i) ++ old.drop (i + new.length)

/-- The bits of the n bytes from byte i of a sector, and those of the whole sector. -/
def bytesMask (i n : Nat) : BitVec 256 := BitVec.ofNat 256 ((2 ^ (8 * n) - 1) * 2 ^ (8 * i))
def wholeMask : BitVec 256 := BitVec.allOnes 256

/-- What a sector becomes when the bits of `mask` are written in it as `x` has them: a whole one is carried with its code and poison bit, another
takes a new code, its poison bit staying and a bad code leaving it poisoned (R160). -/
def Sector.over (mask : BitVec 256) (x old : Sector) : Sector :=
  if mask = wholeMask then x
  else
    let bs := toBytes 32 ((BitVec.ofNat 256 (ofBytes x.bytes) &&& mask) ||| (BitVec.ofNat 256 (ofBytes old.bytes) &&& ~~~mask)).toNat
    ⟨bs, if mask = 0 then old.code else grain bs, if mask = 0 then x.poison || old.poison else x.poison || old.poison || old.bad⟩

/-- A narrower store into a sector (R160, merge unit): the old code is checked, a bad one leaves the merged sector poisoned,
a set poison bit stays. -/
def Sector.merge (old : Sector) (i : Nat) (new : List Byte) : Sector :=
  let bs := overlay old.bytes i new
  ⟨bs, grain bs, old.poison || old.bad⟩

/-- The complement that stands for poison in far memory (R159). -/
def Sector.shadowed (x : Sector) : Sector := if x.poison then ⟨x.bytes, ~~~(grain x.bytes), false⟩ else x

/-- The complement that stands in a host shadow for a sector sent with EP set: one with a bad code or poison (R161, R400). -/
def Sector.sentToHost (x : Sector) : Sector := if x.faulty then ⟨x.bytes, ~~~(grain x.bytes), false⟩ else x

/-! ### Stores of a core or queue (R253) -/

/-- A store of whole sectors generates codes; any other merges, sector by sector. The bytes lie within aligned sectors in
ascending order from `a`. -/
def Memory.store (m : Memory) (a : Nat) (bs : List Byte) : Memory :=
  if a % 32 = 0 && bs.length % 32 = 0 then
    (List.range (bs.length / 32)).foldl (fun m i => m.setSector (a + 32 * i) (Sector.good ((bs.drop (32 * i)).take 32))) m
  else m.setSector a ((m.sector a).merge (a % 32) bs)

/-- The same in far memory, which has no poison bit (R159). -/
def Memory.farStore (m : Memory) (a : Nat) (bs : List Byte) : Memory :=
  if a % 32 = 0 && bs.length % 32 = 0 then m.store a bs else m.setSector a ((m.sector a).merge (a % 32) bs).shadowed

/-- A faulty sector among those that n bytes from a touch, in ascending order: its fault and its address. -/
def Memory.check (m : Memory) (a n : Nat) : Option (Nat × Nat) :=
  ((List.range ((a + n - 1) / 32 - a / 32 + 1)).filterMap fun i =>
    let x := sectorOf a + 32 * i
    ((m.sector x).fault).map fun k => (k, x)).head?

end Sys2Proof.Machine
end

