-- ==== Sys2Proof/Machine/Ops.lean ====
section
/-! DEFINITION. Machine/Ops.lean: the operations that every meaning shares: naming cores, contexts and their objects, reading
registers and landing results (R26 to R29, R60 to R66, R204), control registers (R70, R71), completions on rings (R264 to
R266), and TAKING AN EXCEPTION (R35, R376 to R381) with its way back (R366, R378). -/

namespace Sys2Proof

/-- The key of a context. -/
def CtxId.key (c : CtxId) : Nat := c.core.toNat * 4 + c.slot.toNat

end Sys2Proof

namespace Sys2Proof.Machine

/-- What `exec` answers. -/
abbrev Out := Host.Outcome State Fault Refusal

/-! ### Cores, groups and contexts (R16 to R20) -/

/-- An S-core number (R19). -/
def isS (c : BitVec 16) : Bool := c.getLsbD 15

/-- The stack of an S-core number. -/
def stackOf (c : BitVec 16) : Nat := field c 7 4

/-- The die of a core: for an S-core, that of its stack (R18). -/
def dieOf (c : BitVec 16) : Bool := if isS c then decide (8 ≤ stackOf c) else c.getLsbD 8

/-- The cluster (0 to 15) or stack (16 to 31) of a core. -/
def groupOf (c : BitVec 16) : Nat := if isS c then 16 + stackOf c else (if c.getLsbD 8 then 8 else 0) + field c 7 5

/-- The core's number within its cluster or stack. -/
def withinGroup (c : BitVec 16) : Nat := if isS c then field c 3 0 else field c 4 0

/-- The number of core `k` of a group (R19). -/
def coreAt (g k : Nat) : BitVec 16 :=
  if 16 ≤ g then BitVec.ofNat 16 (0x8000 + (g - 16) * 0x10 + k) else BitVec.ofNat 16 (g / 8 * 0x100 + g % 8 * 0x20 + k)

/-- Whether a core number names a core that is present (R19, R415). -/
def State.corePresent (s : State) (c : BitVec 16) : Bool :=
  coreNumOk c && decide (field c 14 9 = 0) &&
    (if isS c then s.resmap.stackMask.getLsbD (stackOf c) && s.resmap.scores.getLsbD (stackOf c * 16 + withinGroup c)
     else s.resmap.clusters.getLsbD (groupOf c) && s.resmap.dcores.getLsbD (groupOf c * 32 + withinGroup c))

/-- CORECLASS (R17). -/
def coreClass (c : BitVec 16) : W64 :=
  if isS c then BitVec.ofNat 64 ((if dieOf c then 2 ^ 24 else 0) + withinGroup c * 2 ^ 16 + stackOf c * 2 ^ 8 + 8 + 1)
  else BitVec.ofNat 64 ((if dieOf c then 2 ^ 24 else 0) + withinGroup c * 2 ^ 16 + field c 7 5 * 2 ^ 8 + 4)

/-- The context of a key. -/
def ctxOfKey (k : Nat) : CtxId := ⟨BitVec.ofNat 16 (k / 4), BitVec.ofNat 2 (k % 4)⟩

/-- The contexts of a core. -/
def ctxsOf (core : BitVec 16) : List CtxId := [⟨core, 0⟩, ⟨core, 1⟩, ⟨core, 2⟩, ⟨core, 3⟩]

/-- A context. -/
def State.ctx (s : State) (c : CtxId) : Ctx := SMap.get Ctx.init s.ctxs c.key

/-- Replaces a context. -/
def State.setCtx (s : State) (c : CtxId) (x : Ctx) : State := { s with ctxs := SMap.set Ctx.init s.ctxs c.key x }

/-- Applies a function to a context. -/
def State.onCtx (s : State) (c : CtxId) (f : Ctx → Ctx) : State := s.setCtx c (f (s.ctx c))

/-- The context whose slot operation is being performed. -/
def State.me (s : State) : Ctx := s.ctx s.cur

/-- Applies a function to that context. -/
def State.onMe (s : State) (f : Ctx → Ctx) : State := s.onCtx s.cur f

/-- A core. -/
def State.core (s : State) (c : BitVec 16) : Core := SMap.get Core.init s.cores c.toNat

/-- Applies a function to a core. -/
def State.onCore (s : State) (c : BitVec 16) (f : Core → Core) : State :=
  { s with cores := SMap.set Core.init s.cores c.toNat (f (s.core c)) }

/-- A cluster or stack. -/
def State.group (s : State) (g : Nat) : Group := SMap.get Group.init s.groups g

/-- Applies a function to a group. -/
def State.onGroup (s : State) (g : Nat) (f : Group → Group) : State :=
  { s with groups := SMap.set Group.init s.groups g (f (s.group g)) }

/-- A stack. -/
def State.stack (s : State) (n : Nat) : Stack := SMap.get Stack.init s.stackTab n

/-- Applies a function to a stack. -/
def State.onStack (s : State) (n : Nat) (f : Stack → Stack) : State :=
  { s with stackTab := SMap.set Stack.init s.stackTab n (f (s.stack n)) }

/-- A channel of a stack. -/
def State.channel (s : State) (st ch : Nat) : Channel := SMap.get Channel.init (s.stack st).channels ch

/-- Applies a function to a channel. -/
def State.onChannel (s : State) (st ch : Nat) (f : Channel → Channel) : State :=
  s.onStack st fun k => { k with channels := SMap.set Channel.init k.channels ch (f (SMap.get Channel.init k.channels ch)) }

/-- The Lathe of a die. -/
def State.lathe (s : State) (die : Bool) : Lathe := if die then s.lathe1 else s.lathe0

/-- Applies a function to a Lathe. -/
def State.onLathe (s : State) (die : Bool) (f : Lathe → Lathe) : State :=
  if die then { s with lathe1 := f s.lathe1 } else { s with lathe0 := f s.lathe0 }

/-- A stream. -/
def State.stream (s : State) (i : StreamId) : Stream := SMap.get Stream.init (s.lathe i.die).streams i.n.toNat

/-- Applies a function to a stream. -/
def State.onStream (s : State) (i : StreamId) (f : Stream → Stream) : State :=
  s.onLathe i.die fun l => { l with streams := SMap.set Stream.init l.streams i.n.toNat (f (SMap.get Stream.init l.streams i.n.toNat)) }

/-- A launch by its number. -/
def Lathe.launch (l : Lathe) (id : Nat) : Option Launch := l.launches.find? fun x => decide (x.id = id)

/-- Applies a function to a launch. -/
def State.onLaunch (s : State) (die : Bool) (id : Nat) (f : Launch → Launch) : State :=
  s.onLathe die fun l => { l with launches := l.launches.map fun x => if x.id = id then f x else x }

/-- The stream that a context is bound to (R365): on its core's die. -/
def State.streamOf (s : State) (c : CtxId) : StreamId := ⟨dieOf c.core, (s.ctx c).stream⟩

/-- An installed address space (R363). -/
def State.space (s : State) (asid : BitVec 11) : Option AddrSpace := SMap.get none s.spaces asid.toNat

/-- Chip time as CHIPTIME reads it (R9). -/
def State.chiptime (s : State) : W64 := BitVec.ofNat 64 s.chip

/-- A telemetry counter of R440 counts on. -/
def State.tally (s : State) (off n : Nat) : State := { s with telemetry := SMap.upd 0 s.telemetry off (· + n) }

/-- Something leaves the package. -/
def State.emit (s : State) (o : Output) : State := { s with out := s.out ++ [o] }

/-- A number never used before. -/
def State.fresh (s : State) : Nat × State := (s.nextId, { s with nextId := s.nextId + 1 })

/-- A free value (log entry 8). -/
def State.freeWord (s : State) : W64 × State := (Config.freeWord s.free, { s with free := s.free + 1 })

/-- One of several things among which the manual has no preference: a free choice (log entry 8). -/
def State.pick {α : Type} (s : State) (l : List α) : Option α × State :=
  match l with
  | [] => (none, s)
  | [a] => (some a, s)
  | _ => let f := s.freeWord; (l[f.1.toNat % l.length]?, f.2)

/-! ### Registers (R60 to R66) -/

/-- The physical register of a logical s or v number (R65). -/
def RegSet.phys (r : RegSet) (n : BitVec 6) : Nat :=
  if n.toNat < 32 then n.toNat else 32 + (n.toNat - 32 + r.rrb.toNat) % 32

/-- The physical register of a logical p number (R65). -/
def RegSet.physP (r : RegSet) (n : BitVec 4) : Nat :=
  if n.toNat < 8 then n.toNat else 8 + (n.toNat - 8 + r.rrb.toNat) % 8

/-- s(n): s0 reads as zero (R61). -/
def Ctx.s (c : Ctx) (n : BitVec 6) : W64 := if n = 0 then 0 else SMap.get 0 c.regs.s (c.regs.phys n)

/-- The poison tag of s(n) (R204). -/
def Ctx.sTag (c : Ctx) (n : BitVec 6) : Bool := decide (n ≠ 0) && c.regs.sTag.getLsbD (c.regs.phys n)

/-- p(n): p0 reads as true (R61). -/
def Ctx.p (c : Ctx) (n : BitVec 4) : Bool := decide (n = 0) || c.regs.p.getLsbD (c.regs.physP n)

/-- v(n). -/
def Ctx.v (c : Ctx) (n : BitVec 6) : V1024 := SMap.get 0 c.regs.v (c.regs.phys n)

/-- The poison tag of v(n). -/
def Ctx.vTag (c : Ctx) (n : BitVec 6) : Bool := c.regs.vTag.getLsbD (c.regs.phys n)

/-- m(n): m0 reads as all ones (R61). -/
def Ctx.m (c : Ctx) (n : BitVec 3) : Mask := if n = 0 then BitVec.allOnes 128 else SMap.get 0 c.regs.m n.toNat

/-- The poison tag of m(n). -/
def Ctx.mTag (c : Ctx) (n : BitVec 3) : Bool := decide (n ≠ 0) && c.regs.mTag.getLsbD n.toNat

/-- Tile t (R117). -/
def Ctx.tile (c : Ctx) (t : Nat) : Tile := SMap.get Tile.zero c.regs.tiles t

/-- Whether a guard is true at issue (R81). -/
def Ctx.guard (c : Ctx) (g : Guard) : Bool := c.p g.p ^^ g.neg

/-- Sets one bit of a word. -/
def setBit {w : Nat} (x : BitVec w) (i : Nat) (b : Bool) : BitVec w :=
  if b then x ||| (1 <<< i) else x &&& ~~~((1 : BitVec w) <<< i)

/-- A 1024-bit word with a one in every bit of the byte lanes of a mask. -/
def laneBits (m : Mask) : V1024 :=
  (List.range 128).foldl (fun x i => if m.getLsbD i then x ||| ((0xFF : V1024) <<< (8 * i)) else x) 0

/-- The state of a vector bank: 0 powered, 1 retention, 2 gated (R67). -/
def Ctx.bank (c : Ctx) (phys : Nat) : Nat := field c.vbank (2 * (phys / 16) + 1) (2 * (phys / 16))

/-- A result becomes visible (R26, R61, R69, R203, R204): a result in a gated bank is discarded, one in a retained bank powers
the bank. -/
def Ctx.apply (c : Ctx) (l : Landing) : Ctx :=
  let r := c.regs
  match l.val with
  | .s n x => if n = 0 then c else { c with regs := { r with s := SMap.set 0 r.s n x, sTag := setBit r.sTag n l.tag } }
  | .p n b => if n = 0 then c else { c with regs := { r with p := setBit r.p n b } }
  | .v n x lanes =>
    if lanes = 0 || c.bank n = 2 then c
    else
      let b := laneBits lanes
      let old := SMap.get 0 r.v n
      let tag := l.tag || (decide (lanes ≠ BitVec.allOnes 128) && r.vTag.getLsbD n)
      { c with
        regs := { r with v := SMap.set 0 r.v n ((old &&& ~~~b) ||| (x &&& b)), vTag := setBit r.vTag n tag }
        vbank := if c.bank n = 1 then setBit c.vbank (2 * (n / 16)) false else c.vbank }
  | .m n x bits =>
    if n = 0 || bits = 0 then c
    else
      let old := SMap.get 0 r.m n
      let tag := l.tag || (decide (bits ≠ BitVec.allOnes 128) && r.mTag.getLsbD n)
      { c with regs := { r with m := SMap.set 0 r.m n ((old &&& ~~~bits) ||| (x &&& bits)), mTag := setBit r.mTag n tag } }
  | .latch k es =>
    { c with regs := { r with latches := es.foldl (fun m e => SMap.set 0 m (1024 * k + e.1) e.2) r.latches } }
  | .rb n row => { c with regs := { r with rb := SMap.set Memory.empty r.rb n row } }
  | .prb ls => { c with regs := { r with prb := ⟨SMap.setList 0 [] 0 ls, l.tag⟩ } }

/-- An entry that is due. -/
def Landing.isDue (t : Nat) (l : Landing) : Bool :=
  match l.due with
  | some d => decide (d ≤ t)
  | none => false

/-- A due result in a retained bank (R69). A vector result with no enabled element writes nothing, and here it neither powers the bank nor
stalls (log entry 70). -/
def Ctx.wakesBank (c : Ctx) : Bool :=
  c.regs.landing.any fun l => l.isDue c.regs.tick && match l.val with
    | .v n _ lanes => decide (lanes ≠ 0) && decide (c.bank n = 1)
    | _ => false

/-- Every result whose due tick TICK has reached becomes visible, in issue order and then slot order, so that the last written
value stands (R26, R29); flags are ORed into FPSTAT (R113) and tile results replace their tiles (R234). -/
def Ctx.landDue (c : Ctx) : Ctx :=
  let t := c.regs.tick
  let due := c.regs.landing.filter (·.isDue t)
  let c1 := due.foldl Ctx.apply c
  let r := c1.regs
  { c1 with
    regs := { r with
      landing := c.regs.landing.filter (fun l => !l.isDue t)
      tiles := (r.pendTiles.filter fun p => decide (p.due ≤ t)).foldl (fun m p => SMap.set Tile.zero m p.tile p.val) r.tiles
      pendTiles := r.pendTiles.filter fun p => decide (t < p.due)
      flagQ := r.flagQ.filter fun f => decide (t < f.due) }
    fpstat := (r.flagQ.filter fun f => decide (f.due ≤ t)).foldl (fun x f => x ||| f.bits) c1.fpstat }

/-- The register that a result writes. -/
def LandVal.reg : LandVal → Nat
  | .s r _ => r | .p r _ => r | .v r _ _ => r | .m r _ _ => r | .latch l _ => l | .rb r _ => r | .prb _ => 0

/-- Whether a result is that of a V slot: a vector register or a mask. -/
def LandVal.isWide : LandVal → Bool
  | .v _ _ _ => true
  | .m _ _ _ => true
  | _ => false

/-- A result for s0, p0 or m0, which is discarded (R61). -/
def LandVal.discarded : LandVal → Bool
  | .s r _ => decide (r = 0)
  | .p r _ => decide (r = 0)
  | .m r _ _ => decide (r = 0)
  | _ => false

/-- A result with a latency in ticks enters the landing queue (R27), unless it is discarded: the manual does not say whether such a result
takes an entry, and here it takes none, while a load, an `amo` or a blocked `awaitf` takes one whatever its destination (log entry 69). -/
def Ctx.land (c : Ctx) (lat : Nat) (v : LandVal) (tag : Bool) : Ctx :=
  if v.discarded then c
  else { c with regs := { c.regs with landing := c.regs.landing ++ [⟨some (c.regs.tick + lat), v, tag, none, c.regs.tick⟩] } }

/-- Flags due with a result (R113). -/
def Ctx.flag (c : Ctx) (lat : Nat) (f : Flags) : Ctx :=
  if f = 0 then c else { c with regs := { c.regs with flagQ := c.regs.flagQ ++ [⟨c.regs.tick + lat, c.regs.tick, f⟩] } }

/-- A scalar result: the destination is mapped at issue (R65). -/
def Ctx.landS (c : Ctx) (lat : Nat) (d : BitVec 6) (x : W64) (tag : Bool) : Ctx := c.land lat (.s (c.regs.phys d) x) tag

/-- A predicate result. -/
def Ctx.landP (c : Ctx) (lat : Nat) (d : BitVec 4) (b : Bool) : Ctx := c.land lat (.p (c.regs.physP d) b) false

/-- A vector result of some byte lanes. -/
def Ctx.landV (c : Ctx) (lat : Nat) (d : BitVec 6) (x : V1024) (lanes : Mask) (tag : Bool) : Ctx :=
  c.land lat (.v (c.regs.phys d) x lanes) tag

/-! ### Words of device and host memory that the Z7 itself reads and writes -/

/-- The start of the CXL windows (R385). -/
def cxlBase : Nat := 2 ^ 40

/-- What lies at a device address in the grain shadow of a far port: a far sector, and which byte of its code (R385, R399). -/
def State.shadowAt (s : State) (a : Nat) : Option (Nat × Nat) :=
  let p := (a - cxlBase) / 2 ^ 42
  let x := (a - cxlBase) % 2 ^ 42
  let c := SMap.get 0 s.farCap p
  if decide (cxlBase ≤ a) && decide (p < 2) && decide (c ≤ x) && decide (x < c + c / 16) then
    some (cxlBase + p * 2 ^ 42 + (x - c) / 2 * 32, (x - c) % 2)
  else none

/-- A byte of the code of a far sector. -/
def State.codeByte (s : State) (e : Nat × Nat) : Byte := slice (s.dev.sector e.1).code (8 * e.2) 8

/-- n bytes of device or host memory as they lie, by address alone: a line of an enciphered frame reads as ciphertext (R143). -/
def State.rawBytes (s : State) (host : Bool) (a n : Nat) : List Byte :=
  if host then s.host.bytesAt a n
  else if a + n ≤ cxlBase then s.dev.bytesAt a n
  else (List.range n).map fun i => match s.shadowAt (a + i) with
    | some e => s.codeByte e
    | none => s.dev.byte (a + i)

/-- A 64-bit word of device or host memory. -/
def State.rawWord (s : State) (host : Bool) (a : Nat) : W64 := BitVec.ofNat 64 (ofBytes (s.rawBytes host a 8))

/-- n words. -/
def State.rawWords (s : State) (host : Bool) (a n : Nat) : List W64 := (List.range n).map fun i => s.rawWord host (a + 8 * i)

/-- A byte of the code of a far sector is written. -/
def State.setCodeByte (s : State) (e : Nat × Nat) (x : Byte) : State :=
  let k := s.dev.sector e.1
  let code : BitVec 16 := if e.2 = 0 then slice k.code 8 8 ++ x else x ++ slice k.code 0 8
  { s with dev := s.dev.setSector e.1 { k with code := code } }

/-- Bytes that lie within one sector, or whole sectors, written as they are to device memory with codes, or to host memory. -/
def State.rawStore (s : State) (host : Bool) (a : Nat) (bs : List Byte) : State :=
  if host then { s with host := s.host.putBytes a bs }
  else if a + bs.length ≤ cxlBase then { s with dev := s.dev.store a bs }
  else match s.shadowAt a with
    | some _ => bs.zipIdx.foldl (fun s b => match s.shadowAt (a + b.2) with
      | some e => s.setCodeByte e b.1
      | none => s) s
    | none => { s with dev := s.dev.farStore a bs }

/-- A word. -/
def State.rawStoreWord (s : State) (host : Bool) (a : Nat) (w : W64) : State := s.rawStore host a (toBytes 8 w.toNat)

/-- Words one after another. -/
def State.rawStoreWords (s : State) (host : Bool) (a : Nat) : List W64 → State
  | [] => s
  | w :: r => (s.rawStoreWord host a w).rawStoreWords host (a + 8) r

/-! ### Rings and completions (R264 to R266) -/

/-- The ring object that cqn of a context names; 0 when it is unbound. -/
def Ctx.ringId (c : Ctx) (n : Nat) : Nat := SMap.get 0 c.ringLink n

/-- A ring object. -/
def State.ring (s : State) (id : Nat) : Ring := SMap.get Ring.init s.rings id

/-- Applies a function to a ring object. -/
def State.onRing (s : State) (id : Nat) (f : Ring → Ring) : State := { s with rings := SMap.set Ring.init s.rings id (f (s.ring id)) }

/-- Whether the slot at rp is FILLED. -/
def Ring.ready (r : Ring) : Bool := SMap.get false r.filled r.rp

/-- Whether the slot at wp is FILLED. -/
def Ring.full (r : Ring) : Bool := SMap.get false r.filled r.wp

/-- The status of the slot at rp. -/
def Ring.oldest (r : Ring) : W64 := SMap.get 0 r.status r.rp

/-- Fills the slot at wp. -/
def Ring.fill (r : Ring) (x : W64) : Ring :=
  { r with status := SMap.set 0 r.status r.wp x, filled := SMap.set false r.filled r.wp true, wp := (r.wp + 1) % 2 ^ r.j }

/-- Frees the slot at rp (R268). -/
def Ring.free (r : Ring) : Ring := { r with filled := SMap.set false r.filled r.rp false, rp := (r.rp + 1) % 2 ^ r.j }

/-- The `rels` of Suspended contexts that blocked before `upTo` free what slots they can: each stands after its context's rollback (R268, R308; log
entry 99). -/
def Ring.pay (upTo : Nat) : List (Nat × Nat) → Ring → Ring
  | [], r => r
  | e :: es, r => if r.ready && decide (e.2 < upTo) then Ring.pay upTo es { r.free with owed := r.owed.erase e } else r

/-- Posts the oldest held completion, if the ring has room (R266). -/
def Ring.unhold (r : Ring) : Ring :=
  match r.held with
  | [] => r
  | (x, _) :: rest => if r.full then r else { r.fill x with held := rest }

/-- A completion status word (R265). -/
def statusWord (tag : BitVec 16) (source code count : Nat) : W64 :=
  tag ++ BitVec.ofNat 8 source ++ BitVec.ofNat 8 code ++ BitVec.ofNat 32 count

/-- An engine posts a completion, or holds it behind those held before it (R266); on ring 0 nothing is posted. -/
def State.post (s : State) (id : Nat) (x : W64) (core : Option Nat) : State :=
  if id = 0 then s
  else s.onRing id fun r => if r.full || !r.held.isEmpty then { r with held := r.held ++ [(x, core)] } else r.fill x

/-! ### Control transfers (R183) -/

/-- The next bundle index after bundle b issues, and the redirect list after it (R183). -/
def nextIndex (l : List (Nat × Nat)) (b : Nat) (x : Transfer) : Nat × List (Nat × Nat) :=
  let l1 := l.map fun e => (e.1 - 1, e.2)
  let l2 := match x with
    | .delayed t => l1 ++ [(3, t)]
    | _ => l1
  match l2.find? fun e => decide (e.1 = 0) with
  | some e => (e.2, l2.filter fun e => decide (e.1 ≠ 0))
  | none => match x with
    | .loopTo t => (t, l2)
    | _ => (b + 1, l2)

/-! ### Records in queues (R376, R402) -/

/-- Writes a record and the producer count of a queue at `base` with 2^n entries, unless the queue is full. -/
def State.queueRecord (s : State) (host : Bool) (base n produced : Nat) (rec : List W64) : Option State :=
  let consumed := (s.rawWord host (base + 8)).toNat
  if (produced + 2 ^ 64 - consumed) % 2 ^ 64 < 2 ^ n then
    some ((s.rawStoreWords host (base + 64 + 64 * (produced % 2 ^ n)) rec).rawStoreWord host base (BitVec.ofNat 64 (produced + 1)))
  else none

/-- Writes the number of records held back into the queue's head (R376). -/
def State.queueHeld (s : State) (host : Bool) (base held : Nat) : State := s.rawStore host (base + 16) (toBytes 4 held)

/-- Applies a function to an installed address space. -/
def State.onSpace (s : State) (asid : BitVec 11) (f : AddrSpace → AddrSpace) : State :=
  { s with spaces := SMap.set none s.spaces asid.toNat ((s.space asid).map f) }

/-- The notification of a fault record (R376). -/
def State.notify (s : State) (a : AddrSpace) (produced : Nat) : State :=
  if a.args.ring then
    let c : CtxId := ⟨a.args.core, a.args.slot⟩
    s.post ((s.ctx c).ringId a.args.cq.toNat) (statusWord 0 0x80 0 produced) none
  else s.emit (.msix a.args.vector.toNat)

/-- Writes a record of a context to its address space's fault queue, or holds it in the core (R376). -/
def State.faultRecord (s : State) (c : CtxId) (rec : List W64) : State :=
  let asid := (s.ctx c).asid
  match s.space asid with
  | none => s
  | some a =>
    let host := a.args.fqHost
    let base := a.args.fq.toNat
    match if a.held.isEmpty then s.queueRecord host base a.args.fqLog.toNat a.produced rec else none with
    | some s1 => (s1.onSpace asid fun a => { a with produced := a.produced + 1 }).notify a (a.produced + 1)
    | none => (s.onSpace asid fun a => { a with held := a.held ++ [(c.key, rec)] }).queueHeld host base (a.held.length + 1)

/-- The next sequence number of an address space. -/
def State.nextSeq (s : State) (asid : BitVec 11) : Nat × State :=
  match s.space asid with
  | none => (0, s)
  | some a => (a.seqNo, s.onSpace asid fun a => { a with seqNo := a.seqNo + 1 })

/-- A record of R377: word 0 to word 7. -/
def State.recordWords (s : State) (c : CtxId) (typ kind sub : Nat) (w1lo w1hi : Nat) (w2 w3 : W64) (seq : Nat) : List W64 :=
  let x := s.ctx c
  [ (0 : BitVec 3) ++ x.asid ++ c.slot ++ c.core ++ (0 : BitVec 12) ++ BitVec.ofNat 4 sub ++ BitVec.ofNat 8 kind ++ BitVec.ofNat 8 typ
  , BitVec.ofNat 32 w1hi ++ BitVec.ofNat 32 w1lo
  , w2, w3
  , x.task.setWidth 64
  , BitVec.ofNat 64 x.regs.tick
  , s.chiptime
  , (0 : BitVec 25) ++ BitVec.ofBool (dieOf c.core) ++ x.stream ++ BitVec.ofNat 32 seq ]

/-! ### Exceptions (R35, R377, R378) -/

/-- Kinds of R377. -/
inductive Kind where
  | illegalBundle | illegalOp | unsupported | priv | align | bankConflict | regbankOff | schedTag | xlate | coord | deckRange
  | markOverflow | dramTiming | refreshLate | poison | silentMismatch | trap | brk
deriving DecidableEq, Repr

/-- The code of a kind (R377). -/
def Kind.code : Kind → Nat
  | .illegalBundle => 1 | .illegalOp => 2 | .unsupported => 3 | .priv => 4 | .align => 5 | .bankConflict => 6 | .regbankOff => 7
  | .schedTag => 8 | .xlate => 9 | .coord => 10 | .deckRange => 11 | .markOverflow => 12 | .dramTiming => 13 | .refreshLate => 14
  | .poison => 16 | .silentMismatch => 17 | .trap => 18 | .brk => 19

/-- The XLATE sub-kinds (R377). -/
inductive Sub where
  | notPresent | permission | leased | owner | world
deriving DecidableEq, Repr

/-- The code of a sub-kind. -/
def Sub.code : Sub → Nat
  | .notPresent => 0 | .permission => 1 | .leased => 2 | .owner => 3 | .world => 4

/-- What a check raises: a fault with its info words, or a consumed error (R161) with its reason, and the space code and address of
the sector that decided it and, for a frame, its location. -/
inductive Exn where
  | fault (k : Kind) (sub : Nat) (w2 w3 : W64)
  | lost (reason space addr : Nat) (at_ : Option Loc)
deriving DecidableEq, Repr

/-- An exception with numbers for its info words. -/
def Exn.mk (k : Kind) (w2 w3 : Nat) : Exn := .fault k 0 (BitVec.ofNat 64 w2) (BitVec.ofNat 64 w3)

/-- COORD with its object's index and kind, slot code and offending value (R448). -/
def Exn.coord (index kind slot value : Nat) : Exn := Exn.mk .coord (index % 2 ^ 16 + kind * 2 ^ 16 + slot * 2 ^ 20) value

/-- XLATE with its tensor, tile, slot code and bank (R377). -/
def Exn.xlate (sub : Sub) (tensor tile slot bank : Nat) : Exn :=
  .fault .xlate sub.code (BitVec.ofNat 64 (tensor % 2 ^ 16 + tile % 2 ^ 32 * 2 ^ 16 + slot * 2 ^ 48)) (BitVec.ofNat 64 bank)

/-- A POISON from a register tag (R377): file 0 s, 1 v, 2 m, 3 PRB. -/
def Exn.tag (slot reg file : Nat) : Exn := Exn.mk .poison slot (reg + file * 2 ^ 8)

/-- Translation faults roll back (R35). -/
def Kind.rolls : Kind → Bool
  | .xlate | .coord => true
  | _ => false

/-- FAULTINFO (R379). -/
def faultInfoWord (kind sub bundle : Nat) : W64 :=
  BitVec.ofNat 32 bundle ++ (0 : BitVec 19) ++ (1 : BitVec 1) ++ BitVec.ofNat 4 sub ++ BitVec.ofNat 8 kind

/-- The byte of the store that a core-store offset names: an S-core decodes no bit 13 (R128). -/
def coreOff (c : BitVec 16) (a : Nat) : Nat :=
  let x := a % 2 ^ 20
  if isS c then x - x / 2 ^ 13 % 2 * 2 ^ 13 else x

/-- Lane i of a core-store write goes through the merge unit, if it is enabled. -/
def CoreWrite.mergeLane (c : BitVec 16) (w : CoreWrite) (m : Memory) (i : Nat) : Memory :=
  if w.lanes.getD i false then
    let a := coreOff c (w.off + i)
    m.setSector a ((m.sector a).merge (a % 32) [w.bytes.getD i 0])
  else m

/-- Sector i of a write of whole sectors: with every lane enabled it takes a new code. -/
def CoreWrite.putSector (c : BitVec 16) (w : CoreWrite) (m : Memory) (i : Nat) : Memory :=
  if ((w.lanes.drop (32 * i)).take 32).all id then m.setSector (coreOff c (w.off + 32 * i)) (Sector.good ((w.bytes.drop (32 * i)).take 32))
  else (List.range 32).foldl (fun m j => w.mergeLane c m (32 * i + j)) m

/-- Performs a core-store write (R253): whole sectors take new codes, the enabled bytes of others merge. -/
def Memory.coreWrite (c : BitVec 16) (m : Memory) (w : CoreWrite) : Memory :=
  if w.whole then (List.range (w.bytes.length / 32)).foldl (w.putSector c) m else (List.range w.bytes.length).foldl (w.mergeLane c) m

/-! ### Core-store writes and the layers over a store (R162, R163, R166 to R168, R254; log entry 75) -/

/-- Whether a core-store write is one of a binding of a slot. -/
def CoreWrite.of (w : CoreWrite) (slot : BitVec 2) (bid : Nat) : Bool := decide (w.slot = slot) && decide (w.bid = bid)

/-- A store with one layer laid over it. -/
def CoreLayer.onto (c : BitVec 16) (m : Memory) : CoreLayer → Memory
  | .write w _ => m.coreWrite c w
  | .sector off x mask => m.setSector (coreOff c off) (x.over mask (m.sector (coreOff c off)))

/-- Whether a layer is a write whose own context has not reached its tick. -/
def CoreLayer.waiting : CoreLayer → Bool
  | .write _ b => b
  | .sector _ _ _ => false

/-- Whether a layer is a write of a binding that waits for its tick. -/
def CoreLayer.waits (slot : BitVec 2) (bid : Nat) : CoreLayer → Bool
  | .write w b => b && w.of slot bid
  | .sector _ _ _ => false

/-- Whether a layer is a write of a binding that waits for a tick after t. -/
def CoreLayer.ahead (slot : BitVec 2) (bid t : Nat) : CoreLayer → Bool
  | .write w true => w.of slot bid && decide (t < w.due)
  | _ => false

/-- The store of a core as every party sees it but the contexts whose writes wait for their ticks. -/
def Core.seen (c : BitVec 16) (k : Core) : Memory := k.layers.foldl (CoreLayer.onto c) k.store

/-- The byte of the store that lane i of a write goes to. -/
def CoreWrite.spot (c : BitVec 16) (w : CoreWrite) (i : Nat) : Nat := coreOff c (w.off + i)

/-- Whether a layer gives a byte of the store a value. -/
def CoreLayer.covers (c : BitVec 16) (a : Nat) : CoreLayer → Bool
  | .write v _ => (List.range v.bytes.length).any fun i => v.lanes.getD i false && decide (v.spot c i = a)
  | .sector off _ mask => decide (sectorOf (coreOff c off) = sectorOf a) && decide (slice mask (8 * (a % 32)) 8 ≠ 0)

/-- The enabled lanes of a write whose bytes a layer covers. -/
def CoreWrite.under (c : BitVec 16) (w : CoreWrite) (l : CoreLayer) : List Bool :=
  (List.range w.bytes.length).map fun i => w.lanes.getD i false && l.covers c (w.spot c i)

/-- Whether a layer is a write of the same binding that performs after `w` (R163). -/
def CoreLayer.follows (w : CoreWrite) : CoreLayer → Bool
  | .write v b => b && v.of w.slot w.bid && decide (w.due < v.due)
  | .sector _ _ _ => false

/-- The lanes of a write that go below a layer which covers the bytes `hit`: those, and the rest of each sector among them whose code the write
generates (R253). -/
def CoreWrite.below (w : CoreWrite) (hit : List Bool) : List Bool :=
  w.lanes.zipIdx.map fun e => e.1 && (hit.getD e.2 false || (w.whole && ((hit.drop (e.2 / 32 * 32)).take 32).any id))

/-- A write takes its place among the layers, the lowest first: its bytes go below the first write of its own binding that performs after it and
writes them too, and the others on top of everything. -/
def layWrite (c : BitVec 16) (w : CoreWrite) : List CoreLayer → List CoreLayer
  | [] => if w.lanes.any id then [.write w true] else []
  | l :: r =>
    let hit := w.under c l
    if l.follows w && hit.any id then
      .write { w with lanes := w.below hit } true :: l :: layWrite c { w with lanes := List.zipWith (fun e h => e && !h) w.lanes hit } r
    else l :: layWrite c w r

/-- A write joins the layers: on top of all of them, unless a write of its own binding to one of its bytes performs after it. -/
def addWrite (c : BitVec 16) (l : List CoreLayer) (w : CoreWrite) : List CoreLayer :=
  if l.any fun x => x.follows w && (w.under c x).any id then layWrite c w l else l ++ [.write w true]

/-- The writes of a core that satisfy `p` become visible to the other parties. -/
def Core.publish (c : BitVec 16) (p : CoreWrite → Bool) (k : Core) : Core :=
  { k with layers := (k.writes.filter p).foldl (addWrite c) k.layers, writes := k.writes.filter fun w => !p w }

/-- A write of a binding that has reached tick t, or with `all` any of them, waits no longer. -/
def CoreLayer.settle (slot : BitVec 2) (bid t : Nat) (all : Bool) : CoreLayer → CoreLayer
  | .write w b => .write w (b && !(w.of slot bid && (all || decide (w.due ≤ t))))
  | l => l

/-- The layers below every write that waits become bytes of the store. -/
def Core.sink (c : BitVec 16) (k : Core) : Core :=
  { k with
    store := (k.layers.takeWhile fun l => !l.waiting).foldl (CoreLayer.onto c) k.store
    layers := k.layers.dropWhile fun l => !l.waiting }

/-- Another party writes bits of a sector of a core store. -/
def Core.putSector (c : BitVec 16) (off : Nat) (x : Sector) (mask : BitVec 256) (k : Core) : Core :=
  if k.layers.isEmpty then { k with store := k.store.setSector (coreOff c off) x } else { k with layers := k.layers ++ [.sector off x mask] }

/-- Whether an access is a store or an `amo` that has not performed. -/
def QAcc.unwritten (q : QAcc) : Bool :=
  match q.phase, q.kind with
  | .done _ _ _, _ => false
  | _, .load _ => false
  | _, _ => true

/-- What has to perform before a core-store access that issues when its context's next queued access has number n: the stores and `amo`s before a
fence, and an `amo` that is an acquire (R166, R167, R301). Each is a number below which they lie, with the scope. -/
def Ctx.holdersAt (x : Ctx) (n : Nat) : List (Nat × Scope) :=
  (x.fences.filter fun f => decide (f.1 < n) && x.queue.any fun q => decide (q.seq < f.1) && q.unwritten) ++
    x.queue.filterMap fun q => if q.unwritten && decide (q.order = .acquire) && decide (q.seq < n) then some (q.seq + 1, q.scope) else none

/-- What a core-store write has to follow as others see it: a scope of the context alone binds no other party (R165). -/
def Ctx.holders (x : Ctx) (w : CoreWrite) : List (Nat × Scope) := (x.holdersAt w.seq).filter fun h => decide (h.2 ≠ .context)

/-- Whether an order keeps a core-store write from the other parties (R166, R167, R301). -/
def Ctx.fenced (x : Ctx) (w : CoreWrite) : Bool := !(x.holders w).isEmpty

/-- Whether a write of a context takes effect for the other parties: its tick has come, or with `all` at once, and no order keeps it back. -/
def Ctx.performs (x : Ctx) (slot : BitVec 2) (all : Bool) (w : CoreWrite) : Bool :=
  w.of slot x.bid && (all || decide (w.due ≤ x.regs.tick)) && !x.fenced w

/-- Core-store writes of a context become visible to the other parties, after those that a fence of a scope with other parties in it orders before one
of them (R167). -/
def State.takeEffect (s : State) (c : CtxId) (p : CoreWrite → Bool) : State :=
  let x := s.ctx c
  s.onCore c.core fun k =>
    let now := k.writes.filter p
    let before (w : CoreWrite) : Bool := now.any fun v => x.fences.any fun f =>
      decide (f.2 ≠ .context) && decide (w.seq ≤ f.1) && decide (f.1 < v.seq)
    k.publish c.core fun w => p w || (w.of c.slot x.bid && before w)

/-- The writes of a binding that still wait, in the order of their ticks, are due at once. -/
def Core.hasten (slot : BitVec 2) (bid : Nat) (k : Core) : Core :=
  { k with writes := (k.writes.filter fun w => !w.of slot bid) ++ (sortBy CoreWrite.due (k.writes.filter (·.of slot bid))).map fun w => { w with due := 0 } }

/-- The writes of a binding whose tick has come, or with `all` every one, wait no longer as layers. -/
def Core.settle (c : CtxId) (bid t : Nat) (all : Bool) (k : Core) : Core :=
  ({ k with layers := k.layers.map (CoreLayer.settle c.slot bid t all) } : Core).sink c.core

/-- The core-store writes of a context whose perform tick its own tick has reached take effect (R163), but for those that an order still keeps from the
others; with `all`, every one is due. Until then a read by another context gives the old value, unless something publishes the write (log entry
114). -/
def State.coreWrites (s : State) (c : CtxId) (all : Bool) : State :=
  let x := s.ctx c
  (s.takeEffect c (x.performs c.slot all)).onCore c.core fun k =>
    let k1 := k.settle c x.bid x.regs.tick all
    if all then k1.hasten c.slot x.bid else k1

/-- The core-store writes of a context that were issued before its access number n become visible to every party, as an access ordered after
them performs (R166 to R168, log entry 75). Their own context reads on as it does until its tick. -/
def State.publish (s : State) (c : CtxId) (n : Nat) : State :=
  s.onCore c.core fun k => k.publish c.core fun w => w.of c.slot (s.ctx c).bid && decide (w.seq ≤ n)

/-- The store of a context's core as the context itself reads it at its tick (R163): a write of its own that others see before its perform tick is
not there yet, and one that a fence keeps from them is. -/
def State.ownStore (s : State) (c : CtxId) : Memory :=
  let k := s.core c.core
  let x := s.ctx c
  let m := (k.layers.filter fun l => !l.ahead c.slot x.bid x.regs.tick).foldl (CoreLayer.onto c.core) k.store
  (sortBy (·.due) (k.writes.filter fun w => w.of c.slot x.bid && decide (w.due ≤ x.regs.tick))).foldl (Memory.coreWrite c.core) m

/-! ### Control registers that a write changes (R67 to R71) -/

/-- Sets STOP of the launch of a context's task (R54): the step that set it first, or the lowest. -/
def State.setStop (s : State) (c : CtxId) : State :=
  let x := s.ctx c
  if x.hasTask then
    s.onLaunch (dieOf c.core) x.launch fun l =>
      let n := field x.task 61 42
      { l with stop := some (match l.stop with
          | none => n
          | some k => min k n) }
  else s

/-- The registers of the gated vector banks read zero, their contents being lost (R69). -/
def Ctx.loseGated (c : Ctx) : Ctx :=
  [1, 2, 3].foldl (fun c b =>
    if c.bank (16 * b) = 2 then
      { c with regs := { c.regs with
          v := c.regs.v.filter fun e => decide (e.1 / 16 ≠ b)
          vTag := c.regs.vTag &&& ~~~((0xFFFF : BitVec 64) <<< (16 * b)) } }
    else c) c

/-- VBANKPWR takes a written value (R68, R69): a field of 3 and bank 0 stay; a bank that is gated loses its registers, one that
leaves the gate is usable 64 core cycles after the write's issue. A bank that goes from gated to retention is not in the manual's table:
here its registers read zero and the same 64 cycles start (log entry 70). -/
def Ctx.setBanks (c : Ctx) (x : W64) (cyc : Nat) : Ctx :=
  [1, 2, 3].foldl (fun c b =>
    let new := field x (2 * b + 1) (2 * b)
    let old := field c.vbank (2 * b + 1) (2 * b)
    if new = 3 || new = old then c
    else
      let c1 := { c with vbank := setBit (setBit c.vbank (2 * b) (new % 2 = 1)) (2 * b + 1) (2 ≤ new) }
      if new = 2 then c1.loseGated
      else if old = 2 then { c1 with repower := SMap.set 0 c1.repower b (cyc + 64) }
      else c1) c

/-- A control register takes a value (R54, R67, R70, R112, R156, R188). -/
def State.setCsr (s : State) (c : CtxId) (n : Nat) (x : W64) (cyc : Nat) : State :=
  if n = 0x003 then s.onCtx c fun k => { k with prio := slice x 0 2 }
  else if n = 0x00C then (if x.getLsbD 0 then s.setStop c else s)
  else if n = 0x010 then s.onCtx c fun k => { k with fpstat := slice x 0 6 }
  else if n = 0x012 then s.onCtx c fun k => k.setBanks x cyc
  else if n = 0x020 then s.onCore c.core fun k => { k with cspart := x }
  else if 0x100 ≤ n && n ≤ 0x10F then
    s.onCtx c fun k => { k with regs := { k.regs with h := SMap.set 0 k.regs.h (n - 0x100) (slice x 0 16) } }
  else if n = 0x130 || n = 0x131 then
    s.onCtx c fun k => { k with regs := { k.regs with lc := SMap.set 0 k.regs.lc (n - 0x130) x } }
  else s

/-- The registers that the shadow holds (R194). -/
def csrShadowed (n : Nat) : Bool := (decide (0x100 ≤ n) && decide (n ≤ 0x10F)) || decide (n = 0x130) || decide (n = 0x131)

/-- CSR writes that govern from the tick that the context has reached take effect, in issue order (R71). -/
def State.govern (s : State) (c : CtxId) : State :=
  let r := (s.ctx c).regs
  let due := r.csrQ.filter fun p => decide (p.gov ≤ r.tick)
  (due.foldl (fun s p => s.setCsr c p.csr p.val p.cyc) s).onCtx c fun k =>
    { k with regs := { k.regs with csrQ := k.regs.csrQ.filter fun p => decide (k.regs.tick < p.gov) } }

/-! ### Rollback and suspension -/

/-- Results and tile results that are due, in the order of their due ticks, and at one tick in the order of R29, before the others: the order
in which they land when several ticks pass at once. -/
def RegSet.orderDue (r : RegSet) : RegSet :=
  { r with
    landing := sortBy (fun l => l.due.getD 0) (r.landing.filter fun l => l.isDue r.tick) ++ r.landing.filter fun l => !l.isDue r.tick
    pendTiles := sortBy PendTile.due (r.pendTiles.filter fun p => decide (p.due ≤ r.tick)) ++ r.pendTiles.filter fun p => decide (r.tick < p.due) }

/-- An entry that waits for an `awaitf` to return. -/
def Landing.awaits (l : Landing) : Bool := l.due.isNone && l.var.isNone

/-- The rollback of R35: the gate is emptied, registers, landing queue and program state come from the shadow, core-store writes
and CSR writes to registers outside the shadow stand (R194), and loads issued since the mark are forgotten. R36 and R263 do not say when a
core-store write performs whose tick had not come: here every one performs at once (log entry 87), or after what a fence has it follow. What the shadow's TICK has
reached has governed and landed, each at its own tick, when the context goes on; gated vector banks hold nothing (R69). A blocked `awaitf` of the
mark's own bundle returns nothing any more (R308; log entry 99). -/
def State.rollback (s : State) (c : CtxId) : State :=
  let s1 := s.coreWrites c true
  let pend := (s1.ctx c).regs.csrQ.filter fun p => !csrShadowed p.csr
  let s2 := pend.foldl (fun s p => s.setCsr c p.csr p.val p.cyc) s1
  let s3 := s2.onCtx c fun k =>
    { k with
      regs := { k.shadow.orderDue with
        landing := k.shadow.orderDue.landing.filter fun l => !l.awaits
        csrQ := k.shadow.csrQ.filter fun p => csrShadowed p.csr
        flagQ := (k.regs.flagQ.filter fun f => decide (f.due ≤ k.shadow.tick)) ++ k.shadow.flagQ }
      gate := []
      queue := k.queue.filter fun q => decide (q.seq < k.markSeq) || (match q.kind with
        | .store => true
        | _ => false)
      tileBusy := []
      gap := 0
      probed := false
      xfer := .none
      newRrb := none }
  (s3.govern c).onCtx c fun k => k.loseGated.landDue

/-- What tells when a context blocked, for the order of those that wait at one ring (R322). -/
def Ctx.blockKey (x : Ctx) (c : CtxId) : Nat := x.blockedAt * 4 + c.slot.toNat

/-- A context blocked on a `rels` leaves it to its ring, where it stands (R268, R308; log entry 99). -/
def State.oweRels (s : State) (c : CtxId) : State :=
  match (s.ctx c).st with
  | .blocked (.rels q) => s.onRing ((s.ctx c).ringId q) fun r => { r with owed := r.owed ++ [(c.core.toNat, (s.ctx c).blockKey c)] }
  | _ => s

/-- The context becomes Suspended with FAULTINFO set and a fault record in its address space's queue (R376, R377, R379), also from a wait at its mark,
which is over: it goes on past its barrier, whose arrival stands, or past its `tend`, and its `rels` is left to the ring (R302, R308; log entry 99).
Gap ticks that are still to run are dropped (log entries 71 and 115). -/
def State.suspend (s : State) (c : CtxId) (kind sub bundle resume : Nat) (w2 w3 : W64) (note : FaultNote) : State :=
  let q := (s.oweRels c).nextSeq (s.ctx c).asid
  let s1 := q.2.onCtx c fun k =>
    { k with st := .suspended, faultInfo := faultInfoWord kind sub bundle, note := note, gap := 0, xfer := .none, newRrb := none }
  let s2 := s1.faultRecord c (s1.recordWords c 1 kind sub bundle resume w2 w3 q.1)
  if kind = 14 then s2.tally 0x638 1 else if kind = 17 then s2.tally 0x668 1 else s2

/-- A precise fault at bundle `b` (R378): the bundle counts as issued with its S slot making no transfer, and none of its slots is
performed. REFRESH_LATE resumes at the faulting bundle itself. R183, R195 and R378 count the bundle as issued for the redirect list; whether it
counts for TICK too they do not say, and here TICK stays and the bundle's gap ticks are not consumed (log entry 71). -/
def State.precise (s : State) (c : CtxId) (k : Kind) (sub : Nat) (w2 w3 : W64) : State :=
  let r := (s.ctx c).regs
  let b := r.pc
  let again := decide (k = .refreshLate)
  let n := if again then (b, r.redirects) else nextIndex r.redirects b .none
  let s1 := s.suspend c k.code sub b n.1 w2 w3 ⟨b, r.redirects, !again, again⟩
  s1.onCtx c fun x => { x with regs := { x.regs with pc := n.1, redirects := n.2 } }

/-- A translation fault at bundle `b` (R35, R378): TICK and CHIPTIME of the record are those of the fault. -/
def State.translation (s : State) (c : CtxId) (b : Nat) (k : Kind) (sub : Nat) (w2 w3 : W64) : State :=
  let resume := (s.ctx c).shadow.pc
  (s.suspend c k.code sub b resume w2 w3 ⟨resume, (s.ctx c).shadow.redirects, false, false⟩).rollback c

/-! ### Places as sectors -/

/-- The stack, channel, bank and row of an HBM address (R384). -/
def hbmStack (a : Nat) : Nat := a / 2 ^ 36 % 16
def hbmChannel (a : Nat) : Nat := a / 2 ^ 31 % 32
def hbmRow (a : Nat) : Nat := a / 2 ^ 15 % 2 ^ 16
def hbmBank (a : Nat) : Nat := a / 2 ^ 11 % 16

/-- Whether an error stands in the sector of an HBM address. -/
def CellError.at_ (e : CellError) (a : Nat) : Bool :=
  decide (e.channel = hbmChannel a) && decide (e.bank = hbmBank a) && decide (e.row = hbmRow a) && decide (e.sector = a % 2048 / 32)

/-- Whether an error that ECC cannot correct stands in the sector of a device address: an access meets it as poison (R407; log entry 82). -/
def State.cellBad (s : State) (a : Nat) : Bool :=
  decide (a < cxlBase) && (s.stack (hbmStack a)).errors.any fun e => !e.correctable && e.at_ a

/-- The poison bit of a sector of device memory: the one that is stored, or that of its cells. -/
def State.devPoison (s : State) (a : Nat) : Bool := SMap.get false s.dev.poison (a / 32) || s.cellBad a

/-- A sector of device memory with what its cells have. -/
def State.devSector (s : State) (a : Nat) : Sector := { s.dev.sector a with poison := s.devPoison a }

/-- The sector of a place as it lies at its home: bytes, code and poison bit (R138, R139, R159, R400); a line of an enciphered frame as ciphertext. -/
def State.homeSector (s : State) : Place → Sector
  | .core c off => ((s.core (BitVec.ofNat 16 c)).seen (BitVec.ofNat 16 c)).sector (coreOff (BitVec.ofNat 16 c) off)
  | .deck g off => (s.group g).deck.sector off
  | .dev a => s.devSector a
  | .peer p a => (SMap.get Memory.empty s.peers p).sector a
  | .host base shadow off =>
    ⟨s.host.bytesAt (base + sectorOf off) 32, BitVec.ofNat 16 (ofBytes (s.host.bytesAt (shadow + off / 32 * 2) 2)), false⟩
  | .const pat code _ => ⟨(List.range 32).map fun i => slice pat (8 * (i % 8)) 8, code, false⟩

/-- A sector as it goes to a place. Far and host memory have no poison bit: a poisoned sector takes the complement of its code (R159), and one sent
to the host with a bad code takes it too (R400). -/
def Place.outgoing (pl : Place) (x : Sector) : Sector :=
  match pl with
  | .dev a => if a < cxlBase then x else x.shadowed
  | .peer _ a => if a < cxlBase then x else x.shadowed
  | .host _ _ _ => x.sentToHost
  | _ => x

/-- Lays down a sector at a place, as it is. A constant tile holds no frame. -/
def State.laySector (s : State) (pl : Place) (x : Sector) : State :=
  match pl with
  | .core c off => s.onCore (BitVec.ofNat 16 c) (Core.putSector (BitVec.ofNat 16 c) off x wholeMask)
  | .deck g off => s.onGroup g fun k => { k with deck := k.deck.setSector off x }
  | .dev a => { s with dev := s.dev.setSector a x }
  | .peer p a => { s with peers := SMap.set Memory.empty s.peers p ((SMap.get Memory.empty s.peers p).setSector a x) }
  | .host base shadow off =>
    { s with host := (s.host.putBytes (base + sectorOf off) (x.bytes.take 32)).putBytes (shadow + off / 32 * 2) (toBytes 2 x.code.toNat) }
  | .const _ _ _ => s

/-- Replaces the sector of a place. -/
def State.setHomeSector (s : State) (pl : Place) (x : Sector) : State := s.laySector pl (pl.outgoing x)

/-- The address that a place has for the cipher's tweak and for records (R143). -/
def Place.addr : Place → Nat
  | .core _ off => off
  | .deck _ off => off
  | .dev a => a
  | .peer _ a => a
  | .host b _ off => b + off
  | .const _ _ _ => 0

/-- The bytes of a location's sector through the port to its home, enciphered on the way out (`enc`) or deciphered on the way in under the location's
key pair (R143, R395). -/
def State.throughPort (s : State) (enc : Bool) (l : Loc) (bs : List Byte) : List Byte :=
  match l.key with
  | none => bs
  | some n => let k := SMap.get KeySlot.init s.keys n; xtsSector enc k.dataKey k.tweakKey l.place.addr bs

/-- The sector of a location as it arrives from its home. -/
def State.atHome (s : State) (l : Loc) : Sector :=
  let x := s.homeSector l.place
  { x with bytes := s.throughPort false l x.bytes }

/-- A faulty sector leaves for the host in a TLP with EP set (R161). -/
def State.sendPoisoned (s : State) (pl : Place) (faulty : Bool) (bs : List Byte) : State :=
  match pl with
  | .host base _ off => if faulty then s.emit (.hostTlp (base + sectorOf off) bs true) else s
  | _ => s

/-- Writes the sector of a location at its home: its code is that of the plaintext (R143). -/
def State.putHome (s : State) (l : Loc) (x : Sector) : State :=
  let y := l.place.outgoing x
  let bs := s.throughPort true l y.bytes
  (s.laySector l.place { y with bytes := bs }).sendPoisoned l.place x.faulty bs

/-- The place n bytes on. -/
def Place.plus : Place → Nat → Place
  | .core c off, n => .core c ((off + n) % 2 ^ 20)
  | .deck g off, n => .deck g (off + n)
  | .dev a, n => .dev (a + n)
  | .peer p a, n => .peer p (a + n)
  | .host b h off, n => .host b h (off + n)
  | .const p c off, n => .const p c (off + n)

/-- The byte of a place within its sector. -/
def Place.inSector : Place → Nat
  | .core _ off => off % 32
  | .deck _ off => off % 32
  | .dev a => a % 32
  | .peer _ a => a % 32
  | .host _ _ off => off % 32
  | .const _ _ off => off % 32

/-- The place of the 4 KiB frame that holds a place, with the device address that a record gives it. -/
def Place.frame : Place → Option (Place × Nat)
  | .dev a => some (.dev (a / 4096 * 4096), a / 4096 * 4096)
  | .peer p a => some (.peer p (a / 4096 * 4096), a / 4096 * 4096)
  | .host b h off => some (.host b h (off / 4096 * 4096), b + off / 4096 * 4096)
  | _ => none

/-! ### The error log (R401, R402) -/

/-- Whether the error log has a queue: a size from 4 to 16 (R402; log entry 34). -/
def ErrorLog.open_ (l : ErrorLog) : Bool := decide (4 ≤ field l.size 4 0) && decide (field l.size 4 0 ≤ 16)

/-- Whether the error log and its base lie in host memory, and where. -/
def ErrorLog.host (l : ErrorLog) : Bool := l.base.getLsbD 63
def ErrorLog.addr (l : ErrorLog) : Nat := field l.base 51 0

/-- Tries to write one error-log record with its notification. -/
def State.tryLog (s : State) (rec : List W64) : Option State :=
  let l := s.log
  if l.open_ then
    (s.queueRecord l.host l.addr (field l.size 4 0) l.produced rec).map fun s1 =>
      ({ s1 with log := { s1.log with produced := s1.log.produced + 1 } }).emit (.msix 1)
  else none

/-- The number of records held back is written to the log's head (R376). -/
def State.logHeld (s : State) : State := if s.log.open_ then s.queueHeld s.log.host s.log.addr s.log.held.length else s

/-- Writes an error-log record, or holds it behind those already held (R402). -/
def State.logRecord (s : State) (rec : List W64) : State :=
  match if s.log.held.isEmpty then s.tryLog rec else none with
  | some s1 => s1
  | none => ({ s with log := { s.log with held := s.log.held ++ [rec] } }).logHeld

/-- The words of an error-log record (R402). -/
def State.logWords (s : State) (cause : Nat) (retired : Bool) (st ch bank : Nat) (addr row poisoned asid : Nat) : List W64 :=
  [ BitVec.ofNat 64 (cause + (if retired then 2 ^ 8 else 0) + st * 2 ^ 16 + ch * 2 ^ 20 + bank * 2 ^ 25)
  , BitVec.ofNat 64 addr, BitVec.ofNat 64 (row + poisoned * 2 ^ 16), s.chiptime, BitVec.ofNat 64 asid, 0, 0, BitVec.ofNat 64 (s.log.seqNo % 2 ^ 32) ]

/-- The device address of a place in HBM. -/
def Place.hbm? : Place → Option Nat
  | .dev a => if a < cxlBase then some a else none
  | _ => none

/-- The number of a frame, by its home and its address there: 0 device, 1 host, 2 + p a peer package p. -/
def Place.frameKey (f : Place) (addr : Nat) : Nat :=
  addr / 4096 * 1024 + (match f with
    | .host _ _ _ => 1
    | .peer p _ => 2 + p
    | _ => 0)

/-- Retires the 4 KiB frame of a location (R401) and writes one record, unless the frame has been logged before. With `check` its sectors, as the
location's key pair deciphers them, are checked and the faulty ones take poison; without, the frame is one of HBM whose poison bits stand already. Stack,
channel, bank and row are those of the place itself: an HBM frame covers two banks of a row (R384, R402). -/
def State.retire (s : State) (l : Loc) (check : Bool) (cause asid : Nat) : State :=
  match l.place.frame with
  | none => s
  | some (f, addr) =>
    if SMap.get false s.log.retired (f.frameKey addr) then s
    else
      let at_ (i : Nat) : Loc := ⟨f.plus (32 * i), l.key⟩
      let bad := (List.range 128).filter fun i => if check then (s.atHome (at_ i)).faulty else s.devPoison (addr + 32 * i)
      let s1 := if check then bad.foldl (fun s i => s.putHome (at_ i) { s.atHome (at_ i) with poison := true }) s else s
      let z (n : Nat → Nat) := match l.place.hbm? with
        | some a => n a
        | none => 0
      let rec_ := s1.logWords cause true (z hbmStack) (z hbmChannel) (z hbmBank) addr (z hbmRow) bad.length asid
      let s2 := s1.logRecord rec_
      { (s2.tally 0x630 1) with log := { s2.log with seqNo := s2.log.seqNo + 1, retired := SMap.set false s2.log.retired (f.frameKey addr) true } }

/-! ### A lost context (R380, R381) -/

/-- The first chunk without a mark. -/
def firstUnmarked (m : SMap Bool) (total : Nat) : Nat := ((List.range total).find? fun i => !SMap.get false m i).getD total

/-- The number of chunks with a mark. -/
def countMarked (m : SMap Bool) (total : Nat) : Nat := ((List.range total).filter fun i => SMap.get false m i).length

/-- Words 1 to 3 of a progress entry: the chunks in all, the first without a mark, and the marks from there on (R380). -/
def markWords (m : SMap Bool) (total : Nat) : List W64 :=
  let f := firstUnmarked m total
  let bits := (List.range 128).foldl (fun x i => if SMap.get false m (f + i) then x + 2 ^ i else x) 0
  [BitVec.ofNat 64 (total + f * 2 ^ 32), BitVec.ofNat 64 bits, BitVec.ofNat 64 (bits / 2 ^ 64)]

/-- Whether an engine command was issued by a binding of a context. -/
def Cmd.of (k : Cmd) (c : CtxId) (bid : Nat) : Bool := decide (k.ctx = c) && decide (k.owner = bid)

/-- The progress entry of an engine command (R380). -/
def Cmd.progress (c : Cmd) : Option (List W64) :=
  let w0 := BitVec.ofNat 64 (c.op + c.ring * 2 ^ 8 + c.tag.toNat * 2 ^ 48)
  match c.job with
  | .copy j => some (w0 :: markWords j.marked j.chunks)
  | .fill _ _ total done _ _ => some [w0, BitVec.ofNat 64 (total + done * 2 ^ 32), 0, 0]
  | .coll j => some (w0 :: markWords j.marked j.total)
  | _ => none

/-- The number of a context in its address space's progress area (R380). -/
def progressIndex (c : CtxId) : Nat :=
  if isS c.core then 2048 + stackOf c.core * 64 + withinGroup c.core * 4 + c.slot.toNat
  else (if dieOf c.core then 1024 else 0) + field c.core 7 5 * 128 + withinGroup c.core * 4 + c.slot.toNat

/-- Halts the stream of a context and counts the loss in its launch (R357, R381): no further task is dispatched and queued tasks are removed. -/
def State.haltStream (s : State) (c : CtxId) : State :=
  let st := s.streamOf c
  let die := dieOf c.core
  let ids := ((s.lathe die).launches.filter fun l => decide (l.stream = st)).map (·.id)
  let s1 := s.onStream st fun k => { k with halted := true }
  let s2 := s1.onLathe die fun l =>
    { l with launches := l.launches.map fun k => if k.stream = st then { k with lost := k.lost + 1 } else k }
  { s2 with cores := s2.cores.filterMap fun e =>
      let k := { e.2 with tasks := e.2.tasks.filter fun t => !ids.contains t.launch }
      if k = Core.init then none else some (e.1, k) }

/-- The stores and `amo`s of a context before its access number n that its marks have released: they stand, and perform as soon as their places let
them (R35, R36; log entry 94). One behind a fence is a release for what comes before (R167). -/
def State.leave (s : State) (c : CtxId) (n : Nat) : State :=
  let x := s.ctx c
  { s with orphans := s.orphans ++ x.queue.filterMap fun q => match q.phase with
      | .walked l e =>
        if q.unwritten && decide (q.seq < n) then
          some ⟨c, x.bid, if x.fences.any fun f => decide (f.1 ≤ q.seq) then { q with order := .release } else q, l, e⟩
        else none
      | _ => none }

/-- Whether a binding of a context has left accesses before its access number n. -/
def State.hasLeft (s : State) (c : CtxId) (bid n : Nat) : Bool :=
  s.orphans.any fun o => decide (o.ctx = c) && decide (o.bid = bid) && decide (o.acc.seq < n)

/-- The core-store writes of a context that leaves its slot or is lost take effect, but for those that follow an access which it has left (R36, R167,
R381; log entry 94). -/
def State.leaveWrites (s : State) (c : CtxId) : State :=
  let x := s.ctx c
  let after (w : CoreWrite) : Nat := (((x.holders w).filter fun h => s.hasLeft c x.bid h.1).map (·.1)).foldl max 0
  s.onCore c.core fun k =>
    let k1 := (k.publish c.core fun w => w.of c.slot x.bid && decide (after w = 0)).settle c x.bid 0 true
    ({ k1 with writes := k1.writes.map fun w => if w.of c.slot x.bid then { w with after := after w } else w } : Core).hasten c.slot x.bid

/-- The number of the first access that no standing arrival of a context at a barrier follows: an arrival is a release, and stands through the loss of
its context (R302). -/
def State.arrivedAt (s : State) (c : CtxId) : Nat :=
  (s.barriers.flatMap fun e => e.2.flatMap fun g => (g.from_.filter fun a => decide (a.ctx = c) && decide (a.bid = (s.ctx c).bid)).map (·.seq)).foldl max 0

/-- A context that is lost after its snapshot is counted no longer by the PREEMPT in progress that took it (R381). -/
def State.uncount (s : State) (c : CtxId) : State :=
  s.onStream (s.streamOf c) fun k => { k with preempt := k.preempt.map fun r =>
    { r with counted := r.counted.filter fun e => decide (e ≠ (c, (s.ctx c).bid)) } }

/-- Whether a command takes an in-flight entry (R270): `dpset` and `ttinv` do not. -/
def Job.entered : Job → Bool
  | .dpset _ _ _ _ | .ttinv _ _ _ _ => false
  | _ => true

/-- The steps of R381: the gate and queues are discarded, but for what a standing arrival at a barrier releases (R302), the context's commands stop at their marks and leave, the context is Lost,
the frame is retired, one record is written, and the stream is halted. A collective of its own fails as the step ends (Machine/Collective.lean).
Core-store writes that wait for their tick stand. A context that is
Suspended already holds its record and writes no other (R376). -/
def State.lose (s : State) (c : CtxId) (reason : Nat) (bundle : Nat) (w3 : W64) (fr : Option Loc) : State :=
  let x := s.ctx c
  if x.st = .lost then s
  else
    let mine := s.cmds.filter fun k => k.of c x.bid && k.job.entered
    let entries := mine.filterMap Cmd.progress
    let left := s.cmds.filter fun (k : Cmd) => !k.of c x.bid || !k.job.entered || (match k.job with
      | .coll _ => true
      | _ => false)
    let s1 := ((s.leave c (s.arrivedAt c)).leaveWrites c).uncount c
    let s2 : State := { s1 with cmds := left.map fun (k : Cmd) => if k.of c x.bid && k.job.entered then { k with st := .stopped } else k }
    let s3 := s2.onCtx c fun k => { k with st := .lost, gate := [], queue := [], regs := RegSet.zero, shadow := RegSet.zero }
    let s4 := match fr with
      | some p => s3.retire p true 1 x.asid.toNat
      | none => s3
    let area := match s4.space x.asid with
      | some a => a.args.progress.toNat + 2048 * progressIndex c
      | none => 0
    let s5 := (List.range entries.length).foldl (fun s i => s.rawStoreWords false (area + 32 * i) (entries.getD i [])) s4
    if x.st = .suspended then s5.haltStream c
    else
      let q := s5.nextSeq x.asid
      let words := s.recordWords c 2 reason 0 bundle entries.length (BitVec.ofNat 64 area) w3 q.1
      (q.2.faultRecord c words).haltStream c

/-- Word 3 of a context-lost record (R380). -/
def lostWord (space addr : Nat) : W64 := BitVec.ofNat 64 (space + addr % 2 ^ 52 / 32 * 32)

/-- TAKING AN EXCEPTION at the bundle that a context issues: a precise fault, a translation fault with rollback, or a loss. -/
def State.raise (s : State) (c : CtxId) (e : Exn) : State :=
  let b := (s.ctx c).regs.pc
  match e with
  | .fault k sub w2 w3 => if k.rolls then s.translation c b k sub w2 w3 else s.precise c k sub w2 w3
  | .lost reason space addr fr => s.lose c reason b (lostWord space addr) fr

/-- THE RETURN (R366, R378): the context becomes Ready at its resume bundle, or with `retry`, where the fault allows it, at the faulting
bundle with the redirect list that stood before it. -/
def State.returnFrom (s : State) (c : CtxId) (retry : Bool) : State :=
  s.onCtx c fun x =>
    if (retry && x.note.retry) || x.note.always then
      { x with st := .ready, regs := { x.regs with pc := x.note.retryPc, redirects := x.note.retryRedirects } }
    else { x with st := .ready }

/-! ### Slot operations -/

/-- A slot operation: nothing when its guard is false (R87, R174); the exception of its checks, unless the bundle's checks have been
made (R91); else its effect. -/
def slotOp (run : Bool) (chk : State → Option Exn) (eff : State → State) (s : State) : Out :=
  if run then
    if s.checked then .next (eff s)
    else match chk s with
      | some e => .next (s.raise s.cur e)
      | none => .next (eff s)
  else .next s

/-- No check. -/
def noCheck (_ : State) : Option Exn := none

/-- The first exception of a list of checks. -/
def firstOf (l : List (Option Exn)) : Option Exn := l.findSome? id

/-- An exception when a condition holds. -/
def when (b : Bool) (e : Exn) : Option Exn := if b then some e else none

end Sys2Proof.Machine
end

