-- ==== Sys2Proof/Machine/Flags.lean ====
section
/-! DEFINITION. Machine/Flags.lean: conditions of the compares (R181, R210) and the poison tags of results (R204, R447). FPSTAT flags
are made by the roundings of Machine/Numbers.lean and land with their results (R113). -/

namespace Sys2Proof.Machine

/-- The scalar conditions of R181. -/
def scalarCond (code : Nat) (a y : W64) : Bool :=
  match code with
  | 0 => decide (a = y)
  | 1 => decide (a ≠ y)
  | 2 => decide (a.toInt < y.toInt)
  | 3 => decide (y.toInt ≤ a.toInt)
  | 4 => decide (a.toInt ≤ y.toInt)
  | 5 => decide (y.toInt < a.toInt)
  | 6 => decide (a.toNat < y.toNat)
  | 7 => decide (y.toNat ≤ a.toNat)
  | 8 => decide (a.toNat ≤ y.toNat)
  | 9 => decide (y.toNat < a.toNat)
  | 10 => decide (a &&& y ≠ 0)
  | _ => decide (a &&& y = 0)

/-- The vector conditions of R210 on exact values: a NaN makes every code false but `.ne` and `.un`. -/
def vectorCond (code : Nat) (a y : Val) : Bool :=
  let nan := a.isNan || y.isNan
  match code with
  | 0 => a.eq y
  | 1 => !a.eq y
  | 2 => !nan && a.lt y
  | 3 => !nan && !a.lt y
  | 4 => !nan && !y.lt a
  | 5 => !nan && y.lt a
  | 6 => nan
  | _ => !nan

/-- The POISON of R447 and R251: a tagged scalar register at a checked use, by slot code and logical register number. -/
def Ctx.tagged (c : Ctx) (slot : Nat) (n : BitVec 6) : Option Exn := when (c.sTag n) (Exn.tag slot n.toNat 0)

/-- The same for a vector register. -/
def Ctx.taggedV (c : Ctx) (slot : Nat) (n : BitVec 6) : Option Exn := when (c.vTag n) (Exn.tag slot n.toNat 1)

/-- The same for a mask register. -/
def Ctx.taggedM (c : Ctx) (slot : Nat) (n : BitVec 3) : Option Exn := when (c.mTag n) (Exn.tag slot n.toNat 2)

end Sys2Proof.Machine
end

