-- ==== Sys2Proof/Machine/Homes.lean ====
section
/-! DEFINITION. Machine/Homes.lean: tensors, tiles and homes: locating coordinates (R135 to R137), tile entries and their checks
(R138 to R144, R384 to R386, R394, R396, R398, R421), owner tags of core-store banks (R155 to R157), resident deck blocks (R150,
R446) and the sectors of a place as a reader or writer meets them (R143, R158 to R161, R395). -/

namespace Sys2Proof.Machine

/-! ### Who accesses -/

/-- The party of an access: a context, or the context that issued an engine command, with the binding it had then. -/
structure Who where
  ctx : CtxId
  asid : BitVec 11
  priv : Bool
  world : Bool
deriving DecidableEq, Repr

/-- A context as a party. -/
def State.who (s : State) (c : CtxId) : Who := let x := s.ctx c; ⟨c, x.asid, x.priv, x.world⟩

/-- The issuer of a command as a party. -/
def Cmd.who (c : Cmd) : Who := ⟨c.ctx, c.asid, c.priv, c.world⟩

/-! ### Tensor entries (R135, R136) -/

/-- Bits of a tensor format; none for a reserved code. -/
def fmtBits (code : Nat) : Option Nat :=
  match code with
  | 0 | 3 | 6 => some 32
  | 1 | 2 | 4 | 7 => some 16
  | 5 | 8 | 9 | 10 => some 8
  | 11 | 15 | 16 => some 64
  | 12 | 14 => some 4
  | 13 => some 6
  | _ => none

/-- A valid tensor entry: its rank, format with its bits, layout, tile bytes, tokens per block, extents, tile table and companion. -/
structure Tensor where
  rank : Nat
  fmt : Nat
  bits : Nat
  layout : Nat
  tile : Nat
  kvp : Nat
  d : List Nat
  ttbase : Nat
  tiles : Nat
  comp : Option Nat
deriving DecidableEq, Repr

/-- Whether a number is a power of two. -/
def isPow2 (n : Nat) : Bool := decide (n ≠ 0) && decide (2 ^ n.log2 = n)

/-- Reads an entry; none when it is not valid or breaks R135 or the rules of its layout (R137). -/
def Tensor.ofWords (ws : List W64) : Option Tensor :=
  let w (n : Nat) : W64 := ws.getD n 0
  let rank := field (w 0) 3 1
  let layout := field (w 0) 12 9
  let kvp := field (w 0) 31 16
  let ts := field (w 0) 14 13
  let tile := 4096 * 16 ^ ts * (if ts = 2 then 2 else 1)
  let d := [field (w 1) 31 0, field (w 1) 63 32, field (w 2) 31 0, field (w 2) 63 32, field (w 3) 31 0]
  match fmtBits (field (w 0) 8 4) with
  | none => none
  | some b =>
    let ext (k : Nat) : Nat := d.getD k 0
    let reservedOk := decide (field (w 0) 63 32 = 0) && !(w 0).getLsbD 15 && decide (field (w 3) 63 32 = 0) && decide (field (w 4) 63 52 = 0) &&
      decide (field (w 5) 63 32 = 0) && decide (field (w 6) 63 17 = 0) && decide (w 7 = 0) && decide (field (w 4) 51 0 % 16 = 0)
    let extentsOk := (List.range 5).all fun k => if k < rank then decide (1 ≤ ext k) else decide (ext k = 0)
    let layoutOk := match layout with
      | 0 => decide (kvp = 0)
      | 1 => decide (kvp = 0) && decide (2 ≤ rank) && decide (ext 0 % 64 = 0) && decide (ext 1 % 64 = 0)
      | 2 => isPow2 kvp && decide (kvp ≤ 32768) && decide (rank = 4) && decide (ext 3 ≤ 2) && decide (kvp * ext 2 * ext 0 * b = 8 * tile)
      | _ => false
    if (w 0).getLsbD 0 && decide (ts ≠ 3) && decide (1 ≤ rank) && decide (rank ≤ 5) && reservedOk && extentsOk && layoutOk then
      some ⟨rank, field (w 0) 8 4, b, layout, tile, kvp, d, field (w 4) 51 0, field (w 5) 31 0,
        if (w 6).getLsbD 16 then some (field (w 6) 15 0) else none⟩
    else none

/-- ROW order of coordinates under extents. -/
def rowOrder (d x : List Nat) : Nat :=
  let e (k : Nat) : Nat := d.getD k 0
  let c (k : Nat) : Nat := x.getD k 0
  c 0 + e 0 * (c 1 + e 1 * (c 2 + e 2 * (c 3 + e 3 * c 4)))

/-- The tile and offset of an element (R137); an error is the offending coordinate or tile. -/
def Tensor.locate (t : Tensor) (x : List Nat) : Res Nat (Nat × Nat) :=
  let e (k : Nat) : Nat := t.d.getD k 0
  let c (k : Nat) : Nat := x.getD k 0
  match (List.range 5).find? fun k => if k < t.rank then decide (e k ≤ c k) else decide (c k ≠ 0) with
  | some k => .error (c k)
  | none =>
    let r := match t.layout with
      | 0 => let b := rowOrder t.d x * t.bits / 8; (b / t.tile, b % t.tile)
      | 1 =>
        let blk := rowOrder [e 0 / 64, e 1 / 64, e 2, e 3, e 4] [c 0 / 64, c 1 / 64, c 2, c 3, c 4]
        let b := (4096 * blk + 64 * (c 1 % 64) + c 0 % 64) * t.bits / 8
        (b / t.tile, b % t.tile)
      | _ => (c 1 / t.kvp * e 3 + c 3, (((c 1 % t.kvp) * e 2 + c 2) * e 0 + c 0) * t.bits / 8)
    if t.tiles ≤ r.1 then .error r.1 else .ok r

/-! ### Table walks (R137, R138, R141, R386, R446) -/

/-- What a layout unit holds of an entry. -/
def State.cached (s : State) (asid : BitVec 11) (t : Nat) (tile : Option Nat) : Option (List W64) :=
  (s.cache.find? fun e => decide (e.asid = asid) && decide (e.tensor = t) && decide (e.tile = tile)).map (·.words)

/-- A layout unit keeps an entry that it has walked. -/
def State.keep (s : State) (e : CachedEntry) : State :=
  { s with cache := e :: s.cache.filter fun f => !(decide (f.asid = e.asid) && decide (f.tensor = e.tensor) && decide (f.tile = e.tile)) }

/-- A word of an address space's descriptor (R382); zero where none is installed. -/
def State.descWord (s : State) (asid : BitVec 11) (n : Nat) : Nat :=
  match s.space asid with
  | some a => (a.desc.getD n 0).toNat
  | none => 0

/-- The words of a tensor-table entry, cached or walked. -/
def State.tensorWords (s : State) (asid : BitVec 11) (t : Nat) : List W64 :=
  (s.cached asid t none).getD (s.rawWords false (s.descWord asid 0 + 64 * t) 8)

/-- The tensor entry of an index; none raises COORD (R137, R382). -/
def State.tensor (s : State) (asid : BitVec 11) (t : Nat) : Option Tensor :=
  if t < s.descWord asid 1 then Tensor.ofWords (s.tensorWords asid t) else none

/-- The words of a tile-table entry as memory holds them now (R141). -/
def State.freshTile (s : State) (x : Tensor) (n : Nat) : List W64 := s.rawWords false (x.ttbase + 16 * n) 2

/-- The words of a tile-table entry, cached or walked. -/
def State.tileWords (s : State) (asid : BitVec 11) (t : Nat) (x : Tensor) (n : Nat) : List W64 :=
  (s.cached asid t (some n)).getD (s.freshTile x n)

/-- Whether a stack is present (R384, R415). -/
def State.stackPresent (s : State) (n : Nat) : Bool := s.resmap.stackMask.getLsbD n

/-- Whether a far address lies below its port's capacity (R385). -/
def State.farOk (s : State) (a : Nat) : Bool :=
  let p := (a - cxlBase) / 2 ^ 42
  decide (cxlBase ≤ a) && decide (p < 2) && decide ((a - cxlBase) % 2 ^ 42 < SMap.get 0 s.farCap p)

/-- A 4 KiB frame in a sealed region (R421). -/
def State.sealedFrame (s : State) (frame : Nat) : Bool :=
  s.regions.any fun e => e.2.valid && e.2.world && decide (e.2.base.toNat ≤ frame) && decide (frame ≤ e.2.limit.toNat)

/-- The lease register of the channel of an HBM address. -/
def State.leaseOf (s : State) (a : Nat) : W64 := (s.channel (hbmStack a) (hbmChannel a)).lease

/-- Whether a handover runs on the channel of a place: accesses wait in their queues (R451). -/
def State.handover (s : State) : Place → Bool
  | .dev a => decide (a < cxlBase) && (s.channel (hbmStack a) (hbmChannel a)).handover.isSome
  | _ => false

/-- Whether the channel of a place is leased; while a handover runs the accesses wait and no lease governs (R398, R451). -/
def State.leasedNow (s : State) (pl : Place) : Bool :=
  match pl with
  | .dev a => decide (a < cxlBase) && !s.handover pl && (s.leaseOf a).getLsbD 0
  | _ => false

/-- Whether the channel of a place is leased, or will be when the handover that runs on it ends. A command's probe, which reads no memory there, is
checked against this value: the accesses that it lets go ahead come after the handover (R271, R451; log entry 88). -/
def State.leaseComes (s : State) (pl : Place) : Bool :=
  match pl with
  | .dev a => decide (a < cxlBase) &&
      (((s.channel (hbmStack a) (hbmChannel a)).handover.getD (s.leaseOf a)).getLsbD 0)
  | _ => false

/-- What an access does (R140). -/
inductive Need where
  | read | write | both
deriving DecidableEq, Repr

/-- Whether an entry is read as present (R138, R384, R385, R394). -/
def State.tilePresent (s : State) (tile : Nat) (w0 w1 : W64) (hsize : Nat) : Bool :=
  let frame := field w0 63 28
  let home := field w0 2 1
  let const := w0.getLsbD 6
  w0.getLsbD 0 && decide (field w0 27 21 = 0) && !w0.getLsbD 9 &&
    (if const then decide (field w0 63 44 = 0) else
      decide (frame % (tile / 4096) = 0) &&
      (if home = 2 then decide (field w1 63 8 = 0) else decide (w1 = 0)) &&
      (match home with
        | 0 => decide (frame * 4096 < cxlBase) && s.stackPresent (hbmStack (frame * 4096))
        | 1 => s.farOk (frame * 4096)
        | 3 => decide (frame * 4096 < hsize)
        | _ => true)) &&
    (!w0.getLsbD 19 || (SMap.get KeySlot.init s.keys (field w0 18 10)).valid)

/-- The place of byte `off` of a tile. -/
def State.tilePlace (s : State) (asid : BitVec 11) (w0 w1 : W64) (off : Nat) : Place :=
  let a := field w0 63 28 * 4096 + off
  if w0.getLsbD 6 then .const w1 (slice w0 28 16) off
  else match field w0 2 1 with
    | 2 => .peer (field w1 7 0) a
    | 3 => .host (s.descWord asid 8) (s.descWord asid 10) a
    | _ => .dev a

/-- Whether a tile counts as sealed (R140 check 3, R394, R421): by its world bit, its key slot, or a region over the frames of the
bytes from `off`. -/
def State.tileSealed (s : State) (w0 : W64) (off len : Nat) : Bool :=
  let f := field w0 63 28
  w0.getLsbD 5 || (w0.getLsbD 19 && decide (256 ≤ field w0 18 10)) ||
    (!w0.getLsbD 6 && decide (field w0 2 1 ≤ 1) &&
      (List.range ((off + len - 1) / 4096 - off / 4096 + 1)).any fun i => s.sealedFrame (f + off / 4096 + i))

/-- Whether the home of a tile answers to an opcode's space (R140 check 5). -/
def homeFits (sp : QSpace) (home : Nat) : Bool :=
  match sp with
  | .m => decide (home = 0)
  | .f => decide (home = 1) || decide (home = 2)
  | .h => decide (home = 3)
  | _ => false

/-- Checks 2 to 6 of R140 on one entry, for `len` bytes from `off`; engines name no space. -/
def State.tileCheck (s : State) (w : Who) (x : Tensor) (ws : List W64) (off len : Nat) (sp : Option QSpace) (need : Need) : Res Sub Loc :=
  let w0 := ws.getD 0 0
  let w1 := ws.getD 1 0
  let home := field w0 2 1
  let const := w0.getLsbD 6
  let a := field w0 63 28 * 4096 + off
  let rdBad := !w0.getLsbD 3
  let wrBad := !w0.getLsbD 4 || const || w0.getLsbD 7
  if !s.tilePresent x.tile w0 w1 (s.descWord w.asid 9) then .error .notPresent
  else if !w.world && s.tileSealed w0 off len then .error .world
  else if w0.getLsbD 8 || (!const && decide (home = 0) && if sp.isSome then s.leasedNow (.dev a) else s.leaseComes (.dev a)) then .error .leased
  else if !(match sp with
      | some q => homeFits q home
      | none => true) then .error .notPresent
  else if (match need with
      | .read => rdBad
      | .write => wrBad
      | .both => rdBad || wrBad) then .error .permission
  else .ok ⟨s.tilePlace w.asid w0 w1 off, if w0.getLsbD 19 && !const then some (field w0 18 10) else none⟩

/-- The translation of an access within one tile, with the re-walk of R141; the words that stand. -/
def State.translate (s : State) (w : Who) (t : Nat) (x : Tensor) (n off len : Nat) (sp : Option QSpace) (need : Need) :
    Res Sub (Loc × List W64) :=
  let ws := s.tileWords w.asid t x n
  match s.tileCheck w x ws off len sp need with
  | .ok l => .ok (l, ws)
  | .error e =>
    if e = .notPresent || e = .permission then
      let fresh := s.freshTile x n
      match s.tileCheck w x fresh off len sp need with
      | .ok l => .ok (l, fresh)
      | .error _ => .error e
    else .error e

/-! ### Owner tags (R155 to R157) -/

/-- The bank of a core-store offset. -/
def bankOf (off : Nat) : Nat := off % 2 ^ 20 / 2 ^ 14

/-- Whether a bank matches a party. -/
def State.bankMatches (s : State) (w : Who) (core : BitVec 16) (bank : Nat) : Bool :=
  let k := s.core core
  let o := SMap.get Owner.none k.owners bank
  w.priv || (o.valid && decide (o.asid = w.asid) && (decide (o.slot = w.ctx.slot) || k.cspart.getLsbD bank))

/-- The first bank of n bytes from an offset that does not match. -/
def State.badBank (s : State) (w : Who) (core : BitVec 16) (off n : Nat) : Option Nat :=
  ((List.range ((off % 2 ^ 14 + n - 1) / 2 ^ 14 + 1)).map fun i => (bankOf off + i) % 64).find?
    fun b => !s.bankMatches w core b

/-- XLATE(owner) of a core-store access by its slot code (R377). -/
def State.ownerFault (s : State) (w : Who) (core : BitVec 16) (slot off n : Nat) : Option Exn :=
  (s.badBank w core off n).map fun b => Exn.xlate .owner 0 0 slot b

/-! ### Deck blocks (R150, R151) -/

/-- The clusters of a die. -/
def clustersOf (die : Bool) : List Nat := (List.range 8).map fun i => (if die then 8 else 0) + i

/-- Whether a block holds a device address. -/
def DeckBlock.holds (b : DeckBlock) (a : Nat) : Bool := decide (b.addr ≤ a) && decide (a < b.addr + 128 * b.count)

/-- The resident block of a die that holds a device address, with its cluster. -/
def State.blockAt (s : State) (die : Bool) (a : Nat) : Option (Nat × DeckBlock) :=
  (clustersOf die).findSome? fun g => ((s.group g).blocks.find? (·.holds a)).map fun b => (g, b)

/-- Applies a function to the block of an allocation order in a cluster. -/
def State.onBlock (s : State) (g order : Nat) (f : DeckBlock → DeckBlock) : State :=
  s.onGroup g fun k => { k with blocks := k.blocks.map fun b => if b.order = order then f b else b }

/-- The sector that an access of a die reads: from the resident block, or at home. -/
def State.readSector (s : State) (die : Bool) (l : Loc) : Sector :=
  match l.place with
  | .dev a => match s.blockAt die a with
    | some (_, b) => b.data.sector a
    | none => s.atHome l
  | _ => s.atHome l

/-- The sector that an access of a die writes, and the bits of it that it gives a value; a write to a block marks its line dirty. -/
def State.writeSector (s : State) (die : Bool) (l : Loc) (x : Sector) (mask : BitVec 256) : State :=
  match l.place with
  | .core c off => s.onCore (BitVec.ofNat 16 c) (Core.putSector (BitVec.ofNat 16 c) off x mask)
  | .dev a => match s.blockAt die a with
    | some (g, b) =>
      let n := (a - b.addr) / 128
      s.onBlock g b.order fun b => { b with data := b.data.setSector a x, dirty := if b.dirty.contains n then b.dirty else b.dirty ++ [n] }
    | none => s.putHome l x
  | _ => s.putHome l x

/-! ### Accesses of a location -/

/-- The location n bytes on. -/
def Loc.plus (l : Loc) (n : Nat) : Loc := ⟨l.place.plus n, l.key⟩

/-- The space code and address of a sector in a context-lost record (R380); `viaK` for a core store reached through k, which names
the cluster-store address. -/
def Place.record (viaK : Bool) : Place → Nat × Nat
  | .core c off =>
    if viaK then (1, withinGroup (BitVec.ofNat 16 c) * 2 ^ 20 + off) else (0, off)
  | .deck _ off => (2, off)
  | .dev a => (if a < cxlBase then 3 else 4, a)
  | .peer _ a => (4, a)
  | .host b _ off => (5, b + off)
  | .const _ _ _ => (7, 0)

/-- The bytes of n bytes from a location, and the first faulty sector among those that supply a byte wanted: its fault (R161),
space code and address. -/
def State.loadBytes (s : State) (die viaK : Bool) (l : Loc) (n : Nat) (wanted : Nat → Bool) : List Byte × Option (Nat × Nat × Nat) :=
  let i0 := l.place.inSector
  let nsec := (i0 + n + 31) / 32
  let secs := (List.range nsec).map fun k => s.readSector die (l.plus (32 * k - (if k = 0 then 0 else i0)))
  let bytes := ((secs.flatMap (·.bytes)).drop i0).take n
  let bad := (List.range nsec).findSome? fun k =>
    if (List.range n).any fun j => decide ((i0 + j) / 32 = k) && wanted j then
      ((secs.getD k ⟨[], 0, false⟩).fault).map fun f =>
        let r := (l.plus (32 * k - (if k = 0 then 0 else i0))).place.record viaK
        (f, r.1, r.2 / 32 * 32)
    else none
  (bytes, bad)

/-- Writes bytes from a location: whole aligned sectors in a store of width v generate codes, a narrower store merges (R253). -/
def State.storeBytes (s : State) (die : Bool) (l : Loc) (bs : List Byte) : State :=
  let i0 := l.place.inSector
  if i0 = 0 && bs.length % 32 = 0 then
    (List.range (bs.length / 32)).foldl (fun s k => s.writeSector die (l.plus (32 * k)) (Sector.good ((bs.drop (32 * k)).take 32)) wholeMask) s
  else s.writeSector die l ((s.readSector die l).merge i0 bs) (bytesMask i0 bs.length)

/-! ### What a chunk of a copy writes to a sector (R160, R276) -/

/-- How a unit reads sectors: an engine of a die through the die's blocks (`State.readSector`), the Dovetail at their homes (`State.atHome`). -/
abbrev View := Loc → Sector

/-- A byte with g bits from sh on replaced. -/
def putUnit (b : Byte) (g sh v : Nat) : Byte :=
  BitVec.ofNat 8 (b.toNat % 2 ^ sh + v % 2 ^ g * 2 ^ sh + b.toNat / 2 ^ (sh + g) * 2 ^ (sh + g))

/-- The bytes of a sector after units of g bits, in slice order: where an S-core's undecoded offset bit puts two elements of one chunk at one byte (R128), the
later one stands (log entry 110). -/
def PendWrite.over (w : PendWrite) (g : Nat) (old : List Byte) : List Byte :=
  w.units.foldl (fun bs p => bs.set p.1 (putUnit (bs.getD p.1 0) g p.2.1 p.2.2)) old

/-- The sector that is written: carried, or with a new code; a unit that does not compute, or fills only a part, checks the old sector (R160). -/
def View.pendSector (v : View) (computing : Bool) (g : Nat) (w : PendWrite) : Sector :=
  match w.carry with
  | some x => x
  | none =>
    let old := v w.loc
    let bs := w.over g old.bytes
    let oldBad := !(computing && decide (w.units.length * g = 256)) && old.faulty
    ⟨bs, grain bs, w.bad || oldBad⟩

def State.pendSector (s : State) (die computing : Bool) (g : Nat) (w : PendWrite) : Sector := View.pendSector (s.readSector die) computing g w

/-- The bits of a sector that a pending write gives a value: those of its units, or all where it carries. -/
def PendWrite.mask (w : PendWrite) (g : Nat) : BitVec 256 :=
  if w.carry.isSome then wholeMask
  else BitVec.ofNat 256 (w.units.foldl (fun x p => x ||| (2 ^ g - 1) * 2 ^ (8 * p.1 + p.2.1)) 0)

end Sys2Proof.Machine
end

