-- ==== Sys2Proof/Machine/Operands.lean ====
section
/-! DEFINITION. Machine/Operands.lean: the operand forms of the slots: immediates (R176), scalar results of S.R and S.I operations,
predicates (R182), branch targets (R82), elements of vectors under a mask (R62, R201, R202). -/

namespace Sys2Proof.Machine

/-- The immediate x of S.I: imm32 sign-extended (R176). -/
def immX (imm : BitVec 32) : W64 := imm.signExtend 64

/-- A scalar result of latency L, with the tags of its sources (R174, R447). -/
def scalarOp (g : Guard) (lat : Nat) (d : BitVec 6) (val : Ctx → W64) (tag : Ctx → Bool) (s : State) : Out :=
  slotOp (s.me.guard g) noCheck (fun s => s.onMe fun c => c.landS lat d (val c) (tag c)) s

/-- `op d, a, b` (R178). -/
def opRR (lat : Nat) (f : W64 → W64 → W64) (o : SRR) (s : State) : Out :=
  scalarOp o.g lat o.d (fun c => f (c.s o.a) (c.s o.b)) (fun c => c.sTag o.a || c.sTag o.b) s

/-- `op d, a, imm` (R178). -/
def opRI (lat : Nat) (f : W64 → W64 → W64) (o : SRI) (s : State) : Out :=
  scalarOp o.g lat o.d (fun c => f (c.s o.a) (immX o.imm)) (fun c => c.sTag o.a) s

/-- A shift by s(b)[5:0] (R178). -/
def opShift (f : W64 → Nat → W64) (o : SRR) (s : State) : Out := opRR 1 (fun a b => f a (b.toNat % 64)) o s

/-- `op d, a` (R179). -/
def opUn (f : W64 → W64) (o : SR) (s : State) : Out :=
  scalarOp o.g 1 o.d (fun c => f (c.s o.a)) (fun c => c.sTag o.a) s

/-- A predicate result of latency 1 from predicates (R182). -/
def predOp (g : Guard) (d : BitVec 4) (val : Ctx → Bool) (s : State) : Out :=
  slotOp (s.me.guard g) noCheck (fun s => s.onMe fun c => c.landP 1 d (val c)) s

/-- A predicate operation of two sources with negations (R182). -/
def opPP (f : Bool → Bool → Bool) (o : SPP) (s : State) : Out :=
  predOp o.g o.d (fun c => f (c.p o.a ^^ o.na) (c.p o.b ^^ o.nb)) s

/-- A branch target (R82, R184): b + signed(displacement), in 64 bits: one below 0 wraps (log entry 107). -/
def target (b : Nat) (disp : BitVec 32) : Nat := (((b : Int) + disp.toInt) % (2 ^ 64 : Nat)).toNat

/-- The S slot makes a delayed transfer (R183). -/
def Ctx.jump (c : Ctx) (t : Nat) : Ctx := { c with xfer := .delayed t }

/-! ### Vector elements -/

/-- Element e of a register, of b bits (R201). -/
def elem (x : V1024) (b e : Nat) : Nat := x.toNat / 2 ^ (b * e) % 2 ^ b

/-- Whether a mask enables element e of b bits (R62). -/
def enabled (m : Mask) (b e : Nat) : Bool := m.getLsbD (e * (b / 8))

/-- The byte lanes of the elements of b bits in a list. -/
def lanesOf (b : Nat) (es : List Nat) : Mask :=
  es.foldl (fun m e => m ||| (BitVec.ofNat 128 (2 ^ (b / 8) - 1) <<< (e * (b / 8)))) 0

/-- A register with the given elements of b bits, zeros elsewhere. -/
def gatherElems (b : Nat) (xs : List (Nat × Nat)) : V1024 :=
  xs.foldl (fun v x => v ||| (BitVec.ofNat 1024 (x.2 % 2 ^ b) <<< (b * x.1))) 0

/-- A vector result: elements of b bits with their values and flags. -/
structure VRes where
  elems : List (Nat × Nat)
  fl : Flags
deriving DecidableEq, Repr

/-- A result that computes every element from a list. -/
def vmap (es : List Nat) (f : Nat → Flagged Nat) : VRes :=
  es.foldr (fun e r => let x := f e; ⟨(e, x.val) :: r.elems, x.fl ||| r.fl⟩) ⟨[], 0⟩

/-- The enabled elements of an operation (R202). -/
def enabledElems (o : VOp) (c : Ctx) : List Nat := (List.range o.ty.count).filter fun e => enabled (c.m o.m) o.ty.bits e

/-- A vector result lands with its flags and tags (R113, R202 to R204). -/
def Ctx.landRes (c : Ctx) (lat : Nat) (vd : BitVec 6) (b : Nat) (r : VRes) (tag : Bool) : Ctx :=
  (c.landV lat vd (gatherElems b r.elems) (lanesOf b (r.elems.map (·.1))) tag).flag lat r.fl

end Sys2Proof.Machine
end

