-- ==== Sys2Proof/Machine/Scalar.lean ====
section
/-! DEFINITION. Machine/Scalar.lean: the S slot (R174 to R199), but for its supervisor operations (Machine/Supervisor.lean). -/

namespace Sys2Proof.Machine

/-! ### Integer arithmetic and logic (R178) -/

/-- floor(signed(a) x signed(y) / 2^64). -/
def mulHigh (a y : W64) : W64 := BitVec.ofInt 64 (a.toInt * y.toInt / 2 ^ 64)

/-- floor(unsigned(a) x unsigned(y) / 2^64). -/
def mulHighU (a y : W64) : W64 := BitVec.ofNat 64 (a.toNat * y.toNat / 2 ^ 64)

def minS (a y : W64) : W64 := if a.toInt ≤ y.toInt then a else y
def maxS (a y : W64) : W64 := if y.toInt ≤ a.toInt then a else y
def minU (a y : W64) : W64 := if a.toNat ≤ y.toNat then a else y
def maxU (a y : W64) : W64 := if y.toNat ≤ a.toNat then a else y

/-- a rotated left by n (R178). -/
def rotL (a : W64) (n : Nat) : W64 := if n = 0 then a else (a <<< n) ||| (a >>> (64 - n))

def execAdd (o : SRR) (s : State) : Out := opRR 1 (· + ·) o s
def execAddImm (o : SRI) (s : State) : Out := opRI 1 (· + ·) o s
def execSub (o : SRR) (s : State) : Out := opRR 1 (· - ·) o s
def execSubImm (o : SRI) (s : State) : Out := opRI 1 (· - ·) o s
def execMul (o : SRR) (s : State) : Out := opRR 3 (· * ·) o s
def execMulImm (o : SRI) (s : State) : Out := opRI 3 (· * ·) o s
def execMulh (o : SRR) (s : State) : Out := opRR 3 mulHigh o s
def execMulhImm (o : SRI) (s : State) : Out := opRI 3 mulHigh o s
def execMulhu (o : SRR) (s : State) : Out := opRR 3 mulHighU o s
def execMulhuImm (o : SRI) (s : State) : Out := opRI 3 mulHighU o s
def execAnd (o : SRR) (s : State) : Out := opRR 1 (· &&& ·) o s
def execAndImm (o : SRI) (s : State) : Out := opRI 1 (· &&& ·) o s
def execOr (o : SRR) (s : State) : Out := opRR 1 (· ||| ·) o s
def execOrImm (o : SRI) (s : State) : Out := opRI 1 (· ||| ·) o s
def execXor (o : SRR) (s : State) : Out := opRR 1 (· ^^^ ·) o s
def execXorImm (o : SRI) (s : State) : Out := opRI 1 (· ^^^ ·) o s
def execAndn (o : SRR) (s : State) : Out := opRR 1 (fun a y => a &&& ~~~y) o s
def execAndnImm (o : SRI) (s : State) : Out := opRI 1 (fun a y => a &&& ~~~y) o s
def execShl (o : SRR) (s : State) : Out := opShift (fun a n => a <<< n) o s
def execShlImm (o : SR) (n : BitVec 6) (s : State) : Out := opUn (fun a => a <<< n.toNat) o s
def execShr (o : SRR) (s : State) : Out := opShift (fun a n => a >>> n) o s
def execShrImm (o : SR) (n : BitVec 6) (s : State) : Out := opUn (fun a => a >>> n.toNat) o s
def execSar (o : SRR) (s : State) : Out := opShift (fun a n => a.sshiftRight n) o s
def execSarImm (o : SR) (n : BitVec 6) (s : State) : Out := opUn (fun a => a.sshiftRight n.toNat) o s
def execRot (o : SRR) (s : State) : Out := opShift rotL o s
def execRotImm (o : SR) (n : BitVec 6) (s : State) : Out := opUn (fun a => rotL a n.toNat) o s
def execMin (o : SRR) (s : State) : Out := opRR 1 minS o s
def execMinImm (o : SRI) (s : State) : Out := opRI 1 minS o s
def execMax (o : SRR) (s : State) : Out := opRR 1 maxS o s
def execMaxImm (o : SRI) (s : State) : Out := opRI 1 maxS o s
def execMinu (o : SRR) (s : State) : Out := opRR 1 minU o s
def execMinuImm (o : SRI) (s : State) : Out := opRI 1 minU o s
def execMaxu (o : SRR) (s : State) : Out := opRR 1 maxU o s
def execMaxuImm (o : SRI) (s : State) : Out := opRI 1 maxU o s

/-! ### Bit-field, count and unary operations (R179) -/

/-- Leading zero bits. -/
def countLead (a : W64) : W64 := if a = 0 then 64 else BitVec.ofNat 64 (63 - a.toNat.log2)

/-- Trailing zero bits. -/
def countTrail (a : W64) : W64 := BitVec.ofNat 64 (((List.range 64).find? fun i => a.getLsbD i).getD 64)

/-- Set bits. -/
def countSet (a : W64) : W64 := BitVec.ofNat 64 ((List.range 64).filter fun i => a.getLsbD i).length

/-- The low n bits, zero-extended. -/
def lowZ (a : W64) (n : Nat) : W64 := BitVec.ofNat 64 (a.toNat % 2 ^ n)

/-- The low n bits, sign-extended from bit n - 1. -/
def lowS (a : W64) (n : Nat) : W64 :=
  if a.getLsbD (n - 1) then lowZ a n ||| (BitVec.allOnes 64 <<< n) else lowZ a n

/-- s(b) with bits [pos + len - 1 : pos] replaced by the low bits of s(a). -/
def insertField (a b : W64) (pos len : Nat) : W64 :=
  let m := lowZ (BitVec.allOnes 64) len <<< pos
  (b &&& ~~~m) ||| ((a <<< pos) &&& m)

def execClz (o : SR) (s : State) : Out := opUn countLead o s
def execCtz (o : SR) (s : State) : Out := opUn countTrail o s
def execPopc (o : SR) (s : State) : Out := opUn countSet o s
def execBext (o : SR) (sgn : Bool) (pos len1 : BitVec 6) (s : State) : Out :=
  opUn (fun a => if sgn then lowS (a >>> pos.toNat) (len1.toNat + 1) else lowZ (a >>> pos.toNat) (len1.toNat + 1)) o s
def execBins (o : SRR) (pos len1 : BitVec 6) (s : State) : Out :=
  opRR 1 (fun a b => insertField a b pos.toNat (len1.toNat + 1)) o s
def execSext (o : SR) (n1 : BitVec 6) (s : State) : Out := opUn (fun a => lowS a (n1.toNat + 1)) o s
def execZext (o : SR) (n1 : BitVec 6) (s : State) : Out := opUn (fun a => lowZ a (n1.toNat + 1)) o s
def execAbs (o : SR) (s : State) : Out := opUn (fun a => if a.getLsbD 63 then -a else a) o s

/-! ### Moves and constants (R180) -/

def execSel (o : SRR) (neg : Bool) (p : BitVec 4) (s : State) : Out :=
  scalarOp o.g 1 o.d (fun c => if c.p p ^^ neg then c.s o.a else c.s o.b) (fun c => c.sTag o.a || c.sTag o.b) s
def execMov (o : SR) (s : State) : Out := opUn id o s
def execLi (g : Guard) (d : BitVec 6) (imm : BitVec 32) (s : State) : Out := scalarOp g 1 d (fun _ => immX imm) (fun _ => false) s
def execLih (o : SRI) (s : State) : Out :=
  scalarOp o.g 1 o.d (fun c => (o.imm.setWidth 64 <<< 32) ||| lowZ (c.s o.a) 32) (fun c => c.sTag o.a) s

/-! ### Compare and predicate logic (R181, R182) -/

/-- A compare: a tagged source raises POISON (R447). -/
def compareOp (g : Guard) (d : BitVec 4) (cond : BitVec 4) (a : BitVec 6) (b : Option (BitVec 6)) (y : Ctx → W64) (s : State) : Out :=
  slotOp (s.me.guard g) (fun s => firstOf [s.me.tagged 1 a, b.bind fun b => s.me.tagged 1 b])
    (fun s => s.onMe fun c => c.landP 1 d (scalarCond cond.toNat (c.s a) (y c))) s

def execCmp (g : Guard) (d : BitVec 4) (a b : BitVec 6) (cond : BitVec 4) (s : State) : Out :=
  compareOp g d cond a (some b) (fun c => c.s b) s
def execCmpImm (g : Guard) (d : BitVec 4) (a : BitVec 6) (imm : BitVec 32) (cond : BitVec 4) (s : State) : Out :=
  compareOp g d cond a none (fun _ => immX imm) s
def execPand (o : SPP) (s : State) : Out := opPP (fun a b => a && b) o s
def execPor (o : SPP) (s : State) : Out := opPP (fun a b => a || b) o s
def execPxor (o : SPP) (s : State) : Out := opPP (fun a b => a ^^ b) o s
def execPnot (g : Guard) (d a : BitVec 4) (s : State) : Out := predOp g d (fun c => !c.p a) s
def execPmov (g : Guard) (d a : BitVec 4) (s : State) : Out := predOp g d (fun c => c.p a) s
def execPset (g : Guard) (d : BitVec 4) (v : Bool) (s : State) : Out := predOp g d (fun _ => v) s

/-! ### Control transfer (R183 to R188): the transfer acts at the bundle's end -/

def execBr (g : Guard) (c : BitVec 4) (n : Bool) (disp : BitVec 32) (s : State) : Out :=
  slotOp (s.me.guard g && (s.me.p c ^^ n)) noCheck (fun s => s.onMe fun x => x.jump (target x.regs.pc disp)) s
def execJmp (g : Guard) (disp : BitVec 32) (s : State) : Out :=
  slotOp (s.me.guard g) noCheck (fun s => s.onMe fun x => x.jump (target x.regs.pc disp)) s
def execCall (g : Guard) (a : BitVec 6) (disp : BitVec 32) (s : State) : Out :=
  slotOp (s.me.guard g) noCheck
    (fun s => s.onMe fun x => (x.landS 1 a (BitVec.ofNat 64 (x.regs.pc + 4)) false).jump (target x.regs.pc disp)) s
def execRet (g : Guard) (a : BitVec 6) (s : State) : Out :=
  slotOp (s.me.guard g) (fun s => s.me.tagged 1 a) (fun s => s.onMe fun x => x.jump (x.s a).toNat) s
def execJr (o : SR) (s : State) : Out :=
  slotOp (s.me.guard o.g) (fun s => s.me.tagged 1 o.a)
    (fun s => s.onMe fun x => (x.landS 1 o.d (BitVec.ofNat 64 (x.regs.pc + 4)) false).jump (x.s o.a).toNat) s
def execBsw (g : Guard) (a : BitVec 6) (n1 : BitVec 6) (disp : BitVec 32) (s : State) : Out :=
  slotOp (s.me.guard g) (fun s => s.me.tagged 1 a)
    (fun s => s.onMe fun x =>
      let n := n1.toNat + 1
      let i := (x.s a).toNat
      x.jump ((target x.regs.pc disp + (if i < n then i else n)) % 2 ^ 64)) s
def execChk (g : Guard) (file : Bool) (a : BitVec 6) (disp : BitVec 32) (s : State) : Out :=
  slotOp (s.me.guard g && (if file then s.me.vTag a else s.me.sTag a)) noCheck
    (fun s => s.onMe fun x => x.jump (target x.regs.pc disp)) s
/-- `loop` (R188). A `csrw` to the same counter that comes to govern at the same tick stands in place of the decrement (log entry 102). -/
def execLoop (g : Guard) (lc1 : Bool) (disp : BitVec 32) (s : State) : Out :=
  let n := if lc1 then 1 else 0
  slotOp (s.me.guard g && decide (SMap.get 0 s.me.regs.lc n ≠ 0)) noCheck
    (fun s => s.onMe fun x =>
      { x with
        regs := { x.regs with lc := SMap.set 0 x.regs.lc n (SMap.get 0 x.regs.lc n - 1) }
        xfer := .loopTo (target x.regs.pc disp) }) s

/-! ### Address arithmetic (R189) -/

/-- `cinc`: the bits below k of a + y, the others of a. -/
def ringAdd (k : Nat) (a y : W64) : W64 :=
  let m := lowZ (BitVec.allOnes 64) k
  (a &&& ~~~m) ||| ((a + y) &&& m)

def execLea (o : SRR) (sh : BitVec 3) (s : State) : Out := opRR 1 (fun a b => a + (b <<< sh.toNat)) o s
def execLeaImm (o : SRI) (s : State) : Out := opRI 1 (· + ·) o s
def execMadd (o : SRR) (s : State) : Out :=
  scalarOp o.g 3 o.d (fun c => c.s o.d + c.s o.a * c.s o.b) (fun c => c.sTag o.d || c.sTag o.a || c.sTag o.b) s
def execMaddImm (o : SRI) (s : State) : Out :=
  scalarOp o.g 3 o.d (fun c => c.s o.d + c.s o.a * immX o.imm) (fun c => c.sTag o.d || c.sTag o.a) s
def execCinc (o : SRR) (k : BitVec 6) (s : State) : Out := opRR 1 (ringAdd k.toNat) o s
def execCincImm (o : SRI) (k : BitVec 6) (s : State) : Out := opRI 1 (ringAdd k.toNat) o s

/-! ### Rotation, stages and loop registers (R190 to R192) -/

def execRotinit (g : Guard) (n : BitVec 5) (s : State) : Out :=
  slotOp (s.me.guard g) noCheck (fun s => s.onMe fun x => { x with newRrb := some n }) s
def execStg (g : Guard) (a : BitVec 6) (imm : BitVec 32) (s : State) : Out :=
  slotOp (s.me.guard g) (fun s => s.me.tagged 1 a)
    (fun s => s.onMe fun c => c.landP 1 8 (decide ((c.s a).toNat < (immX imm).toNat))) s
def execLpr (g : Guard) (d : BitVec 6) (n : BitVec 4) (s : State) : Out :=
  scalarOp g 1 d (fun c => SMap.get 0 c.lp n.toNat) (fun _ => false) s

/-! ### Control and status registers (R70, R71, R193) -/

/-- The stack timing registers (R72); TREFI is the stack's. -/
def timing (trefi : Nat) : Nat → Nat
  | 0 => 28 | 1 => 28 | 2 => 64 | 3 => 8 | 4 => 32 | 5 => 4 | 6 => 30 | 7 => trefi | _ => 400

/-- The state of STOP that a context's STEPCTL shows (R54). -/
def State.stopOf (s : State) (c : CtxId) : Bool :=
  let x := s.ctx c
  x.hasTask && match (s.lathe (dieOf c.core)).launch x.launch with
    | some l => l.stop.isSome
    | none => false

/-- The window CSR (R148). -/
def Window.csr (w : Window) : W64 :=
  if w.bound then
    let l := field (w.desc.getD 0 0) 27 24
    let live := ((List.range (2 ^ l)).filter fun i => match (SMap.get ⟨0, .empty⟩ w.slots i).st with
      | .filled | .poisoned => true
      | _ => false).length
    BitVec.ofNat 64 (w.head % 2 ^ 16 + live * 2 ^ 16 + l * 2 ^ 25 + 2 ^ 31)
  else 0

/-- The window object that wn of a context names. -/
def Ctx.winId (c : Ctx) (n : Nat) : Nat := SMap.get 0 c.winLink n

/-- A window object. -/
def State.window (s : State) (id : Nat) : Window := SMap.get Window.init s.windows id

/-- Applies a function to a window object. -/
def State.onWindow (s : State) (id : Nat) (f : Window → Window) : State :=
  { s with windows := SMap.set Window.init s.windows id (f (s.window id)) }

/-- The ring CSR (R70, R428): zero while unbound. -/
def State.ringCsr (s : State) (c : Ctx) (n : Nat) : W64 :=
  let id := c.ringId n
  if id = 0 then 0 else let r := s.ring id; BitVec.ofNat 64 (r.wp + r.rp * 2 ^ 8 + r.j * 2 ^ 16)

/-- The value of a control register in force (R70, R71). -/
def State.csr (s : State) (c : CtxId) (n : Nat) : W64 :=
  let x := s.ctx c
  if n = 0x000 then BitVec.ofNat 64 x.regs.tick
  else if n = 0x001 then s.chiptime
  else if n = 0x002 then c.slot.setWidth 64
  else if n = 0x003 then x.prio.setWidth 64
  else if n = 0x004 then x.asid.setWidth 64
  else if n = 0x005 then coreClass c.core
  else if n = 0x008 then (slice x.task 0 6 : BitVec 6).setWidth 64
  else if n = 0x009 then (slice x.task 6 12 : BitVec 12).setWidth 64
  else if n = 0x00A then (slice x.task 18 24 : BitVec 24).setWidth 64
  else if n = 0x00B then BitVec.ofNat 64 (field x.task 61 42 + field x.task 66 64 * 2 ^ 32)
  else if n = 0x00C then bit (s.stopOf c)
  else if n = 0x010 then x.fpstat.setWidth 64
  else if n = 0x011 then x.regs.rrb.setWidth 64
  else if n = 0x012 then x.vbank.setWidth 64
  else if n = 0x020 then (s.core c.core).cspart
  else if n = 0x021 then (if isS c.core then 0 else (s.group (groupOf c.core)).dpart.setWidth 64)
  else if n = 0x022 then x.faultInfo
  else if 0x040 ≤ n && n ≤ 0x048 then BitVec.ofNat 64 (timing (s.stack (stackOf c.core)).trefi (n - 0x040))
  else if 0x100 ≤ n && n ≤ 0x10F then (SMap.get 0 x.regs.h (n - 0x100)).setWidth 64
  else if 0x110 ≤ n && n ≤ 0x117 then (s.window (x.winId (n - 0x110))).csr
  else if 0x120 ≤ n && n ≤ 0x12F then s.ringCsr x (n - 0x120)
  else if n = 0x130 || n = 0x131 then SMap.get 0 x.regs.lc (n - 0x130)
  else 0

/-- TRCD to TRFC on a D-core (R70, R90). -/
def timingOnD (c : BitVec 16) (n : Nat) : Bool := !isS c && decide (0x040 ≤ n) && decide (n ≤ 0x048)

/-- Whether a write form may write a register (R70). -/
def csrWritable (priv : Bool) (isCsrs : Bool) (n : Nat) : Bool :=
  if n = 0x00C then isCsrs
  else if n = 0x003 || n = 0x020 then priv
  else decide (n = 0x010) || decide (n = 0x012) || (decide (0x100 ≤ n) && decide (n ≤ 0x10F)) || decide (n = 0x130) || decide (n = 0x131)

/-- Phases 4, 5 and 7 of a CSR write (R70, R447): opcode `op` for the record. -/
def csrWriteCheck (op : Nat) (o : SC) (s : State) : Option Exn :=
  let n := o.csr.toNat
  firstOf
    [ when (timingOnD s.cur.core n) (Exn.mk .unsupported 1 op)
    , when (!csrWritable s.me.priv (op = 0x52) n) (Exn.mk .priv 1 n)
    , match o.src with
      | .reg a => s.me.tagged 1 a
      | .imm _ => none ]

/-- A CSR write (R71, R193): the old value lands at 2, the new one governs from 2. R193 does not say whether `csrs` and `csrc` take the CSR's
value at issue or at the governing tick: here it is the value at issue, and what lands or governs between the two is overwritten (log entry 79). A
write to STEPCTL leaves the STOP that is set out of its value, since a source bit of zero writes no STOP (R54). -/
def csrWriteOp (op : Nat) (f : W64 → W64 → W64) (o : SC) (s : State) : Out :=
  slotOp (s.me.guard o.g) (csrWriteCheck op o)
    (fun s =>
      let n := o.csr.toNat
      let old := s.csr s.cur n
      let cyc := (s.core s.cur.core).cycles
      s.onMe fun c =>
        let src := match o.src with
          | .reg a => c.s a
          | .imm x => x.setWidth 64
        let c1 := c.landS 2 o.d old false
        { c1 with regs := { c1.regs with csrQ := c1.regs.csrQ ++ [⟨c1.regs.tick + 2, n, f (if n = 0x00C then 0 else old) src, cyc⟩] } }) s

def execCsrr (g : Guard) (d : BitVec 6) (csr : BitVec 12) (s : State) : Out :=
  slotOp (s.me.guard g) (fun s => when (timingOnD s.cur.core csr.toNat) (Exn.mk .unsupported 1 0x50))
    (fun s => let x := s.csr s.cur csr.toNat; s.onMe fun c => c.landS 2 d x false) s
def execCsrw (o : SC) (s : State) : Out := csrWriteOp 0x51 (fun _ x => x) o s
def execCsrs (o : SC) (s : State) : Out := csrWriteOp 0x52 (fun old x => old ||| x) o s
def execCsrc (o : SC) (s : State) : Out := csrWriteOp 0x53 (fun old x => old &&& ~~~x) o s

/-! ### Software faults (R195): the check raises them -/

def execTrap (g : Guard) (code : BitVec 32) (s : State) : Out :=
  slotOp (s.me.guard g) (fun _ => some (Exn.mk .trap code.toNat 0)) id s
def execBrk (g : Guard) (code : BitVec 32) (s : State) : Out :=
  slotOp (s.me.guard g) (fun _ => some (Exn.mk .brk code.toNat 0)) id s

end Sys2Proof.Machine
end

