-- ==== Sys2Proof/Machine/LoadStore.lean ====
section
/-! DEFINITION. Machine/LoadStore.lean: the loads of the L slot and the stores of the T slot (R127 to R133, R147, R249 to R260): core
store at once, the queued spaces through queue, store gate and landing queue. -/

namespace Sys2Proof.Machine

/-! ### Operands -/

/-- Bytes of an access. -/
def widthBytes : Width → Nat
  | .b => 1 | .h => 2 | .w => 4 | .d => 8 | .v => 128

/-- The base register plus the signed displacement, as 64 bits. -/
def baseDisp (c : Ctx) (base : BitVec 6) {n : Nat} (disp : BitVec n) : Nat := (c.s base + disp.signExtend 64).toNat

/-- The first POISON of tagged scalar registers, in the order of the operation's list (R251; log entry 116). -/
def tagsOf (c : Ctx) (slot : Nat) (rs : List (BitVec 6)) : Option Exn := firstOf (rs.map (c.tagged slot))

/-- POISON of a tagged store datum. -/
def datumTag (c : Ctx) (a : Acc) : Option Exn := if a.file then c.taggedV 7 a.reg else c.tagged 7 a.reg

/-- The bytes of a store (R250). -/
def datum (c : Ctx) (a : Acc) : List Byte :=
  toBytes (widthBytes a.width) (if a.file then (c.v a.reg).toNat else (c.s a.reg).toNat)

/-- The result of a load: a scalar zero-extended, or a whole vector (R250). -/
def loadVal (c : Ctx) (a : Acc) (bs : List Byte) : LandVal :=
  if a.file then .v (c.regs.phys a.reg) (BitVec.ofNat 1024 (ofBytes bs)) (BitVec.allOnes 128)
  else .s (if a.reg = 0 then 0 else c.regs.phys a.reg) (BitVec.ofNat 64 (ofBytes bs))

/-! ### Core store (R128, R157, R161, R254) -/

/-- The state with the current context's core store as that context reads it (R163). -/
def State.asOwn (s : State) (core : BitVec 16) : State :=
  if (s.core core).writes.isEmpty && (s.core core).layers.isEmpty then s
  else s.onCore core fun k => { k with store := s.ownStore ⟨core, s.cur.slot⟩, layers := [] }

/-- The bytes of a core's own store, and its first faulty sector. -/
def State.coreBytes (s : State) (core : BitVec 16) (off n : Nat) : List Byte × Option (Nat × Nat × Nat) :=
  (s.asOwn core).loadBytes (dieOf core) false ⟨.core core.toNat (off % 2 ^ 20), none⟩ n (fun _ => true)

/-- The loss that a faulty sector of core store causes (R161, R380). -/
def lostAt (b : Nat × Nat × Nat) : Exn := .lost b.1 b.2.1 b.2.2 none

/-- ALIGN of a core-store offset. -/
def alignFault (slot off n : Nat) : Option Exn := when (off % n ≠ 0) (Exn.mk .align slot off)

/-- Owner and data checks of a read of the own core store (R252, 5 and 6). -/
def State.coreReadFault (s : State) (slot off n : Nat) : Option Exn :=
  firstOf [s.ownerFault (s.who s.cur) s.cur.core slot off n, (s.coreBytes s.cur.core off n).2.map lostAt]

/-- A core-store write of the current context enters its core, to be performed at issue + lat (R163). -/
def State.coreStore (s : State) (lat off : Nat) (bs : List Byte) : State :=
  let t := s.me.regs.tick
  s.onCore s.cur.core fun k =>
    { k with writes := k.writes ++ [⟨s.cur.slot, s.me.bid, t + lat, off % 2 ^ 20, bs, List.replicate bs.length true, s.me.seq,
      decide (off % 32 = 0) && decide (bs.length % 32 = 0), 0⟩] }

def execLdc (o : MemB) (s : State) : Out :=
  let n := widthBytes o.acc.width
  let off := baseDisp s.me o.base o.disp % 2 ^ 20
  slotOp (s.me.guard o.acc.g)
    (fun s => firstOf [tagsOf s.me 6 [o.base], alignFault 6 off n, s.coreReadFault 6 off n])
    (fun s =>
      let bs := (s.coreBytes s.cur.core off n).1
      s.onMe fun c => c.land 6 (loadVal c o.acc bs) false) s

def execStc (o : MemB) (s : State) : Out :=
  let n := widthBytes o.acc.width
  let off := baseDisp s.me o.base o.disp % 2 ^ 20
  slotOp (s.me.guard o.acc.g)
    (fun s => firstOf [tagsOf s.me 7 [o.base], datumTag s.me o.acc, alignFault 7 off n, s.ownerFault (s.who s.cur) s.cur.core 7 off n])
    (fun s => s.coreStore 1 off (datum s.me o.acc)) s

/-! ### Gather and scatter (R255, R256) -/

/-- The element bytes of a gather or scatter. -/
def gatherElemsOf (o : MemG) (c : Ctx) : List Nat :=
  let w := widthBytes o.acc.width
  (List.range (128 / w)).filter fun e => enabled (c.m o.m) (8 * w) e

/-- The core-store offset of element e of a gather. -/
def gatherOff (o : MemG) (s : State) (e : Nat) : Nat :=
  let x := baseDisp s.me o.base o.disp % 2 ^ 20
  let k := ofBytes (s.coreBytes s.cur.core (x + 4 * e) 4).1
  ((s.me.s o.x).toNat + k * widthBytes o.acc.width) % 2 ^ 20

/-- The loss of the faulty sector at the lowest address (R161). -/
def lowestLoss (l : List (Nat × Nat × Nat)) : Option Exn := ((sortBy (fun b => b.2.2) l).head?).map lostAt

def execLdgc (o : MemG) (s : State) : Out :=
  let w := widthBytes o.acc.width
  let x := baseDisp s.me o.base o.disp % 2 ^ 20
  slotOp (s.me.guard o.acc.g)
    (fun s =>
      let es := gatherElemsOf o s.me
      firstOf
        [ tagsOf s.me 6 [o.base, o.x]
        , alignFault 6 x 4
        , alignFault 6 (s.me.s o.x).toNat w
        , s.ownerFault (s.who s.cur) s.cur.core 6 x (512 / w)
        , es.findSome? fun e => s.ownerFault (s.who s.cur) s.cur.core 6 (gatherOff o s e) w
        , (s.coreBytes s.cur.core x (512 / w)).2.map lostAt
        , lowestLoss (es.filterMap fun e => (s.coreBytes s.cur.core (gatherOff o s e) w).2) ])
    (fun s =>
      let es := gatherElemsOf o s.me
      let vals := es.map fun e => (e, ofBytes (s.coreBytes s.cur.core (gatherOff o s e) w).1)
      s.onMe fun c => c.landV 8 o.acc.reg (gatherElems (8 * w) vals) (lanesOf (8 * w) es) (c.mTag o.m)) s

/-- The core-store offset of element e of a scatter. -/
def scatterOff (o : MemG) (c : Ctx) (e : Nat) : Nat :=
  let w := widthBytes o.acc.width
  (baseDisp c o.base o.disp + elem (c.v o.x) (8 * w) e * w) % 2 ^ 20

def execStsc (o : MemG) (s : State) : Out :=
  let w := widthBytes o.acc.width
  slotOp (s.me.guard o.acc.g)
    (fun s => firstOf
      [ tagsOf s.me 7 [o.base], s.me.taggedV 7 o.x, s.me.taggedV 7 o.acc.reg
      , alignFault 7 (baseDisp s.me o.base o.disp) w
      , (gatherElemsOf o s.me).findSome? fun e => s.ownerFault (s.who s.cur) s.cur.core 7 (scatterOff o s.me e) w ])
    (fun s => (gatherElemsOf o s.me).foldl
      (fun s e => s.coreStore 1 (scatterOff o s.me e) (toBytes w (elem (s.me.v o.acc.reg) (8 * w) e))) s) s

/-! ### Windows (R145 to R148, R259) -/

/-- The format bits of a window's tensor are fixed when it is bound; its stride is held with it. The slot of a row. -/
def Window.slot (w : Window) (e : Nat) : WinSlot := SMap.get ⟨0, .empty⟩ w.slots (e % 2 ^ field (w.desc.getD 0 0) 27 24)

/-- The core-store offset of a byte of a row. -/
def Window.byteAt (w : Window) (e off : Nat) : Nat :=
  (field (w.desc.getD 1 0) 19 0 + e % 2 ^ field (w.desc.getD 0 0) 27 24 * w.stride + off) % 2 ^ 20

/-- The byte offset of a window access. -/
def winOff (o : MemW) (c : Ctx) : Nat := (c.s o.off).toNat + o.imm.toNat

/-- COORD of a window by its number (R448). -/
def winCoord (n slot value : Nat) : Exn := Exn.coord n 5 slot value

/-- Checks 2 and 4 of a window access: unbound, row width, alignment, tag and state. -/
def State.windowFault (s : State) (o : MemW) : Option Exn :=
  let w := s.window (s.me.winId o.w.toNat)
  let n := widthBytes o.acc.width
  let e := (s.me.s o.row).toNat
  let off := winOff o s.me
  let sl := w.slot e
  firstOf
    [ when (w.stride < off + n) (winCoord o.w.toNat 6 off)
    , alignFault 6 (w.byteAt e off) n
    , when (decide (sl.tag.toNat ≠ e % 2 ^ 16) || decide (sl.st = .empty) || decide (sl.st = .filling)) (Exn.mk .schedTag o.w.toNat e) ]

/-- Whether the row of a window access is POISONED. -/
def State.rowPoisoned (s : State) (o : MemW) : Bool :=
  decide (((s.window (s.me.winId o.w.toNat)).slot (s.me.s o.row).toNat).st = .poisoned)

/-- Where a window access reads. -/
def State.windowByte (s : State) (o : MemW) : Nat :=
  (s.window (s.me.winId o.w.toNat)).byteAt (s.me.s o.row).toNat (winOff o s.me)

/-- COORD of an unbound window, before any other check (R147). -/
def State.unboundWindow (s : State) (n slot : Nat) : Option Exn :=
  when (!(s.window (s.me.winId n)).bound) (winCoord n slot 0)

def execLdw (o : MemW) (s : State) : Out :=
  let n := widthBytes o.acc.width
  slotOp (s.me.guard o.acc.g)
    (fun s => firstOf
      [ s.unboundWindow o.w.toNat 6, tagsOf s.me 6 [o.row, o.off], s.windowFault o
      , s.ownerFault (s.who s.cur) s.cur.core 6 (s.windowByte o) n
      , when (s.rowPoisoned o) (.lost 16 7 0 none)
      , (s.coreBytes s.cur.core (s.windowByte o) n).2.map lostAt ])
    (fun s =>
      let bs := (s.coreBytes s.cur.core (s.windowByte o) n).1
      s.onMe fun c => c.land 6 (loadVal c o.acc bs) false) s

/-- Whether a source of a speculative window load is tagged. -/
def winTagged (o : MemW) (c : Ctx) : Bool := c.sTag o.row || c.sTag o.off

def execLdsw (o : MemW) (s : State) : Out :=
  let n := widthBytes o.acc.width
  slotOp (s.me.guard o.acc.g)
    (fun s => (s.unboundWindow o.w.toNat 6).or (
      if winTagged o s.me then none
      else firstOf [s.windowFault o, s.ownerFault (s.who s.cur) s.cur.core 6 (s.windowByte o) n]))
    (fun s =>
      let r := s.coreBytes s.cur.core (s.windowByte o) n
      let poison := winTagged o s.me || s.rowPoisoned o || r.2.isSome
      s.onMe fun c => c.land 6 (loadVal c o.acc (if poison then [] else r.1)) poison) s

/-! ### Targets of the queued spaces (R129, R130, R132, R137) -/

/-- A cluster-store or deck-store target. -/
def baseTarget (sp : QSpace) (x : Nat) : Target := if sp = .k then .k x else .d x

/-- The target of handle `h` at coordinates. -/
def handleTarget (c : Ctx) (sp : QSpace) (h : BitVec 4) (xs : List Nat) : Target :=
  .t sp h.toNat (SMap.get 0 c.regs.h h.toNat).toNat xs

/-- The coordinates of a handle access. -/
def coordsOf (o : MemH) (c : Ctx) : List Nat := [o.c0, o.c1, o.c2, o.c3, o.c4].map fun r => (c.s r).toNat

/-- Checks 2 and 3 of R252: COORD, ALIGN, DECK_RANGE. -/
def State.addressFault (s : State) (w : Who) (t : Target) (n slot : Nat) : Option Exn :=
  match t with
  | .k x => firstOf
    [ when (decide (2 ^ 25 ≤ x) || (isS w.ctx.core && decide (16 ≤ x / 2 ^ 20))) (Exn.coord 0 8 slot x), alignFault slot x n ]
  | .d x =>
    let dp := if isS w.ctx.core then 0 else (s.group (groupOf w.ctx.core)).dpart.toNat
    firstOf [alignFault slot x n, when (decide (dp * 2 ^ 23 ≤ x)) (Exn.mk .deckRange x dp)]
  | .t _ _ i xs =>
    match s.tensor w.asid i with
    | none => some (Exn.coord i 0 slot i)
    | some e => match e.locate xs with
      | .error v => some (Exn.coord i 0 slot v)
      | .ok r => alignFault slot r.2 n

/-- The first bank of a k target that a party does not match now (R157). -/
def State.targetBank (s : State) (w : Who) (t : Target) (n : Nat) : Option Nat :=
  match t with
  | .k x => s.badBank w (coreAt (groupOf w.ctx.core) (x / 2 ^ 20)) (x % 2 ^ 20) n
  | _ => none

/-- The location of a target (check 5 of R252): the owner tags of its banks as its issue found them (R199), or translation, with the table entry
that stands. -/
def State.resolveAt (s : State) (w : Who) (bank : Option Nat) (t : Target) (n slot : Nat) (need : Need) : Res Exn (Loc × Option CachedEntry) :=
  match t with
  | .k x =>
    match bank with
    | some b => .error (Exn.xlate .owner 0 0 slot b)
    | none => .ok (⟨.core (coreAt (groupOf w.ctx.core) (x / 2 ^ 20)).toNat (x % 2 ^ 20), none⟩, none)
  | .d x => .ok (⟨.deck (groupOf w.ctx.core) x, none⟩, none)
  | .t sp _ i xs =>
    match s.tensor w.asid i with
    | none => .error (Exn.coord i 0 slot i)
    | some e => match e.locate xs with
      | .error v => .error (Exn.coord i 0 slot v)
      | .ok r => match s.translate w i e r.1 r.2 n (some sp) need with
        | .error sub => .error (Exn.xlate sub i r.1 slot 0)
        | .ok l => .ok (l.1, some ⟨w.asid, i, some r.1, l.2⟩)

/-- The location of a target at its issue. -/
def State.resolve (s : State) (w : Who) (t : Target) (n slot : Nat) (need : Need) : Res Exn (Loc × Option CachedEntry) :=
  s.resolveAt w (s.targetBank w t n) t n slot need

/-- The exception of a resolution, if any. -/
def resError {α : Type} : Res Exn α → Option Exn
  | .error e => some e
  | .ok _ => none

/-! ### The gate (R33) and the queues (R133) -/

/-- The byte that a cluster-store address names, the same for the two offsets of an S-core's byte (R128, R129). -/
def clusterByte (core : BitVec 16) (a : Nat) : Nat := a / 2 ^ 20 * 2 ^ 20 + coreOff core a

/-- The position of a gated store's byte 0 relative to byte 0 of a load, where the two can share bytes (R33). -/
def Target.offsetFrom (core : BitVec 16) (st ld : Target) : Option Int :=
  match st, ld with
  | .k a, .k b => some ((clusterByte core a : Int) - clusterByte core b)
  | .d a, .d b => some ((a : Int) - b)
  | .t p h i xs, .t q g j ys => if p = q && h = g && i = j && xs = ys then some 0 else none
  | _, _ => none

/-- The byte that a gated store gives byte j of a load. -/
def GateEntry.byteFor (core : BitVec 16) (e : GateEntry) (t : Target) (j : Nat) : Option Byte :=
  (e.target.offsetFrom core t).bind fun d =>
    let i := (j : Int) - d
    if 0 ≤ i then e.bytes[i.toNat]? else none

/-- The bytes of a load that the gate supplies: of the youngest store that writes each; one that a `dpset` has performed is no longer there
(R426). -/
def Ctx.forward (core : BitVec 16) (c : Ctx) (t : Target) (n : Nat) : List (Option Byte) :=
  (List.range n).map fun j => c.gate.reverse.findSome? fun e => if e.gone then none else e.byteFor core t j

/-- An access enters its queue with the next number. -/
def Ctx.enqueue (c : Ctx) (q : QAcc) : Ctx := { c with queue := c.queue ++ [{ q with seq := c.seq }], seq := c.seq + 1 }

/-- The space of a target. -/
def Target.space : Target → QSpace
  | .k _ => .k
  | .d _ => .d
  | .t sp _ _ _ => sp

/-- The number of `dpset` that a context's cluster has issued in earlier cycles (R197). -/
def State.partOf (s : State) (c : CtxId) : Nat := (s.group (groupOf c.core)).dpsets

/-- A queued load: checks 1 to 3 at issue, and in a mark bundle its translation too, since a mark issues only with its own accesses
translated (R32, R35); then it enters its queue and the landing queue (R28). A speculative load turns every failure into a
poison result (R260). -/
def queuedLoad (a : Acc) (regs : List (BitVec 6)) (tgt : Ctx → Target) (spec : Bool) (s : State) : Out :=
  let n := widthBytes a.width
  slotOp (s.me.guard a.g)
    (fun s =>
      if spec then none
      else firstOf
        [ tagsOf s.me 6 regs, s.addressFault (s.who s.cur) (tgt s.me) n 6
        , if s.hdr.mark then resError (s.resolve (s.who s.cur) (tgt s.me) n 6 .read) else none ])
    (fun s =>
      let c := s.me
      let t := tgt c
      let poison := AccPhase.done [] (some (0, 7, 0)) none
      let phase :=
        if spec && ((tagsOf c 6 regs).isSome || (s.addressFault (s.who s.cur) t n 6).isSome) then poison
        else if s.hdr.mark then
          match s.resolve (s.who s.cur) t n 6 .read with
          | .ok l => .walked l.1 l.2
          | .error _ => poison
        else .queued
      let val := loadVal c a []
      let dest := match val with
        | .v r _ _ => r
        | .s r _ => r
        | _ => 0
      let bank := s.targetBank (s.who s.cur) t n
      s.onMe fun c =>
        let q : QAcc := ⟨0, c.regs.pc, .load spec, t, List.replicate n 0, c.forward s.cur.core t n, a.file, dest, a.order, a.scope, s.partOf s.cur, bank, phase, []⟩
        { c.enqueue q with regs := { c.regs with landing := c.regs.landing ++ [⟨none, val, false, some (t.space, c.seq), c.regs.tick⟩] } }) s

/-- A queued store: into the gate (R33), or in a mark bundle, whose gate has been released, into its queue (R32). -/
def queuedStore (a : Acc) (regs : List (BitVec 6)) (tgt : Ctx → Target) (s : State) : Out :=
  let n := widthBytes a.width
  slotOp (s.me.guard a.g)
    (fun s => firstOf
      [ tagsOf s.me 7 regs, datumTag s.me a, s.addressFault (s.who s.cur) (tgt s.me) n 7
      , if s.hdr.mark then resError (s.resolve (s.who s.cur) (tgt s.me) n 7 .write)
        else when (64 ≤ s.me.gate.length) (Exn.mk .markOverflow 0 0) ])
    (fun s =>
      let part := s.partOf s.cur
      let phase := match s.resolve (s.who s.cur) (tgt s.me) n 7 .write with
        | .ok l => AccPhase.walked l.1 l.2
        | .error _ => .queued
      let bank := s.targetBank (s.who s.cur) (tgt s.me) n
      let mark := s.hdr.mark
      s.onMe fun c =>
        if mark then c.enqueue ⟨0, c.regs.pc, .store, tgt c, datum c a, [], a.file, 0, a.order, a.scope, part, bank, phase, []⟩
        else { c with gate := c.gate ++ [⟨c.regs.pc, tgt c, datum c a, a.order, a.scope, part, c.seq, false, bank, false⟩] }) s

/-- A load of k or d by base and displacement. -/
def baseLoad (sp : QSpace) (o : MemB) (s : State) : Out :=
  queuedLoad o.acc [o.base] (fun c => baseTarget sp (baseDisp c o.base o.disp)) false s

/-- A load of m, f or h by handle and coordinates. -/
def handleLoad (sp : QSpace) (o : MemH) (spec : Bool) (s : State) : Out :=
  queuedLoad o.acc [o.c0, o.c1, o.c2, o.c3, o.c4] (fun c => handleTarget c sp o.h (coordsOf o c)) spec s

/-- A store of k or d. -/
def baseStore (sp : QSpace) (o : MemB) (s : State) : Out :=
  queuedStore o.acc [o.base] (fun c => baseTarget sp (baseDisp c o.base o.disp)) s

/-- A store of m, f or h. -/
def handleStore (sp : QSpace) (o : MemH) (s : State) : Out :=
  queuedStore o.acc [o.c0, o.c1, o.c2, o.c3, o.c4] (fun c => handleTarget c sp o.h (coordsOf o c)) s

def execLdk (o : MemB) (s : State) : Out := baseLoad .k o s
def execLdd (o : MemB) (s : State) : Out := baseLoad .d o s
def execLdm (o : MemH) (s : State) : Out := handleLoad .m o false s
def execLdf (o : MemH) (s : State) : Out := handleLoad .f o false s
def execLdh (o : MemH) (s : State) : Out := handleLoad .h o false s
def execLdsm (o : MemH) (s : State) : Out := handleLoad .m o true s
def execStk (o : MemB) (s : State) : Out := baseStore .k o s
def execStd (o : MemB) (s : State) : Out := baseStore .d o s
def execStm (o : MemH) (s : State) : Out := handleStore .m o s
def execStf (o : MemH) (s : State) : Out := handleStore .f o s
def execSth (o : MemH) (s : State) : Out := handleStore .h o s

end Sys2Proof.Machine
end

