-- ==== Sys2Proof/Machine/Atomic.lean ====
section
/-! DEFINITION. Machine/Atomic.lean: `amo` (R261, R262): its new values, its entry into a queue at its bundle, and its performance at
the atomic unit of the location's home. -/

namespace Sys2Proof.Machine

/-- A number of w bits as a signed integer. -/
def signedOf (w x : Nat) : Int := if 2 ^ (w - 1) ≤ x then (x : Int) - 2 ^ w else x

/-- The new value of a location of w bits (R261): `old`, the operand and the value expected by `cas`. -/
def amoValue (op : AmoKind) (w : Nat) (old v expect : Nat) : Nat :=
  match op with
  | .add => (old + v) % 2 ^ w
  | .min => if signedOf w old ≤ signedOf w v then old else v
  | .max => if signedOf w v ≤ signedOf w old then old else v
  | .minu => min old v
  | .maxu => max old v
  | .and => old &&& v
  | .or => old ||| v
  | .xor => old ^^^ v
  | .swap => v
  | .cas => if old = expect then v else old
  | .fadd => (FFmt.f32.round ((FFmt.f32.decode old).add false (FFmt.f32.decode v)).val 0 false).val

/-- Bytes of an `amo`. -/
def amoBytes (o : AmoOp) : Nat := if o.small then 4 else 8

/-- The target of an `amo`: base and displacement, or coordinate 0 of a handle. -/
def amoTarget (o : AmoOp) (c : Ctx) : Target :=
  match o.space with
  | .k => .k (baseDisp c o.base o.disp)
  | .d => .d (baseDisp c o.base o.disp)
  | sp => handleTarget c sp (o.base.truncate 4) [o.disp.toNat, 0, 0, 0, 0]

/-- COORD of a negative displacement after a handle. -/
def amoNegative (o : AmoOp) (c : Ctx) : Option Exn :=
  match amoTarget o c with
  | .t _ _ i _ => when o.disp.msb (Exn.coord i 0 7 (o.disp.signExtend 64).toNat)
  | _ => none

/-- The registers whose tags an `amo` consumes (R251). -/
def amoRegs (o : AmoOp) : List (BitVec 6) :=
  (match o.space with
    | .k | .d => [o.base]
    | _ => []) ++ [o.val] ++ (match o.op with
    | .cas => [o.res]
    | _ => [])

def execAmo (o : AmoOp) (s : State) : Out :=
  let n := amoBytes o
  slotOp (s.me.guard o.g)
    (fun s => firstOf
      [ tagsOf s.me 7 (amoRegs o), amoNegative o s.me, s.addressFault (s.who s.cur) (amoTarget o s.me) n 7
      , resError (s.resolve (s.who s.cur) (amoTarget o s.me) n 7 .both) ])
    (fun s =>
      let t := amoTarget o s.me
      let part := s.partOf s.cur
      let phase := match s.resolve (s.who s.cur) t n 7 .both with
        | .ok l => AccPhase.walked l.1 l.2
        | .error _ => .queued
      let bank := s.targetBank (s.who s.cur) t n
      s.onMe fun c =>
        let d := if o.res = 0 then 0 else c.regs.phys o.res
        let q : QAcc := ⟨0, c.regs.pc, .amo o.op o.small (c.s o.val) (c.s o.res), t, [], [], false, d, o.order, o.scope, part, bank, phase, []⟩
        { c.enqueue q with regs := { c.regs with landing := c.regs.landing ++ [⟨none, .s d 0, false, some (t.space, c.seq), c.regs.tick⟩] } }) s

/-- What the atomic unit does with a sector (R262): the bytes read at byte i, the fault found, and the sector that it writes, if any, with the
bits that it gives a value. -/
def atomicSector (x : Sector) (i : Nat) (op : AmoKind) (small : Bool) (v expect : W64) : List Byte × Option Nat × Option (Sector × BitVec 256) :=
  let n := if small then 4 else 8
  let old := ofBytes ((x.bytes.drop i).take n)
  match x.fault with
  | some f => (toBytes n old, some f, if x.poison then none else some ({ x with poison := true }, 0))
  | none =>
    let new := amoValue op (8 * n) old (v.toNat % 2 ^ (8 * n)) (expect.toNat % 2 ^ (8 * n))
    (toBytes n old, none, some (Sector.good (overlay x.bytes i (toBytes n new)), bytesMask i n))

/-- The atomic unit of a die at a location (R262): the bytes read, the fault found in their sector, and the memory after. -/
def State.atomic (s : State) (die viaK : Bool) (l : Loc) (op : AmoKind) (small : Bool) (v expect : W64) :
    List Byte × Option (Nat × Nat × Nat) × State :=
  let a := atomicSector (s.readSector die l) l.place.inSector op small v expect
  let r := l.place.record viaK
  (a.1, a.2.1.map fun f => (f, r.1, r.2 / 32 * 32), match a.2.2 with
    | some x => s.writeSector die l x.1 x.2
    | none => s)

/-- The atomic unit at a location's home, for a party outside this package, whom no deck block serves (R151, R173). -/
def State.atomicHome (s : State) (l : Loc) (op : AmoKind) (small : Bool) (v expect : W64) : List Byte × Bool × State :=
  let a := atomicSector (s.atHome l) l.place.inSector op small v expect
  (a.1, a.2.1.isSome, match a.2.2 with
    | some x => s.putHome l x.1
    | none => s)

/-- Whether the host completes an `amo` with Unsupported Request or Completer Abort is not this package's to say: a free value (R262, log entry 8). -/
def State.hostRefuses (s : State) (pl : Place) : Bool × State :=
  match pl with
  | .host _ _ _ => let f := s.freeWord; (f.1.getLsbD 0, f.2)
  | _ => (false, s)

end Sys2Proof.Machine
end

