-- ==== Sys2Proof/Machine/Row.lean ====
section
/-! DEFINITION. Machine/Row.lean: the row commands of the S-core (R293 to R297, R451), refresh duty and the refresh guard (R298,
R299), scrubbing and repair requests (R405 to R407), leases and handovers (R396, R397). -/

namespace Sys2Proof.Machine

/-! ### Banks, errors and scrubbing (R405 to R407) -/

/-- The key of a bank of a stack. -/
def bankKey (ch bank : Nat) : Nat := 16 * ch + bank

/-- A bank's mode register and scrub state. -/
def Stack.bank (k : Stack) (ch bank : Nat) : BankMode := SMap.get BankMode.init k.banks (bankKey ch bank)

/-- Applies a function to a bank. -/
def State.onBank (s : State) (st ch bank : Nat) (f : BankMode → BankMode) : State :=
  s.onStack st fun k => { k with banks := SMap.set BankMode.init k.banks (bankKey ch bank) (f (k.bank ch bank)) }

/-- The banks of a set (R293). -/
def setBanks (j : Nat) : List Nat := [j, j + 4, j + 8, j + 12]

/-- The device address of a byte of a row (R384). -/
def rowAddr (st ch bank row : Nat) : Nat := st * 2 ^ 36 + ch * 2 ^ 31 + row * 2 ^ 15 + bank * 2 ^ 11

/-- The bank has met an error in a row and, where it is known, column group. -/
def BankMode.find (b : BankMode) (row : Nat) (column : Option Nat) : BankMode :=
  match column with
  | some c => if b.found.contains (row, c) then b else { b with found := b.found ++ [(row, c)] }
  | none => b

/-- A repair request: of the column group when the errors of four rows lie in it, else of the row (R407). -/
def BankMode.request (b : BankMode) (row : Nat) (column : Option Nat) : Bool × Nat :=
  match column with
  | some c => if 4 ≤ (((b.found.filter fun e => decide (e.2 = c)).map (·.1)).eraseDups).length then (false, c) else (true, row)
  | none => (true, row)

/-- A bank asks for the repair of a row, or of its column group (R407). Requests that already wait for rows of the column stay: R407's "instead"
speaks of the request made now (log entry 89). -/
def BankMode.ask (b : BankMode) (row : Nat) (column : Option Nat) : BankMode :=
  let r := b.request row column
  if b.pending.contains r then b else { b with pending := b.pending ++ [r] }

/-- An uncorrectable error: counted, and on the row's first one a repair is requested (R405, R407). -/
def BankMode.noteUe (b : BankMode) (row : Nat) (column : Option Nat) : BankMode :=
  let b1 := b.find row column
  let b2 := if SMap.get false b1.ueRows row then b1 else b1.ask row column
  { b2 with ue := min (b2.ue + 1) 4095, ueRows := SMap.set false b2.ueRows row true }

/-- A correctable error: counted, and a repair is requested if the pass before corrected the row too (R405, R407). -/
def BankMode.noteCe (b : BankMode) (row : Nat) (column : Option Nat) : BankMode :=
  let b1 := b.find row column
  let b2 := if SMap.get false b1.lastFixed row then b1.ask row column else b1
  { b2 with ce := min (b2.ce + 1) (2 ^ 32 - 1) }

/-- From a repair request on, the Lathe of the stack's die waits for a repair window (R408). -/
def State.noteRepair (s : State) (st ch bank : Nat) : State :=
  if ((s.stack st).bank ch bank).pending.isEmpty then s
  else s.onLathe (decide (8 ≤ st)) fun l => { l with repwaitFrom := l.repwaitFrom.or (some s.chip) }

/-- An uncorrectable error of a bank (R405, R407). -/
def State.noteUe (s : State) (st ch bank row : Nat) (column : Option Nat) : State :=
  (s.onBank st ch bank fun b => b.noteUe row column).noteRepair st ch bank

/-- The column group of the error that stands in a sector of HBM. -/
def State.errorColumn (s : State) (a : Nat) : Option Nat := ((s.stack (hbmStack a)).errors.find? fun e => e.at_ a).map (·.column)

/-- An access meets an uncorrectable error at an HBM address: the row's first one is counted and asks for a repair (R407); the others wait for the scrub
to count them (log entry 82). -/
def State.meetUe (s : State) (a : Nat) : State :=
  if SMap.get false ((s.stack (hbmStack a)).bank (hbmChannel a) (hbmBank a)).ueRows (hbmRow a) then s
  else s.noteUe (hbmStack a) (hbmChannel a) (hbmBank a) (hbmRow a) (s.errorColumn a)

/-- Whether no error stands in a cell. -/
def State.noErrors (s : State) : Bool := s.stackTab.all fun e => e.2.errors.isEmpty

/-- The uncorrectable errors of cells that reads of the sectors of some places at their homes meet (R407). -/
def State.noteReads (s : State) (ls : List Place) : State :=
  if s.noErrors then s
  else ls.foldl (fun s pl => match pl with
    | .dev a => if s.cellBad a then s.meetUe a else s
    | _ => s) s

/-- The same for the accesses of a die, where its resident blocks serve none of them (R150). -/
def State.noteAccess (s : State) (die : Bool) (ls : List Place) : State :=
  s.noteReads (ls.filter fun pl => match pl with
    | .dev a => (s.blockAt die a).isNone
    | _ => true)

/-- What a scrub does about one error of the row: a correctable one is corrected and counted, an uncorrectable one poisons its sector,
is counted and retires its frame (R401, R406). -/
def State.scrubError (s : State) (st : Nat) (e : CellError) : State :=
  if e.correctable then (s.onBank st e.channel e.bank fun b => b.noteCe e.row (some e.column)).noteRepair st e.channel e.bank
  else
    let a := rowAddr st e.channel e.bank e.row + 32 * e.sector
    let s1 := s.setHomeSector (.dev a) { s.homeSector (.dev a) with poison := true }
    (s1.noteUe st e.channel e.bank e.row (some e.column)).retire ⟨.dev a, none⟩ false 4 0

/-- Scrubs the next row of a bank and moves its pointer on (R406); whether this pass corrected the row counts for the next (R407). -/
def State.scrubBank (s : State) (st ch bank : Nat) : State :=
  let row := ((s.stack st).bank ch bank).scrub
  let here := (s.stack st).errors.filter fun e => decide (e.channel = ch) && decide (e.bank = bank) && decide (e.row = row)
  let s1 := here.foldl (fun s e => s.scrubError st e) s
  let s2 := s1.onStack st fun k => { k with errors := k.errors.filter fun e => !(here.contains e) }
  s2.onBank st ch bank fun b =>
    { b with scrub := (row + 1) % 65536, lastFixed := SMap.set false b.lastFixed row (here.any (·.correctable)) }

/-- A refresh of a bank set: its next deadline, and a scrub of one row in each bank (R298, R406). -/
def State.refreshSet (s : State) (st ch j : Nat) : State :=
  let due := s.chip + (s.stack st).trefi
  let s1 := s.onChannel st ch fun c => { c with deadline := SMap.set 0 c.deadline j due }
  (setBanks j).foldl (fun s b => s.scrubBank st ch b) s1

/-! ### The commander (R293, R396) -/

/-- Whether a lease names a context of the channel's S-core. -/
def leaseOf? (lease : W64) (x : Ctx) (c : CtxId) : Bool :=
  lease.getLsbD 0 && decide (slice lease 3 11 = x.asid) && decide (slice lease 1 2 = c.slot)

/-- Whether a context commands a channel of its stack. -/
def State.commands (s : State) (c : CtxId) (ch : Nat) : Bool :=
  let k := s.channel (stackOf c.core) ch
  isS c.core && decide (ch / 2 = withinGroup c.core) && k.handover.isNone && decide ((s.ctx c).st ≠ .unbound) && leaseOf? k.lease (s.ctx c) c

/-- The commander of a channel. -/
def State.commander (s : State) (st ch : Nat) : Option CtxId :=
  let core := BitVec.ofNat 16 (0x8000 + st * 16 + ch / 2)
  let c : CtxId := ⟨core, slice (s.channel st ch).lease 1 2⟩
  if s.commands c ch then some c else none

/-- Ready, Running or Stalled: the states in which the refresh is the commander's duty (R298). -/
def CtxState.onDuty : CtxState → Bool
  | .ready | .running | .stalled _ => true
  | _ => false

/-- The stack channels of an S-core. -/
def channelsOf (core : BitVec 16) : List Nat := [2 * withinGroup core, 2 * withinGroup core + 1]

/-- A set of a context's channels whose deadline has passed: its REFRESH_LATE with the channel, set and deadline (R298). -/
def State.refreshLate (s : State) (c : CtxId) : Option (Nat × Nat × Nat) :=
  if isS c.core then
    (channelsOf c.core).findSome? fun ch =>
      if s.commands c ch then
        let k := s.channel (stackOf c.core) ch
        (List.range 4).findSome? fun j =>
          match k.late.find? fun l => decide (l.1 = j) with
          | some l => some (ch, j, l.2)
          | none =>
            let d := SMap.get 0 k.deadline j
            if d < s.chip then some (ch, j, d) else none
      else none
  else none

/-- The guard refreshes every set of a context's channels whose deadline has passed, and their notes are taken. -/
def State.refreshPast (s : State) (c : CtxId) : State :=
  let st := stackOf c.core
  (channelsOf c.core).foldl (fun s ch =>
    if s.commands c ch then
      ((List.range 4).foldl (fun s j => if SMap.get 0 (s.channel st ch).deadline j < s.chip then s.refreshSet st ch j else s) s).onChannel st ch
        fun k => { k with late := [] }
    else s) s

/-- REFRESH_LATE at the context's next bundle; the guard refreshes at once (R298). A bundle raises one fault: where several sets are late it names the
first, and the guard refreshes all of them (log entry 86). -/
def State.raiseLate (s : State) (c : CtxId) (ch j d : Nat) : State :=
  (s.refreshPast c).raise c (Exn.mk .refreshLate (ch % 2 * 2 ^ 8 + j * 2 ^ 9) d)

/-- A set of a channel whose deadline passes while the refresh is the commander's duty is noted. -/
def Channel.noteLate (chip : Nat) (k : Channel) (j : Nat) : Channel :=
  let d := SMap.get 0 k.deadline j
  if d < chip && !k.late.any (fun l => decide (l.1 = j)) then { k with late := k.late ++ [(j, d)] } else k

/-- Whether the refresh of a channel is its commander's duty (R298). -/
def State.onDuty (s : State) (st ch : Nat) : Bool :=
  match s.commander st ch with
  | some c => (s.ctx c).st.onDuty
  | none => false

/-- A `wtime` deadline moves with chip time (R436). -/
def CtxState.shift (c : CtxState) (d : Int) : CtxState :=
  match c with
  | .blocked (.wtime t) => .blocked (.wtime (t + d).toNat)
  | w => w

/-- Chip time moves by d nanoseconds beyond what has passed, and every deadline of a refresh or a `wtime` with it (R436). -/
def State.moveTime (s : State) (d : Int) : State :=
  let ch (k : Channel) : Channel :=
    { k with deadline := (List.range 4).foldl (fun m j => SMap.set 0 m j (SMap.get 0 k.deadline j + d).toNat) [] }
  { s with
    chip := (s.chip + d).toNat
    links := { s.links with moved := s.links.moved + d }
    stackTab := (List.range 16).foldl (fun m n =>
      let k := SMap.get Stack.init s.stackTab n
      SMap.set Stack.init m n { k with channels := (List.range 32).foldl (fun m c => SMap.set Channel.init m c (ch (SMap.get Channel.init k.channels c))) [] }) []
    ctxs := s.ctxs.map fun e => (e.1, { e.2 with st := e.2.st.shift d, snap := e.2.snap.shift d }) }

/-- Chip time passes at its own rate, and slewing corrects it by at most 100 ppm: one nanosecond in 10,000 (R436). -/
def State.slewed (s : State) (ns : Nat) : State :=
  let s1 := { s with chip := s.chip + ns }
  let l := s.links
  if l.slew = 0 then s1
  else
    let a := l.slewAcc + ns
    let k := min (a / 10000) l.slew.natAbs
    let d : Int := if l.slew < 0 then -k else k
    let s2 : State := { s1 with links := { l with slew := l.slew - d, slewAcc := if l.slew = d then 0 else a - 10000 * k } }
    if k = 0 then s2 else s2.moveTime d

/-- Chip time passes: the sets that it makes late while their commanders are on duty are noted (R298). -/
def State.pass (s : State) (ns : Nat) : State :=
  let s1 := s.slewed ns
  s.stackTab.foldl (fun t e => e.2.channels.foldl (fun t f =>
    if s.onDuty e.1 f.1 then t.onChannel e.1 f.1 fun k => (List.range 4).foldl (Channel.noteLate t.chip) k else t) t) s1

/-- When a commander becomes Ready from another state, the guard first refreshes every set whose deadline falls within 1,000 ns (R299). -/
def State.guardReady (s : State) (c : CtxId) : State :=
  if isS c.core then
    (channelsOf c.core).foldl (fun s ch =>
      if s.commands c ch then
        (List.range 4).foldl (fun s j =>
          if SMap.get 0 (s.channel (stackOf c.core) ch).deadline j ≤ s.chip + 1000 then s.refreshSet (stackOf c.core) ch j else s) s
      else s) s
  else s

/-- THE REFRESH GUARD at one set (R298): in duty it refreshes a set whose deadline has passed, for which the commander's next bundle
raises REFRESH_LATE; else a set whose deadline comes within 500 ns, the open rows being closed and activated again. -/
def execRefreshGuard (stack : BitVec 4) (ch : BitVec 5) (set : BitVec 2) (s : State) : Out :=
  let st := stack.toNat
  let n := ch.toNat
  let d := SMap.get 0 (s.channel st n).deadline set.toNat
  .next (if s.onDuty st n then
      if d < s.chip then (s.onChannel st n fun k => k.noteLate s.chip set.toNat).refreshSet st n set.toNat else s
    else if d ≤ s.chip + 500 then s.refreshSet st n set.toNat else s)

/-! ### Leases (R396, R397, R409, R451) -/

/-- The lease fields that a write may set; a DEGRADED bank reads 0 and ignores a write of 1 (R396). -/
def State.leaseValue (s : State) (st ch : Nat) (v : W64) : W64 :=
  (List.range 16).foldl (fun x b => if ((s.stack st).bank ch b).degraded then setBit x (14 + b) false else x) (v &&& 0x3FFFFFFF)

/-- A write of a lease register starts a handover (R397, R451). -/
def execLeaseWrite (stack : BitVec 4) (ch : BitVec 5) (v : W64) (s : State) : Out :=
  .next (s.onChannel stack.toNat ch.toNat fun k => { k with handover := some (s.leaseValue stack.toNat ch.toNat v) })

/-- The end of a handover (R397): sets due within 1,000 ns are refreshed, every bank is CLOSED, every interval met, and the new value
governs. -/
def execLeaseHandoverEnd (stack : BitVec 4) (ch : BitVec 5) (s : State) : Out :=
  let st := stack.toNat
  let n := ch.toNat
  match (s.channel st n).handover with
  | none => .next s
  | some v =>
    let s1 := (List.range 4).foldl (fun s j =>
      if SMap.get 0 (s.channel st n).deadline j ≤ s.chip + 1000 then s.refreshSet st n j else s) s
    .next (s1.onChannel st n fun k =>
      { k with openRow := [], ractAt := [], rpreAt := [], rstwAt := [], rrefAt := [], racts := [], late := [], lease := v, handover := none })

/-- A write of any value to a bank's mode register clears its error counts (R405). -/
def execModeRegisterWrite (stack : BitVec 4) (ch : BitVec 5) (bank : BitVec 4) (s : State) : Out :=
  .next (s.onBank stack.toNat ch.toNat bank.toNat fun b => { b with ue := 0, ce := 0 })

/-! ### Checks of a row command (R296) -/

/-- The channel of a row command: its stack and stack channel. -/
def State.rowChannel (s : State) (ch : Bool) : Nat × Nat :=
  (stackOf s.cur.core, 2 * withinGroup s.cur.core + (if ch then 1 else 0))

/-- The channel as it stands. -/
def State.rowChan (s : State) (ch : Bool) : Channel := s.channel (s.rowChannel ch).1 (s.rowChannel ch).2

/-- XLATE(leased) of a row command. -/
def rowLeased : Exn := Exn.xlate .leased 0 0 8 0

/-- The lease check: the issuing context commands the channel, and each named bank is leased to it (R293, R396, R451). -/
def State.rowLease (s : State) (ch : Bool) (banks : List Nat) : Option Exn :=
  let k := s.rowChan ch
  when (!(k.handover.isNone && leaseOf? k.lease s.me s.cur && banks.all fun b => k.lease.getLsbD (14 + b))) rowLeased

/-- DRAM_TIMING with its opcode, local channel, bank and interval index (R377). -/
def dramTiming (op : Nat) (ch : Bool) (bank index : Nat) : Exn :=
  Exn.mk .dramTiming (op + (if ch then 2 ^ 8 else 0) + bank * 2 ^ 9) index

/-- The open row of a bank. -/
def Channel.row (k : Channel) (bank : Nat) : Option Nat := SMap.get none k.openRow bank

/-- An interval not yet met: fewer ticks than `lim` since the command at `at_` (R296, R297). -/
def tooSoon (now : Nat) (at_ : Option Nat) (lim : Nat) : Bool :=
  match at_ with
  | some t => decide (now < t + lim)
  | none => false

/-- UNSUPPORTED of a row command on a D-core (R90). -/
def State.rowClass (s : State) (op : Nat) : Option Exn := when (!isS s.cur.core) (Exn.mk .unsupported 8 op)

/-! ### The row commands (R294, R295) -/

def execRact (g : Guard) (ch : Bool) (bank : BitVec 4) (a : BitVec 6) (s : State) : Out :=
  let b := bank.toNat
  slotOp (s.me.guard g)
    (fun s =>
      let k := s.rowChan ch
      let now := s.me.mono
      let bad (i : Nat) := dramTiming 0x10 ch b i
      firstOf
        [ s.rowClass 0x10, s.rowLease ch [b]
        , when (k.row b).isSome (bad 7)
        , when (tooSoon now (SMap.get none k.rpreAt b) 28) (bad 3)
        , when (tooSoon now k.racts.getLast? 8) (bad 4)
        , when (decide (4 ≤ k.racts.length) && tooSoon now k.racts.head? 32) (bad 5)
        , when (tooSoon now (SMap.get none k.rrefAt (b % 4)) 400) (bad 6) ])
    (fun s =>
      let p := s.rowChannel ch
      let now := s.me.mono
      let row := field (s.me.s a) 15 0
      s.onChannel p.1 p.2 fun k =>
        { k with
          openRow := SMap.set none k.openRow b (some row)
          ractAt := SMap.set none k.ractAt b (some now)
          racts := (k.racts ++ [now]).drop (k.racts.length - 3) }) s

/-- The banks that `rpre` closes: the named one, or with `all` every bank, as far as they are open (R295). -/
def preBanks (k : Channel) (all : Bool) (bank : Nat) : List Nat :=
  (if all then List.range 16 else [bank]).filter fun b => (k.row b).isSome

def execRpre (g : Guard) (ch : Bool) (all : Bool) (bank : BitVec 4) (s : State) : Out :=
  slotOp (s.me.guard g)
    (fun s =>
      let k := s.rowChan ch
      let now := s.me.mono
      firstOf
        [ s.rowClass 0x11, s.rowLease ch (if all then preBanks k true 0 else [bank.toNat])
        , (preBanks k all bank.toNat).findSome? fun b => when (tooSoon now (SMap.get none k.ractAt b) 64) (dramTiming 0x11 ch b 1)
        , (preBanks k all bank.toNat).findSome? fun b => when (tooSoon now (SMap.get none k.rstwAt b) 30) (dramTiming 0x11 ch b 2) ])
    (fun s =>
      let p := s.rowChannel ch
      let now := s.me.mono
      s.onChannel p.1 p.2 fun k => (preBanks k all bank.toNat).foldl (fun k b =>
        { k with openRow := SMap.set none k.openRow b none, rpreAt := SMap.set none k.rpreAt b (some now) }) k) s

/-- Checks of `rld` and `rstw`. -/
def State.rowOpen (s : State) (op : Nat) (ch : Bool) (b : Nat) : Option Exn :=
  let k := s.rowChan ch
  firstOf
    [ s.rowClass op, s.rowLease ch [b]
    , when (k.row b).isNone (dramTiming op ch b 7)
    , when (tooSoon s.me.mono (SMap.get none k.ractAt b) 28) (dramTiming op ch b 0) ]

/-- The device address of the open row of a bank. -/
def State.openAddr (s : State) (ch : Bool) (b : Nat) : Nat :=
  let p := s.rowChannel ch
  rowAddr p.1 p.2 b (((s.rowChan ch).row b).getD 0)

/-- A row as a row buffer takes it: 2 KiB with codes and poison bits (R295). -/
def State.rowAt (s : State) (a : Nat) : Memory :=
  (List.range 64).foldl (fun m i => m.setSector (32 * i) (s.atHome ⟨.dev (a + 32 * i), none⟩)) Memory.empty

def execRld (g : Guard) (rb : BitVec 2) (ch : Bool) (bank : BitVec 4) (s : State) : Out :=
  slotOp (s.me.guard g) (fun s => s.rowOpen 0x12 ch bank.toNat)
    (fun s =>
      let a := s.openAddr ch bank.toNat
      let row := s.rowAt a
      (s.noteReads ((List.range 64).map fun i => .dev (a + 32 * i))).onMe fun c => c.land 4 (.rb rb.toNat row) false) s

def execRstw (g : Guard) (rb : BitVec 2) (ch : Bool) (bank : BitVec 4) (s : State) : Out :=
  let b := bank.toNat
  slotOp (s.me.guard g) (fun s => s.rowOpen 0x13 ch b)
    (fun s =>
      let p := s.rowChannel ch
      let a := s.openAddr ch b
      let m := SMap.get Memory.empty s.me.regs.rb rb.toNat
      let now := s.me.mono
      ((List.range 64).foldl (fun s i => s.putHome ⟨.dev (a + 32 * i), none⟩ (m.sector (32 * i))) s).onChannel p.1 p.2 fun k =>
        { k with rstwAt := SMap.set none k.rstwAt b (some now) }) s

def execRref (g : Guard) (ch : Bool) (set : BitVec 2) (s : State) : Out :=
  slotOp (s.me.guard g)
    (fun s =>
      let k := s.rowChan ch
      firstOf
        [ s.rowClass 0x14, s.rowLease ch (setBanks set.toNat)
        , (setBanks set.toNat).findSome? fun b => when (k.row b).isSome (dramTiming 0x14 ch b 7) ])
    (fun s =>
      let p := s.rowChannel ch
      let now := s.me.mono
      (s.onChannel p.1 p.2 fun k => { k with rrefAt := SMap.set none k.rrefAt set.toNat (some now) }).refreshSet p.1 p.2 set.toNat) s

end Sys2Proof.Machine
end

