-- ==== Sys2Proof/Machine/Sync.lean ====
section
/-! DEFINITION. Machine/Sync.lean: the Y slot (R267, R268, R300 to R306) and the events that end its waits (R23). -/

namespace Sys2Proof.Machine

/-! ### Blocking and waking (R22, R23) -/

/-- The context of the bundle in issue blocks. -/
def State.block (s : State) (b : Block) : State :=
  s.onMe fun c => { c with st := .blocked b, blockedAt := (s.core s.cur.core).cycles }

/-! ### Results that land, with the compare of `dup` (R26, R69, R79, R227) -/

/-- Whether a pending compare is due: V0's result and flags must stand in their queues as V1 computed them. -/
def Ctx.unequal (x : Ctx) (d : DupPend) : Bool :=
  d.second.isDue x.regs.tick && !(x.regs.landing.contains d.second &&
    (decide (d.flags = 0) || x.regs.flagQ.contains ⟨d.second.due.getD 0, d.second.iss, d.flags⟩))

/-- Whether a landing entry is V0's result that a compare concerns. -/
def DupPend.concerns (d : DupPend) (l : Landing) : Bool :=
  decide (l.iss = d.second.iss) && decide (l.due = d.second.due) && l.val.isWide && decide (l.val.reg = d.second.val.reg)

/-- Due results become visible. A compare that finds a difference raises SILENT_MISMATCH: the context stops before its next bundle, and
neither V0's result nor its flags are written (R79, R227, R378). Word 3 of the record holds slot 3 and the physical number of V0's destination (log
entry 115). -/
def State.landNow (s : State) (c : CtxId) : State :=
  let x := s.ctx c
  let tick := x.regs.tick
  let rest (x : Ctx) : Ctx := { x with regs := { x.regs with dupQ := x.regs.dupQ.filter fun d => !d.second.isDue tick } }
  match x.regs.dupQ.find? x.unequal with
  | none => s.onCtx c fun x => rest x.landDue
  | some d =>
    let drop (x : Ctx) : Ctx := { x with regs := { x.regs with
      landing := x.regs.landing.filter fun l => !d.concerns l
      flagQ := if d.flags = 0 then x.regs.flagQ
        else x.regs.flagQ.eraseP fun f => decide (some f.due = d.second.due) && decide (f.iss = d.second.iss) } }
    (s.onCtx c fun x => rest (drop x).landDue).suspend c Kind.silentMismatch.code 0 d.bundle x.regs.pc 3 (BitVec.ofNat 64 d.second.val.reg)
      ⟨x.regs.pc, x.regs.redirects, false, false⟩

/-- A context becomes Ready from another state: results due land, one in a retained bank stalling it for 64 cycles, and its channels' sets are
refreshed (R23, R26, R69, R299). -/
def State.wake (s : State) (c : CtxId) : State :=
  let stall := (s.ctx c).wakesBank
  ((s.onCtx c fun x => { x with st := if stall then .stalled (.bank 64) else .ready }).guardReady c).landNow c

/-- Whether no bundle of the context has issued since its last mark, whose shadow stands at the tick that its gap ticks lead to. -/
def Ctx.atMark (c : Ctx) : Bool := decide (c.shadow.tick = c.regs.tick + c.gap)

/-- Applies a function to the landing queue of the registers, and to that of the shadow where `both` holds. -/
def Ctx.onLanding (c : Ctx) (both : Bool) (f : Landing → Landing) : Ctx :=
  let c1 := { c with regs := { c.regs with landing := c.regs.landing.map f } }
  if both then { c1 with shadow := { c1.shadow with landing := c1.shadow.landing.map f } } else c1

/-! ### Rings (R264 to R268) -/

/-- COORD of an unbound ring (R264, R448). -/
def State.unboundRing (s : State) (ring : BitVec 4) (slot : Nat) : Option Exn :=
  when (decide (s.me.ringId ring.toNat = 0)) (Exn.coord ring.toNat 4 slot 0)

/-- The status that an `awaitf` returns enters its place in the landing queue, due now (R267). -/
def Ctx.returnStatus (c : Ctx) (x : W64) : Ctx :=
  c.onLanding true fun l =>
    if l.awaits then
      { l with due := some c.regs.tick, val := match l.val with
          | .s r _ => .s r x
          | v => v }
    else l

/-- The slot at rp is freed (R268). -/
def State.freeSlot (s : State) (id : Nat) : State := s.onRing id Ring.free

/-- Whether a context is blocked on a ring object. -/
def Ctx.waitsOn (c : Ctx) (id : Nat) : Bool :=
  match c.st with
  | .blocked (.awaitf q _) => decide (c.ringId q = id)
  | .blocked (.rels q) => decide (c.ringId q = id)
  | _ => false

/-- The contexts of a core that are blocked on a ring object, in the order in which their bundles issued (R322). -/
def State.ringWaiters (s : State) (core : BitVec 16) (id : Nat) : List CtxId :=
  sortBy (fun c => (s.ctx c).blockKey c) ((ctxsOf core).filter fun c => (s.ctx c).waitsOn id)

/-- The `rels` that a ring object is owed free their slots, where they blocked before `upTo` (R268, R308, R322; log entry 99). -/
def State.payRels (s : State) (id upTo : Nat) : State :=
  if (s.ring id).owed.isEmpty || !(s.ring id).ready then s else s.onRing id fun r => r.pay upTo r.owed

/-- A context blocked on a ring object acts on it, if its oldest slot is FILLED: an `awaitf` returns (R267), a `rels` frees the slot (R268). -/
def State.serve (id : Nat) (s0 : State) (c : CtxId) : State :=
  let s := s0.payRels id ((s0.ctx c).blockKey c)
  let r := s.ring id
  if !r.ready then s
  else match (s.ctx c).st with
    | .blocked (.awaitf _ _) => (s.onCtx c fun k => k.returnStatus r.oldest).wake c
    | .blocked (.rels _) => (s.freeSlot id).wake c
    | _ => s

/-- A time after every bundle of a core so far. -/
def State.endKey (s : State) (core : BitVec 16) : Nat := (s.core core).cycles * 4 + 4

/-- What blocked on a ring object before a bundle of this cycle acts first: the other contexts, and the `rels` that the ring is owed (R322). -/
def State.serveFirst (s : State) (id : Nat) : State :=
  (((s.ringWaiters s.cur.core id).filter fun c => decide (c ≠ s.cur)).foldl (State.serve id) s).payRels id (s.endKey s.cur.core)

def execAwaitf (d : BitVec 6) (ring : BitVec 4) (s0 : State) : Out :=
  slotOp true (fun s => s.unboundRing ring 9)
    (fun s0 =>
      let s := s0.serveFirst (s0.me.ringId ring.toNat)
      let r := s.ring (s.me.ringId ring.toNat)
      if r.ready then s.onMe fun c => c.landS 1 d r.oldest false
      else
        let p := if d = 0 then 0 else s.me.regs.phys d
        (s.onMe fun c => { c with regs := { c.regs with landing := c.regs.landing ++ [⟨none, .s p 0, false, none, c.regs.tick⟩] } }).block
          (.awaitf ring.toNat p)) s0

def execRels (ring : BitVec 4) (s : State) : Out :=
  slotOp true (fun s => s.unboundRing ring 9)
    (fun s0 =>
      let id := s0.me.ringId ring.toNat
      let s := s0.serveFirst id
      if (s.ring id).ready then s.freeSlot id else s.block (.rels ring.toNat)) s

/-- A context blocked on a ring wakes, after those that blocked on it before (R23, R322). -/
def State.serveUpTo (s : State) (c : CtxId) (id : Nat) : State :=
  (((s.ringWaiters c.core id).takeWhile fun k => decide (k ≠ c)) ++ [c]).foldl (State.serve id) s

/-- A blocked `awaitf` whose slot has been filled returns (R23, R267). -/
def execAwaitfWake (c : CtxId) (s : State) : Out :=
  .next (match (s.ctx c).st with
    | .blocked (.awaitf q _) => s.serveUpTo c ((s.ctx c).ringId q)
    | _ => s)

/-- A blocked `rels` whose slot has been filled frees it (R23, R268). -/
def execRelsWake (c : CtxId) (s : State) : Out :=
  .next (match (s.ctx c).st with
    | .blocked (.rels q) => s.serveUpTo c ((s.ctx c).ringId q)
    | _ => s)

/-- The `rels` that a ring is owed act when its oldest slot is FILLED, after the contexts that blocked on it before them (R268, R322; log entry 99). -/
def State.payOwed (s : State) (id : Nat) : State :=
  match (s.ring id).owed with
  | [] => s
  | e :: _ =>
    let before := (s.ringWaiters (BitVec.ofNat 16 e.1) id).takeWhile fun c => decide ((s.ctx c).blockKey c < e.2)
    (before.foldl (State.serve id) s).payRels id (e.2 + 1)

/-- A held completion is posted once its ring has room (R266), which a `rels` that the ring is owed may make. -/
def execHeldCompletionPost (ring : Nat) (s : State) : Out := .next ((s.payOwed ring).onRing ring Ring.unhold)

/-! ### Variable results (R28, R300) -/

/-- The bit of a space in a `waitr` mask. -/
def waitBit : QSpace → Nat
  | .k => 0 | .d => 1 | .m => 2 | .f => 3 | .h => 4

/-- Whether a landing entry is a variable result that a mask covers, of an access numbered below `upTo`. -/
def Landing.covered (mask : BitVec 5) (upTo : Nat) (l : Landing) : Bool :=
  match l.var with
  | some (sp, n) => mask.getLsbD (waitBit sp) && decide (n < upTo)
  | none => false

/-- The queued access of a landing entry. -/
def Ctx.accessOf (c : Ctx) (l : Landing) : Option QAcc :=
  match l.var with
  | some (_, n) => c.queue.find? fun q => decide (q.seq = n)
  | none => none

/-- Whether an access is speculative (R260). -/
def QAcc.spec (q : QAcc) : Bool :=
  match q.kind with
  | .load sp => sp
  | _ => false

/-- Whether an access has been performed. -/
def QAcc.isDone (q : QAcc) : Bool :=
  match q.phase with
  | .done _ _ _ => true
  | _ => false

/-- The fault found in the bytes that a consuming lane takes. -/
def QAcc.bad (q : QAcc) : Option (Nat × Nat × Nat) :=
  match q.phase with
  | .done _ b _ => b
  | _ => none

/-- The location from which a performed access came. -/
def QAcc.home (q : QAcc) : Option Loc :=
  match q.phase with
  | .done _ _ h => h
  | _ => none

/-- The bytes that an access returns: those of the gate over those of memory (R33); a poison result is zero (R260). -/
def QAcc.result (q : QAcc) : List Byte :=
  match q.phase with
  | .done bs bad _ =>
    if q.spec && bad.isSome then []
    else if q.fwd.isEmpty then bs else List.zipWith (fun (f : Option Byte) b => f.getD b) q.fwd bs
  | _ => []

/-- The covered result of an access becomes due (R28): its value, and for a failed speculative load its tag. -/
def Landing.arrive (l : Landing) (q : QAcc) (due : Nat) : Landing :=
  let bs := q.result
  { l with
    due := some due
    tag := q.spec && q.bad.isSome
    val := match l.val with
      | .s r _ => .s r (BitVec.ofNat 64 (ofBytes bs))
      | .v r _ lanes => .v r (BitVec.ofNat 1024 (ofBytes bs)) lanes
      | v => v }

/-- Whether every covered result has arrived. -/
def Ctx.allArrived (c : Ctx) (mask : BitVec 5) (upTo : Nat) : Bool :=
  c.regs.landing.all fun l => !l.covered mask upTo || (match c.accessOf l with
    | some q => q.isDone
    | none => true)

/-- The first covered access, in program order, whose arrived data a consuming lane refuses (R161, R300). -/
def Ctx.badArrival (c : Ctx) (mask : BitVec 5) (upTo : Nat) : Option QAcc :=
  (c.regs.landing.filterMap fun l => if l.covered mask upTo then c.accessOf l else none).find? fun q => !q.spec && q.bad.isSome

/-- The covered results become due at a tick, in the shadow too when the `waitr` stands at the last mark (R28, R32). -/
def Ctx.arriveAll (c : Ctx) (mask : BitVec 5) (upTo due : Nat) (both : Bool) : Ctx :=
  c.onLanding both fun l =>
    if l.covered mask upTo then
      match c.accessOf l with
      | some q => l.arrive q due
      | none => { l with due := some due }
    else l

def execWaitr (spaces : BitVec 5) (s : State) : Out :=
  slotOp true noCheck
    (fun s =>
      let c := s.me
      if c.allArrived spaces c.seq && (c.badArrival spaces c.seq).isNone then
        s.onMe fun c => c.arriveAll spaces c.seq (c.regs.tick + 1) false
      else s.block (.waitr spaces c.seq c.regs.pc)) s

/-- An uncorrectable error of a row that a consuming lane met in the sector of an address of space code 3: a bad code, or one that stands in a cell
(R407). -/
def State.noteConsumed (s : State) (reason space a : Nat) : State :=
  if space = 3 && (reason = 15 || s.cellBad a) then s.meetUe a else s

/-- Results arrive at a blocked `waitr` (R300): a bad one loses the context, and once all have arrived they land at its tick + 1. -/
def execVariableResultArrive (c : CtxId) (s : State) : Out :=
  let x := s.ctx c
  .next (match x.st with
    | .blocked (.waitr mask upTo bundle) =>
      match x.badArrival mask upTo with
      | some q =>
        match q.phase with
        | .done _ (some (f, sp, a)) home => (s.noteConsumed f sp a).lose c f bundle (lostWord sp a) home
        | _ => s
      | none =>
        if x.allArrived mask upTo then (s.onCtx c fun k => k.arriveAll mask upTo k.regs.tick k.atMark).wake c
        else s
    | _ => s)

/-! ### `fence` (R167, R301) -/

/-- A fence takes a number among its context's accesses, with its scope, while something issued before it has not performed. R167 and R301 do not say
on which side the accesses of the fence's own bundle stand; here they are before it, as for `waitr` (R300, log entry 72). -/
def execFence (scope : Scope) (s : State) : Out :=
  slotOp true noCheck (fun s =>
    let waits := (s.core s.cur.core).writes.any fun w => w.of s.cur.slot s.me.bid
    s.onMe fun c =>
      if waits || c.queue.any (fun q => !q.isDone) then { c with fences := c.fences ++ [(c.seq, scope)], seq := c.seq + 1 } else c) s

/-! ### Barriers (R302) -/

/-- The key of a barrier: of the core, or of its cluster or stack. -/
def barKey (core : BitVec 16) (cluster : Bool) (id : Nat) : Nat :=
  if cluster then 2 ^ 24 + groupOf core * 16 + id else core.toNat * 16 + id

/-- The groups of a barrier: the filling phase, then those that wait. -/
def State.barrier (s : State) (k : Nat) : List BarGroup := SMap.get [] s.barriers k

/-- Replaces the groups of a barrier. -/
def State.setBarrier (s : State) (k : Nat) (l : List BarGroup) : State := { s with barriers := SMap.set [] s.barriers k l }

/-- The group that an arrival of an ASID joins: the first of its ASID that is not full. -/
def barJoin (l : List BarGroup) (asid : BitVec 11) : Option BarGroup :=
  l.find? fun g => decide (g.asid = asid) && decide (g.arrived < g.count)

/-- The blocking condition of a context, also of one that was snapshotted while it was blocked. -/
def Ctx.blockedOn (c : Ctx) : Option Block :=
  match c.st, c.snap with
  | .blocked b, _ => some b
  | .preempted, .blocked b => some b
  | _, _ => none

/-- Whether the context of an arrival still holds its binding. -/
def State.stands (s : State) (a : Arrival) : Bool := decide ((s.ctx a.ctx).bid = a.bid)

/-- Whether every queued access that the arrivals of a phase release has performed (R166, R302): an arrival stands through pre-emption, rollback and
loss of its context. -/
def State.barReleased (s : State) (g : BarGroup) : Bool :=
  g.from_.all fun a => !s.hasLeft a.ctx a.bid a.seq &&
    (!s.stands a || (s.ctx a.ctx).queue.all fun q => decide (a.seq ≤ q.seq) || q.isDone)

/-- The core-store writes before a phase's arrivals become visible to every party: an arrival is a release (R166, R302). -/
def State.barPublish (s : State) (g : BarGroup) : State :=
  g.from_.foldl (fun s a => if s.stands a then s.publish a.ctx a.seq else s) s

/-- The contexts that wait for a phase. -/
def State.barWaiters (s : State) (key phase : Nat) : List CtxId :=
  (s.ctxs.filter fun e => decide (e.2.st = .blocked (.bar key phase))).map fun e => ctxOfKey e.1

/-- Phases of a barrier that have all their arrivals end, in order, and their contexts become Ready. -/
def State.openBarrier (s : State) (key : Nat) : List BarGroup → State
  | [] => s.setBarrier key []
  | g :: r =>
    if g.arrived = g.count && s.barReleased g then
      ((s.barWaiters key g.id).foldl State.wake (s.barPublish g)).openBarrier key r
    else s.setBarrier key (g :: r)

/-- Every barrier whose phase can end does so: after an arrival, and after an access that an arrival had to wait for. -/
def State.openBarriers (s : State) : State := (s.barriers.map (·.1)).foldl (fun s k => s.openBarrier k (s.barrier k)) s

/-- ILLEGAL_BUNDLE of a slot in a phase (R377). -/
def illegalBundle (slot phase : Nat) : Exn := Exn.mk .illegalBundle (slot + phase * 2 ^ 4) 0

/-- The count that a `bar` may have on an S-core (R302). -/
def barCountOk (core : BitVec 16) (cluster : Bool) (count1 : BitVec 12) : Bool :=
  !(isS core && cluster) || decide (count1.toNat < 64)

def execBar (cluster : Bool) (id : BitVec 4) (count1 : BitVec 12) (s : State) : Out :=
  slotOp true
    (fun s =>
      let key := barKey s.cur.core cluster id.toNat
      firstOf
        [ when (!barCountOk s.cur.core cluster count1) (illegalBundle 9 3)
        , match barJoin (s.barrier key) s.me.asid with
          | some g => when (decide (g.count ≠ count1.toNat + 1)) (illegalBundle 9 7)
          | none => none ])
    (fun s =>
      let key := barKey s.cur.core cluster id.toNat
      let l := s.barrier key
      let me : Arrival := ⟨s.cur, s.me.bid, s.me.seq⟩
      match barJoin l s.me.asid with
      | some g =>
        (s.setBarrier key (l.map fun x => if x.id = g.id then { x with arrived := x.arrived + 1, from_ := x.from_ ++ [me] } else x)).block (.bar key g.id)
      | none =>
        let f := s.fresh
        (f.2.setBarrier key (l ++ [⟨f.1, s.me.asid, count1.toNat + 1, 1, [me]⟩])).block (.bar key f.1)) s

/-! ### `tend`, `yield`, `ckeq`, `wtime` (R303 to R306) -/

def execTend (s : State) : Out := slotOp true noCheck (fun s => s.block .tend) s

def execYield (n1 : BitVec 6) (s : State) : Out :=
  slotOp true noCheck (fun s => s.onMe fun c => { c with yieldLeft := n1.toNat + 1 }) s

/-- Whether the registers that `ckeq` names hold one value, poison tags ignored (R305). -/
def Ctx.same (c : Ctx) (pred : Bool) (a b : BitVec 6) : Bool :=
  if pred then c.p (a.truncate 4) == c.p (b.truncate 4) else decide (c.s a = c.s b)

def execCkeq (pred : Bool) (a b : BitVec 6) (s : State) : Out :=
  slotOp true (fun s => when (!s.me.same pred a b) (Exn.mk .silentMismatch 9 a.toNat)) id s

def execWtime (a : BitVec 6) (rel : Bool) (s : State) : Out :=
  slotOp true (fun s => s.me.tagged 9 a)
    (fun s =>
      let d := (s.me.s a).toNat + (if rel then s.chip else 0)
      if d ≤ s.chip then s else s.block (.wtime d)) s

/-- A chip-time deadline is reached (R23, R306). -/
def execWtimeDeadline (c : CtxId) (s : State) : Out :=
  .next (match (s.ctx c).st with
    | .blocked (.wtime d) => if d ≤ s.chip then s.wake c else s
    | _ => s)

end Sys2Proof.Machine
end

