-- ==== Sys2Proof/Machine/Access.lean ====
section
/-! DEFINITION. Machine/Access.lean: what becomes of queued accesses after their issue: walks (R137, R140, R252, R386), the release of gated
stores (R32, R388, R426), and performance in queue order under acquires, releases, fences, deck partitions and handovers (R133, R166,
R167, R197, R258, R451). -/

namespace Sys2Proof.Machine

/-! ### Walks -/

/-- What an access does to its home. -/
def QAcc.need (q : QAcc) : Need :=
  match q.kind with
  | .load _ => .read
  | .store => .write
  | .amo _ _ _ _ => .both

/-- The slot that issued an access. -/
def QAcc.slot (q : QAcc) : Nat :=
  match q.kind with
  | .load _ => 6
  | _ => 7

/-- Bytes of an access. -/
def QAcc.len (q : QAcc) : Nat :=
  match q.kind with
  | .amo _ small _ _ => if small then 4 else 8
  | _ => q.bytes.length

/-- Whether an access waits for its translation. -/
def QAcc.isQueued (q : QAcc) : Bool := decide (q.phase = .queued)

/-- Whether a context has an access that a mark waits for: a queued access or a gated store without a translation (R32). -/
def Ctx.untranslated (c : Ctx) : Bool := c.queue.any QAcc.isQueued || c.gate.any fun g => !g.walked

/-- Replaces an access of a queue by its number. -/
def Ctx.setAccess (c : Ctx) (n : Nat) (f : QAcc → QAcc) : Ctx := { c with queue := c.queue.map fun q => if q.seq = n then f q else q }

/-- The layout unit keeps what it walked: the tensor-table entry and the tile-table entry (R386). -/
def State.keepWalk (s : State) (e : CachedEntry) : State :=
  let tw := s.tensorWords e.asid e.tensor
  (s.keep ⟨e.asid, e.tensor, none, tw⟩).keep e

/-- A phase of R22 in which a translation fault suspends the context: not while it is Suspended, Pre-empted or Lost (R376). R23 lists the fault from
Ready, Running and Stalled alone; a Blocked context is suspended too here, as R35 and R300 have it (log entry 74). -/
def CtxState.canFault : CtxState → Bool
  | .ready | .running | .stalled _ | .blocked _ => true
  | _ => false

/-- Whether an access has a variable result: a load or an `amo`. -/
def QAcc.results (q : QAcc) : Bool :=
  match q.kind with
  | .store => false
  | _ => true

/-- A translation fault of a queued access: a speculative load becomes poison (R260), one whose result a draining `tend` discards raises nothing
(R303), any other rolls its context back (R35). -/
def State.accessFault (s : State) (c : CtxId) (q : QAcc) (e : Exn) : State :=
  if q.spec then s.onCtx c fun x => x.setAccess q.seq fun q => { q with phase := .done [] (some (0, 7, 0)) none }
  else if decide ((s.ctx c).st = .blocked .tend) && q.results then s.onCtx c fun x => x.setAccess q.seq fun q => { q with phase := .done [] none none }
  else if (s.ctx c).st.canFault then
    match e with
    | .fault k sub w2 w3 => s.translation c q.bundle k sub w2 w3
    | .lost _ _ _ _ => s
  else s

/-- A translation fault of a gated store, at its own bundle (R35, R252). -/
def State.gateFault (s : State) (c : CtxId) (g : GateEntry) (e : Exn) : State :=
  if (s.ctx c).st.canFault then
    match e with
    | .fault k sub w2 w3 => s.translation c g.bundle k sub w2 w3
    | .lost _ _ _ _ => s
  else s

/-- A mark that waited for walks can issue once every access before it is translated (R32). -/
def State.endWalks (s : State) (c : CtxId) : State :=
  if (s.ctx c).st = .stalled .walks && !(s.ctx c).untranslated then (s.onCtx c fun x => { x with st := .ready }).guardReady c else s

/-- The oldest access of a context that waits for its translation: a queued access, or a gated store. -/
def Ctx.nextWalk (c : Ctx) : Option (QAcc ⊕ GateEntry) :=
  match c.queue.find? QAcc.isQueued, c.gate.find? fun g => !g.walked with
  | none, none => none
  | some q, none => some (.inl q)
  | none, some g => some (.inr g)
  | some q, some g => some (if q.seq < g.seq then .inl q else .inr g)

/-- The first gated store that waits for its translation has passed it. -/
def passGate : List GateEntry → List GateEntry
  | [] => []
  | g :: gs => if g.walked then g :: passGate gs else { g with walked := true } :: gs

/-- The walk of a context's oldest untranslated access completes (R32, R252). An access to a channel in handover stays held (R451). A gated store
is located again at its release (R388). -/
def execTranslationWalkDone (c : CtxId) (s : State) : Out :=
  .next (match (s.ctx c).nextWalk with
    | none => s
    | some (.inr g) =>
      match s.resolveAt (s.who c) g.bank g.target g.bytes.length 7 .write with
      | .error e => (s.gateFault c g e).endWalks c
      | .ok (l, e) =>
        if s.handover l.place then s
        else
          let s1 := match e with
            | some x => s.keepWalk x
            | none => s
          (s1.onCtx c fun x => { x with gate := passGate x.gate }).endWalks c
    | some (.inl q) =>
      match s.resolveAt (s.who c) q.bank q.target q.len q.slot q.need with
      | .error e => (s.accessFault c q e).endWalks c
      | .ok (l, e) =>
        if s.handover l.place then s
        else
          let s1 := match e with
            | some x => s.keepWalk x
            | none => s
          (s1.onCtx c fun x => x.setAccess q.seq fun q => { q with phase := .walked l e }).endWalks c)

/-! ### The release of the gate (R32, R388, R426) -/

/-- The first translation fault among the gated stores at their releasing mark (R388). -/
def State.releaseFault (s : State) (c : CtxId) : Option Exn :=
  (s.ctx c).gate.findSome? fun e => if e.gone then none else resError (s.resolveAt (s.who c) e.bank e.target e.bytes.length 7 .write)

/-- A gated store enters its queue; one that a shrinking `dpset` has performed has no effect and raises nothing (R426). -/
def State.releaseOne (s : State) (c : CtxId) (e : GateEntry) : State :=
  if e.gone then s
  else
    match s.resolveAt (s.who c) e.bank e.target e.bytes.length 7 .write with
    | .ok l => s.onCtx c fun x =>
        x.enqueue ⟨0, e.bundle, .store, e.target, e.bytes, [], false, 0, e.order, e.scope, e.part, e.bank, .walked l.1 l.2, []⟩
    | .error _ => s

/-- Every gated store is released to its queue, in program order (R32). -/
def State.releaseGate (s : State) (c : CtxId) : State :=
  ((s.ctx c).gate.foldl (fun s e => s.releaseOne c e) s).onCtx c fun x => { x with gate := [] }

/-! ### The fork of a command (R168) -/

/-- Whether the context that issued a command still holds the binding that it had then. -/
def State.owns (s : State) (k : Cmd) : Bool := decide ((s.ctx k.ctx).bid = k.owner)

/-- Whether an access is an acquire load. One that has not performed when a command issues is covered by no `waitr` before the command, which is
then not program-ordered after it (R258, R337). -/
def QAcc.acquireLoad (q : QAcc) : Bool := decide (q.order = .acquire) && !q.unwritten

/-- Whether every queued access program-ordered before a command has performed (R168, R258), also where its context has left its slot. -/
def State.forked (s : State) (k : Cmd) : Bool :=
  !s.hasLeft k.ctx k.owner k.after &&
    (!s.owns k || (s.ctx k.ctx).queue.all fun q => decide (k.after ≤ q.seq) || q.isDone || q.acquireLoad)

/-- The state in which a forked command acts: the core-store writes of its context that come before it are visible to it (R168). -/
def State.atFork (s : State) (k : Cmd) : State := if s.owns k then s.publish k.ctx k.after else s

/-! ### Performance (R133, R166, R167, R197, R258) -/

/-- The rank of a scope: each contains those before it (R165). -/
def scopeRank : Scope → Nat
  | .context => 0 | .core => 1 | .cluster => 2 | .die => 3 | .package => 4 | .system => 5

/-- The wider of two scopes. -/
def widerScope (a b : Scope) : Scope := if scopeRank a ≤ scopeRank b then b else a

/-- The scopes at which earlier accesses of the context hold an access back: an acquire, anything before a release, and anything before a fence that
stands between them. A scope of the context alone has no other party in it (R165), and the context's own view is that of its queues (R133). -/
def Ctx.orders (x : Ctx) (q : QAcc) : List Scope :=
  ((x.queue.filter fun p => decide (p.seq < q.seq) && !p.isDone).flatMap fun p =>
    (if p.order = .acquire then [p.scope] else []) ++ (if q.order = .release then [q.scope] else []) ++
      (x.fences.filter fun f => decide (p.seq < f.1) && decide (f.1 ≤ q.seq)).map (·.2)).filter fun sc => decide (sc ≠ .context)

/-- The widest scope at which an access is held back; none where nothing holds it. -/
def Ctx.heldAt (x : Ctx) (q : QAcc) : Option Scope :=
  match x.orders q with
  | [] => none
  | a :: r => some (r.foldl widerScope a)

/-- Whether a deck-store access issued after a `dpset` waits for its completion (R197). -/
def State.deckHeld (s : State) (g part : Nat) : Bool :=
  s.cmds.any fun k => match k.job with
    | .dpset h _ _ i => decide (h = g) && decide (i < part)
    | _ => false

/-- The 128-byte line of a place: no access crosses one (R131). -/
def Place.line : Place → Nat × Nat × Nat
  | .core c off => (0, c, coreOff (BitVec.ofNat 16 c) off / 128)
  | .deck g off => (1, g, off / 128)
  | .dev a => (2, 0, a / 128)
  | .peer p a => (3, p, a / 128)
  | .host b _ off => (4, 0, (b + off) / 128)
  | .const _ _ _ => (5, 0, 0)

/-- Whether an access comes next of its queue, as far as its own context can tell (R133): every earlier one has performed, or lies in another
line. Other parties see the accesses of a queue in any order that R162 and R166 permit. -/
def Ctx.isNext (c : Ctx) (q : QAcc) (l : Loc) : Bool :=
  c.queue.all fun p => decide (q.seq ≤ p.seq) || decide (p.target.space ≠ q.target.space) || (match p.phase with
    | .done _ _ _ => true
    | .walked k _ => decide (k.place.line ≠ l.place.line)
    | .queued => false)

/-- Whether the place of an access lets it perform: no handover of its channel, and no `dpset` before it that has not completed (R197, R451). -/
def State.isOpen (s : State) (c : CtxId) (q : QAcc) (l : Loc) : Bool :=
  (!q.taken.isEmpty || !s.handover l.place) && (match q.target with
    | .d _ => !s.deckHeld (groupOf c.core) q.part
    | _ => true)

/-- Whether the lease of its place stops an access (R398). One of whose sectors some have performed has passed that check (log entry 108). -/
def State.leaseStops (s : State) (q : QAcc) (l : Loc) : Bool := q.taken.isEmpty && s.leasedNow l.place

/-- Whether every earlier access of a context could perform at once, one after another. -/
def State.clearBefore (s : State) (c : CtxId) (q : QAcc) : Bool :=
  (s.ctx c).queue.all fun p => decide (q.seq ≤ p.seq) || (match p.phase with
    | .done _ _ _ => true
    | .walked l _ => s.isOpen c p l && !s.leaseStops p l
    | .queued => false)

/-- Whether an access may perform now. What holds it at a scope binds the parties of that scope alone (R165): it may perform before what it follows
there, if that can still happen before any of them acts (log entry 13). -/
def State.mayPerform (s : State) (c : CtxId) (q : QAcc) (l : Loc) : Bool :=
  (s.ctx c).isNext q l && s.isOpen c q l && (match (s.ctx c).heldAt q with
    | none => true
    | some sc => decide (sc ≠ .system) && s.clearBefore c q && !s.leaseStops q l)

/-- An access that may perform, with its place, the table entry that its walk used, and the scope of what it performs ahead of. -/
structure Due where
  acc : QAcc
  loc : Loc
  entry : Option CachedEntry
  ahead : Option Scope
deriving DecidableEq, Repr

/-- The accesses of one queue that may perform now, the oldest first. -/
def State.dueAccesses (s : State) (c : CtxId) (sp : QSpace) : List Due :=
  (s.ctx c).queue.filterMap fun q => match q.phase with
    | .walked l e => if decide (q.target.space = sp) && s.mayPerform c q l then some ⟨q, l, e, (s.ctx c).heldAt q⟩ else none
    | _ => none

/-- What an access has to be preceded by: before a release every core-store write of its context, and before an access behind a fence those
that the fence orders (R166, R167), where the scope has another party in it (R165). -/
def State.publishFor (s : State) (c : CtxId) (q : QAcc) : State :=
  let s1 := if decide (q.order = .release) && decide (q.scope ≠ .context) then s.publish c q.seq else s
  ((s1.ctx c).fences.filter fun f => decide (f.1 ≤ q.seq) && decide (f.2 ≠ .context)).foldl (fun s f => s.publish c f.1) s1

/-- The sectors of an access that have not performed yet: an access of 128 bytes has four, any other lies within one (R131, R134). -/
def QAcc.sectorsLeft (q : QAcc) : List Nat := (List.range (max 1 (q.len / 32))).filter fun k => !q.taken.any fun t => decide (t.1 = k)

/-- Sector k of an access: its location, and the bytes of a store that fall into it. -/
def Loc.piece (l : Loc) (k : Nat) : Loc := if k = 0 then l else l.plus (32 * k)
def QAcc.bytesOf (q : QAcc) (k : Nat) : List Byte := (q.bytes.drop (32 * k)).take 32

/-- Sector k of a load or store performs: the state, and what has been read (R134). -/
def State.performSector (s : State) (die : Bool) (q : QAcc) (l : Loc) (k : Nat) : State × List Byte × Option (Nat × Nat × Nat) :=
  let p := l.piece k
  match q.kind with
  | .load _ =>
    let r := s.loadBytes die (decide (q.target.space = .k)) p (min 32 q.len) fun j => ((q.fwd[32 * k + j]?).join).isNone
    (s.noteAccess die [p.place], r.1, r.2)
  | _ => ((if (q.bytesOf k).length = 32 then s else s.noteAccess die [p.place]).storeBytes die p (q.bytesOf k), [], none)

/-- What a load has found once its last sector has performed: its bytes, and the fault of the lowest faulty sector (R161). -/
def QAcc.found (taken : List (Nat × List Byte × Option (Nat × Nat × Nat))) : List Byte × Option (Nat × Nat × Nat) :=
  let l := sortBy (·.1) taken
  (l.flatMap (·.2.1), l.findSome? (·.2.2))

/-- Some sectors of a load or store perform, one after another; with the last of them the access has performed. -/
def State.performSectors (s : State) (c : CtxId) (q : QAcc) (l : Loc) (ks : List Nat) : State :=
  let r := ks.foldl (fun (a : State × List (Nat × List Byte × Option (Nat × Nat × Nat))) k =>
    let p := a.1.performSector (dieOf c.core) q l k
    (p.1, a.2 ++ [(k, p.2)])) (s, q.taken)
  if q.sectorsLeft.all ks.contains then
    match q.kind with
    | .load _ => r.1.onCtx c fun x => x.setAccess q.seq fun q =>
        { q with taken := [], phase := .done (QAcc.found r.2).1 (QAcc.found r.2).2 (some l) }
    | _ => r.1.onCtx c fun x => { x with queue := x.queue.filter fun p => decide (p.seq ≠ q.seq) }
  else r.1.onCtx c fun x => x.setAccess q.seq fun q => { q with taken := r.2 }

/-- Performs an access at its home: the sectors `ks` of a load or store; an `amo` whole. -/
def State.performAt (s : State) (c : CtxId) (q : QAcc) (l : Loc) (ks : List Nat) : State :=
  let die := dieOf c.core
  let viaK := decide (q.target.space = .k)
  match q.kind with
  | .amo op small v expect =>
    let h := s.hostRefuses l.place
    if h.1 then
      let a := l.place.record viaK
      h.2.onCtx c fun x => x.setAccess q.seq fun q => { q with phase := .done [] (some (16, a.1, a.2 / 32 * 32)) none }
    else
      let r := (h.2.noteAccess die [l.place]).atomic die viaK l op small v expect
      r.2.2.onCtx c fun x => x.setAccess q.seq fun q => { q with phase := .done r.1 r.2.1 (some l) }
  | _ => s.performSectors c q l ks

/-- Fences that hold nothing back any longer are forgotten. -/
def State.dropFences (s : State) (c : CtxId) : State :=
  let ws := (s.core c.core).writes.filter fun w => w.of c.slot (s.ctx c).bid
  let waits (x : Ctx) (f : Nat × Scope) : Bool := x.queue.any (fun q => decide (q.seq < f.1) && !q.isDone) || ws.any fun w => decide (w.seq ≤ f.1)
  s.onCtx c fun x => { x with fences := x.fences.filter (waits x) }

/-- Port n. -/
def State.port (s : State) (n : Nat) : Port := SMap.get Port.init s.links.ports n

/-- Whether some port is LIVE: only a LIVE port carries Dovetail traffic (R431). -/
def State.onPod (s : State) : Bool := (List.range 36).any fun n => decide ((s.port n).state = 3)

/-- The package that a signal names. -/
def sigPackage (kind : Bool) (p : W64) : Nat := if kind then field p 29 22 else field p 7 0

/-- Whether traffic for a package can leave: it is this one, or some port is LIVE whose switch the table shows live at that package (R286, R429,
R431). -/
def State.reaches (s : State) (p : Nat) : Bool :=
  (s.links.selfValid && decide (p = s.links.self.toNat)) ||
    (List.range 36).any fun i => decide ((s.port i).state = 3) && (SMap.get 0 s.links.live p).getLsbD i

/-- A signal that waits for what its `csig` forks from is sent once that has happened, over a live link where its target is another package (R168,
R286, R431). -/
def State.sendSignals (s : State) : State :=
  s.cmds.foldl (fun s k => match k.job with
    | .csig g ack false r =>
      if s.forked k && s.reaches (sigPackage g.ring g.target) then
        let s1 := s.atFork k
        { s1 with
          cmds := s1.cmds.map fun (o : Cmd) => if o.id = k.id then { o with job := .csig g ack true r } else o
          out := s1.out ++ [.signal k.id g] }
      else s
    | _ => s) s

/-- What a performed access lets happen: fences and core-store writes that waited for it, barriers and signals. -/
def State.afterAccess (s : State) (c : CtxId) : State := ((s.coreWrites c false).dropFences c).openBarriers.sendSignals

/-- The accesses of every queue that nothing holds back, in channels that are not leased. -/
def State.dueFree (s : State) (c : CtxId) : List Due :=
  ([.k, .d, .m, .f, .h].flatMap (s.dueAccesses c)).filter fun d => d.ahead.isNone && !s.leaseStops d.acc d.loc

/-- What lies before number n is still to follow, before any party of a scope acts. -/
def Ctx.goAhead (x : Ctx) (n : Nat) (sc : Scope) : Ctx :=
  { x with early := some (match x.early with
      | none => (n, sc)
      | some e => (max e.1 n, widerScope e.2 sc)) }

/-- The last writes of a completed copy reach every party. -/
def State.layTrail (s : State) (t : Trail) : State :=
  let die := dieOf t.core
  t.writes.foldl (fun s w => s.writeSector die w.loc (s.pendSector die t.computing t.grain w) (w.mask t.grain)) s

/-- Those of the copies that satisfy `p` do. -/
def State.settleTrails (s : State) (p : Trail → Bool) : State :=
  if s.trails.any p then (s.trails.filter p).foldl State.layTrail { s with trails := s.trails.filter fun t => !p t } else s

/-- Before an access of a core performs, what the core's contexts may have joined (R169): a load or `amo` finds it, and a release puts it before itself
for the parties of its scope (R166). -/
def State.trailsBefore (s : State) (c : CtxId) (q : QAcc) : State :=
  let mine (t : Trail) : Bool := decide (t.core = c.core)
  if q.kind ≠ .store then s.settleTrails mine
  else if decide (q.order = .release) && decide (q.scope ≠ .context) && s.trails.any mine then
    { s with trails := s.trails.map fun t => if mine t then { t with seen := some ((t.seen.map (widerScope q.scope)).getD q.scope) } else t }
  else s

/-- Sectors of an access perform, with what has to come before them and what the access lets happen. One that performs ahead of what it follows at a
scope leaves that to come before any party of the scope acts (R165, log entry 13). -/
def State.performDue (s : State) (c : CtxId) (d : Due) (ks : List Nat) : State :=
  let s0 := s.trailsBefore c d.acc
  match d.ahead with
  | none => ((s0.publishFor c d.acc).performAt c d.acc d.loc ks).afterAccess c
  | some sc => ((s0.performAt c d.acc d.loc ks).onCtx c fun x => x.goAhead d.acc.seq sc).afterAccess c

/-- The accesses of a context before its access number n perform, one after another. -/
def State.catchUp (s : State) (c : CtxId) (n : Nat) : Nat → State
  | 0 => s
  | k + 1 =>
    match (s.dueFree c).find? fun d => decide (d.acc.seq < n) with
    | none => s
    | some d => (s.performDue c d d.acc.sectorsLeft).catchUp c n k

/-- What an access has performed ahead of follows it. -/
def State.settleEarly (s : State) (c : CtxId) (n : Nat) : State :=
  (((s.catchUp c n (s.ctx c).queue.length).publish c n).onCtx c fun x => { x with early := none }).afterAccess c

/-- The number below which everything lies that some orders have before them. -/
def beforeAll (l : List (Nat × Scope)) : Nat := (l.map (·.1)).foldl max 0

/-- What a core-store read that issues now has to follow performs, as far as it can, and core-store writes that a fence has before it are visible to
the others (R166, R167). -/
def State.beforeRead (s : State) (c : CtxId) : State :=
  let x := s.ctx c
  (x.fences.filter fun f => decide (f.2 ≠ .context)).foldl (fun s f => s.publish c f.1)
    (s.catchUp c (beforeAll (x.holdersAt x.seq)) x.queue.length)

/-- Whether an earlier store or `amo` that cannot perform yet keeps a core-store read from issuing (R166, R167; log entry 75). -/
def State.readHeld (s : State) (c : CtxId) : Bool :=
  let x := s.ctx c
  !(x.holdersAt x.seq).isEmpty && !(((s.beforeRead c).ctx c).holdersAt x.seq).isEmpty

/-- Before core-store writes of a context take effect at their tick, what they follow performs, if it can: at once where the scope of the order is
system, and for a narrower one before any party of it acts (R163, R165 to R167; log entries 13 and 75). -/
def State.meetWrites (s : State) (c : CtxId) : State :=
  let x := s.ctx c
  let due := (s.core c.core).writes.filter fun w => w.of c.slot x.bid && decide (w.due ≤ x.regs.tick)
  match due.flatMap x.holders with
  | [] => s
  | h :: r =>
    let n := beforeAll (h :: r)
    let sc := (r.map (·.2)).foldl widerScope h.2
    let t := s.catchUp c n x.queue.length
    if due.any (t.ctx c).fenced then s
    else if sc = .system then t
    else (s.takeEffect c due.contains).onCtx c fun x => x.goAhead n sc

/-- Some of several things that may happen in any order, and those that are left, by free choices (log entry 8). -/
def State.portion {α : Type} (s : State) (ws : List α) : (List α × List α) × State :=
  let p := s.pick (List.range ws.length)
  let i := p.1.getD 0
  let l := ws.drop i ++ ws.take i
  let q := p.2.pick ((List.range ws.length).map (ws.length - ·))
  let n := q.1.getD 0
  ((l.take n, l.drop n), q.2)

/-- An access of one queue performs (R133), when nothing holds it: the next one, or where the manual leaves the order open, one of several; of a
128-byte access one sector or more (R134). One that waited for a handover is checked against the new lease (R398, R451). -/
def execQueuedAccessPerform (c : CtxId) (sp : QSpace) (s : State) : Out :=
  .next (match s.pick (s.dueAccesses c sp) with
    | (none, t) => t
    | (some d, t) =>
      if t.leaseStops d.acc d.loc then
        let n := match d.entry with
          | some e => (e.tensor, e.tile.getD 0)
          | none => (0, 0)
        t.accessFault c d.acc (Exn.xlate .leased n.1 n.2 d.acc.slot 0)
      else
        let p := t.portion d.acc.sectorsLeft
        p.2.performDue c d p.1.1)

/-! ### What contexts have left (R35, R36, R302, R366; log entry 94) -/

/-- Whether one of a binding's accesses has to follow an earlier one that is still to come. -/
def Orphan.follows (o p : Orphan) : Bool :=
  decide (o.ctx = p.ctx) && decide (o.bid = p.bid) &&
    (decide (o.acc.order = .release) || decide (p.acc.order = .acquire) || decide (o.loc.place.line = p.loc.place.line))

/-- A left store or `amo` performs at its home. -/
def State.performOrphan (s : State) (o : Orphan) : State :=
  let die := dieOf o.ctx.core
  match o.acc.kind with
  | .load _ => s
  | .store => o.acc.sectorsLeft.foldl (fun s k => (s.performSector die o.acc o.loc k).1) s
  | .amo op small v e =>
    let h := s.hostRefuses o.loc.place
    if h.1 then h.2 else ((h.2.noteAccess die [o.loc.place]).atomic die (decide (o.acc.target.space = .k)) o.loc op small v e).2.2

/-- The core-store writes that contexts have left take effect, once what they follow has performed. -/
def State.publishLeft (s : State) : State :=
  s.cores.foldl (fun t e =>
    let core := BitVec.ofNat 16 e.1
    let go (w : CoreWrite) : Bool := decide (w.after ≠ 0) && !t.hasLeft ⟨core, w.slot⟩ w.bid w.after
    if e.2.writes.any go then t.onCore core fun k =>
      let k1 := k.publish core go
      ({ k1 with layers := k1.layers.map fun l => match l with
          | .write w b => .write w (b && decide (w.after = 0))
          | l => l } : Core).sink core
    else t) s

/-- Every access that contexts have left performs, but for one whose place is held or leased, and one that follows such an access. -/
def State.performLeft (s : State) : State :=
  (s.orphans.foldl (fun (t : State) (o : Orphan) =>
    if !t.isOpen o.ctx o.acc o.loc || t.leaseStops o.acc o.loc || t.orphans.any o.follows then { t with orphans := t.orphans ++ [o] }
    else t.performOrphan o) { s with orphans := [] }).publishLeft

/-- An uncorrectable error in a register, tile or latch loses the context (R380, R381). -/
def execRegisterUe (c : CtxId) (s : State) : Out :=
  .next (if (s.ctx c).st = .unbound then s else s.lose c 32 0xFFFFFFFF 0 none)

end Sys2Proof.Machine
end

