-- ==== Sys2Proof/Machine/Supervisor.lean ====
section
/-! DEFINITION. Machine/Supervisor.lean: what every engine command shares (acceptance, the fork of R168, completions of R265), write-back and
eviction of deck blocks (R150, R151), and the privileged operations `dpset`, `ttinv`, `ownset` with the events that finish them (R196 to
R199, R386, R387, R425, R426). -/

namespace Sys2Proof.Machine

/-! ### Commands (R168, R264 to R266, R270) -/

/-- A command of the bundle in issue starts: it forks from every access issued before it (R168). R168 names the accesses before the issuing bundle
and the core-store writes of its own T slot; whether a queued L or T access of that bundle comes first too it does not say, and here it does
(log entry 72). -/
def State.accept (s : State) (op ring : Nat) (tag : BitVec 16) (job : Job) (trans : List CachedEntry) : State :=
  let f := s.fresh
  let x := s.me
  let k : Cmd := ⟨f.1, s.cur, x.bid, x.asid, x.priv, x.world, op, ring, x.ringId ring, tag, x.seq, x.mono, 0, .running, job, trans⟩
  { f.2 with cmds := f.2.cmds ++ [k] }

/-- A command by its number. -/
def State.cmd (s : State) (id : Nat) : Option Cmd := s.cmds.find? fun k => decide (k.id = id)

/-- Applies a function to a command. -/
def State.onCmd (s : State) (id : Nat) (f : Cmd → Cmd) : State := { s with cmds := s.cmds.map fun k => if k.id = id then f k else k }

/-- A command leaves. -/
def State.dropCmd (s : State) (id : Nat) : State := { s with cmds := s.cmds.filter fun k => decide (k.id ≠ id) }

/-- The core whose in-flight entry a command keeps: `dpset` and `ttinv` take none (R270). -/
def Cmd.entryOf (k : Cmd) : Option Nat := if k.op < 0x50 then some k.ctx.core.toNat else none

/-- A command finishes: its completion is posted or held (R265, R266), and it leaves. -/
def State.finish (s : State) (k : Cmd) (code count : Nat) : State :=
  (s.post k.ringId (statusWord k.tag k.op code count) k.entryOf).dropCmd k.id

/-! ### Write-back and eviction of deck blocks (R150, R151) -/

/-- One line of a block goes home with its codes and poison bits. -/
def State.writeBackLine (s : State) (b : DeckBlock) (n : Nat) : State :=
  (List.range 4).foldl (fun s i =>
    let a := b.addr + 128 * n + 32 * i
    s.putHome ⟨.dev a, b.key⟩ (b.data.sector a)) s

/-- A block's dirty lines are written back and the block is evicted. -/
def State.evict (s : State) (g : Nat) (b : DeckBlock) : State :=
  (b.dirty.foldl (fun s n => s.writeBackLine b n) s).onGroup g fun k => { k with blocks := k.blocks.filter fun x => decide (x.order ≠ b.order) }

/-- Evicts the blocks of a group that satisfy a condition, oldest first; the answer is the number of lines written back. -/
def State.evictWhere (s : State) (g : Nat) (p : DeckBlock → Bool) : Nat × State :=
  let bs := (s.group g).blocks.filter p
  ((bs.map fun b => b.dirty.length).foldl (· + ·) 0, bs.foldl (fun s b => s.evict g b) s)

/-- The same over the clusters of a die. -/
def State.evictDie (s : State) (die : Bool) (p : DeckBlock → Bool) : Nat × State :=
  (clustersOf die).foldl (fun r g => let x := r.2.evictWhere g p; (r.1 + x.1, x.2)) (0, s)

/-- Whether a block that `t` has no longer has a dirty line in a channel in handover: its write-back waits (R451). -/
def State.evictWaits (s t : State) : Bool :=
  (List.range 16).any fun g => (s.group g).blocks.any fun b =>
    !((t.group g).blocks.any fun x => decide (x.order = b.order)) && b.dirty.any fun n => s.handover (.dev (b.addr + 128 * n))

/-! ### `dpset` (R197) -/

/-- `dpset` (R197): a tagged register is POISON before anything else of the operands is looked at (log entry 103). -/
def execDpset (g : Guard) (a : BitVec 6) (ring : BitVec 4) (s : State) : Out :=
  slotOp (s.me.guard g)
    (fun s => firstOf
      [ when (!s.me.priv) (Exn.mk .priv 1 0x56), s.me.tagged 1 a, s.unboundRing ring 1
      , when (decide (16 < (s.me.s a).toNat)) (Exn.coord 0 8 1 (s.me.s a).toNat) ])
    (fun s =>
      let n := groupOf s.cur.core
      let w := (s.me.s a).toNat
      if isS s.cur.core then s.accept 0x56 ring.toNat 0 (.dpset n 0 0 0) []
      else
        let k := s.group n
        (s.accept 0x56 ring.toNat 0 (.dpset n k.dpart.toNat w k.dpsets) []).onGroup n fun k => { k with newPart := some (BitVec.ofNat 5 w) }) s

/-- The bytes of the ways from w0 to w1 of a deck store read as zero with good codes (R197). -/
def Memory.clearWays (m : Memory) (w0 w1 : Nat) : Memory :=
  let lo := w0 * 2 ^ 23
  let hi := w1 * 2 ^ 23
  { bytes := m.bytes.filter fun e => !(decide (lo ≤ e.1) && decide (e.1 < hi))
    codeDiff := m.codeDiff.filter fun e => !(decide (lo ≤ 32 * e.1) && decide (32 * e.1 < hi))
    poison := m.poison.filter fun e => !(decide (lo ≤ 32 * e.1) && decide (32 * e.1 < hi)) }

/-- Whether an access is one to deck store that a `dpset` has to wait for. -/
def QAcc.deckBefore (q : QAcc) (index : Nat) : Bool :=
  !q.isDone && decide (q.part ≤ index) && match q.target with
    | .d _ => true
    | _ => false

/-- Whether a shrinking `dpset` still has deck-store accesses of step 1 to wait for. -/
def State.deckBusy (s : State) (g index : Nat) : Bool :=
  (s.ctxs.any fun e => decide (groupOf (ctxOfKey e.1).core = g) && e.2.queue.any fun q => q.deckBefore index) ||
    s.orphans.any fun o => decide (groupOf o.ctx.core = g) && o.acc.deckBefore index

/-- Whether a `dpset` still has earlier commands of its cluster to wait for: an earlier `dpset`, or a block command or a copy to or from deck
store of step 1. -/
def State.partBusy (s : State) (g index : Nat) : Bool :=
  s.cmds.any fun k => match k.job with
    | .dpset h _ _ i => decide (h = g) && decide (i < index)
    | .block h p _ _ _ _ => decide (h = g) && decide (p ≤ index)
    | .evict h p _ _ _ => decide (h = g) && decide (p ≤ index)
    | .copy j => decide (groupOf k.ctx.core = g) && (decide (j.src.space = 1) || decide (j.dst.space = 1)) && decide (j.part ≤ index)
    | _ => false

/-- Whether a deck-store store issued before `dpset` number `part` is covered by a shrinking one that has discarded its ways (R426). -/
def Group.dropped (g : Group) (part : Nat) : Bool := g.discards.any fun d => decide (part ≤ d.1)

/-- A gated deck-store store that a shrinking `dpset` covers performs on the old partition (R426), unless an earlier one has covered it. -/
def State.performGated (s : State) (g index : Nat) (e : GateEntry) : State :=
  match e.target with
  | .d x =>
    if decide (e.part ≤ index) && !(s.group g).dropped e.part then s.storeBytes (decide (8 ≤ g)) ⟨.deck g x, none⟩ e.bytes else s
  | _ => s

/-- The gates of a cluster's contexts, those held in images among them. -/
def State.gatesOf (s : State) (g : Nat) : List GateEntry :=
  ((s.ctxs.filter fun e => decide (groupOf (ctxOfKey e.1).core = g)).flatMap fun e => e.2.gate) ++
    (s.saved.filter fun v => decide (groupOf v.ctx.core = g)).flatMap fun v => v.x.gate

/-- Gated stores of a context that a `dpset` has covered have no effect at their release. -/
def Ctx.coverGate (x : Ctx) (index : Nat) : Ctx :=
  { x with gate := x.gate.map fun e => match e.target with
    | .d _ => if e.part ≤ index then { e with gone := true } else e
    | _ => e }

/-- The step before the discard of a shrinking `dpset`: the gated stores that it covers perform and lose their further effect (R426). -/
def State.coverGates (s : State) (g index : Nat) : State :=
  let s1 := (s.gatesOf g).foldl (fun s e => s.performGated g index e) s
  (s1.ctxs.filter fun e => decide (groupOf (ctxOfKey e.1).core = g)).foldl (fun s e => s.onCtx (ctxOfKey e.1) fun x => x.coverGate index) s1

/-- A `dpset` has done its steps (R197): the ways that leave the block cache are written back and cleared, or those that join it are
discarded; one completion counts the lines written back. -/
def execDpsetDone (cmd : Nat) (s : State) : Out :=
  .next (match s.cmd cmd with
    | none => s
    | some k =>
      match k.job with
      | .dpset g old new index =>
        if !s.forked k || s.partBusy g index || (decide (new < old) && s.deckBusy g index) then s
        else if old < new then
          let e := s.evictWhere g fun b => decide (old ≤ b.way) && decide (b.way < new)
          if s.evictWaits e.2 then s else (e.2.onGroup g fun x => { x with deck := x.deck.clearWays old new }).finish k 0 e.1
        else if new < old then
          ((s.coverGates g index).onGroup g fun x => { x with deck := x.deck.clearWays new old, discards := x.discards ++ [(index, new)] }).finish k 0 0
        else s.finish k 0 0
      | _ => s)

/-! ### `ttinv` (R198, R386, R387) -/

/-- `ttinv` (R198): a tagged register is POISON before the ring is looked at (log entry 103). -/
def execTtinv (g : Guard) (a b : BitVec 6) (ring : BitVec 4) (kind : BitVec 2) (s : State) : Out :=
  slotOp (s.me.guard g)
    (fun s => firstOf
      [ when (!s.me.priv) (Exn.mk .priv 1 0x57)
      , s.me.tagged 1 a, s.me.tagged 1 b
      , s.unboundRing ring 1 ])
    (fun s =>
      let x := s.me.s a
      s.accept 0x57 ring.toNat 0 (.ttinv kind.toNat (slice x 16 11) (field x 15 0) (s.me.s b).toNat) []) s

/-- Whether an entry of a tensor, and of a tile where it has one, is in the scope of a `ttinv`. -/
def inScope (kind : Nat) (asid : BitVec 11) (tensor tile : Nat) (a : BitVec 11) (t : Nat) (n : Option Nat) : Bool :=
  match kind with
  | 0 => decide (a = asid) && decide (t = tensor) && decide (n = some tile)
  | 1 => decide (a = asid) && decide (t = tensor)
  | 2 => decide (a = asid)
  | _ => true

/-- Whether an access, also one that a context has left, or a running command of the package still uses a translation in the scope (R198). -/
def State.usesScope (s : State) (p : BitVec 11 → Nat → Option Nat → Bool) : Bool :=
  (s.ctxs.any fun e => e.2.queue.any fun q => match q.phase with
    | .walked _ (some w) => p w.asid w.tensor w.tile
    | _ => false) ||
  (s.orphans.any fun o => match o.entry with
    | some w => p w.asid w.tensor w.tile
    | none => false) ||
  (s.cmds.any fun k => decide (k.st = .running) && k.trans.any fun e => p e.asid e.tensor e.tile)

/-- Every layout unit drops the entries in the scope, and every deck block in it is written back and evicted (R386, R387). -/
def State.dropScope (s : State) (p : BitVec 11 → Nat → Option Nat → Bool) : State :=
  let s1 := (List.range 16).foldl (fun s g => (s.evictWhere g fun b => p b.asid b.tensor (some b.tile)).2) s
  { s1 with cache := s1.cache.filter fun e => !p e.asid e.tensor e.tile }

/-- A `ttinv` finishes once nothing that translated through a dropped entry is still to perform (R198). -/
def execTtinvDone (cmd : Nat) (s : State) : Out :=
  .next (match s.cmd cmd with
    | none => s
    | some k =>
      match k.job with
      | .ttinv kind asid tensor tile =>
        let p := inScope kind asid tensor tile
        let t := (s.atFork k).dropScope p
        if s.forked k && !s.usesScope p && !s.evictWaits t then t.finish k 0 0 else s
      | _ => s)

/-! ### `ownset` (R199) -/

/-- `ownset` (R199): the value that its COORD names is the first bank with the count added (log entry 106). -/
def execOwnset (g : Guard) (a b : BitVec 6) (count1 : BitVec 6) (s : State) : Out :=
  slotOp (s.me.guard g)
    (fun s =>
      let first := field (s.me.s a) 5 0
      let n := count1.toNat + 1
      firstOf
        [ when (!s.me.priv) (Exn.mk .priv 1 0x58), s.me.tagged 1 a, s.me.tagged 1 b
        , when (decide (64 < first + n)) (Exn.coord 0 8 1 (first + n)) ])
    (fun s =>
      let first := field (s.me.s a) 5 0
      let t := s.me.s b
      let o : Owner := ⟨t.getLsbD 13, slice t 2 11, slice t 0 2⟩
      s.onCore s.cur.core fun k => { k with newOwners := k.newOwners ++ (List.range (count1.toNat + 1)).map fun i => (first + i, o) }) s

end Sys2Proof.Machine
end

