-- ==== Sys2Proof/Machine/Copy.lean ====
section
/-! DEFINITION. Machine/Copy.lean: copies and grid transfers: templates, sides and stencils (R311 to R318), where the elements of a side lie
(R313, R137), the probe (R271, R314, R319), and one chunk of 64 KiB with its codes and poison (R153, R160, R275, R276, R320). -/

namespace Sys2Proof.Machine

/-! ### Formats, units and slices -/

/-- Bits of the units in which elements of b bits are moved: a unit never crosses a byte. -/
def unitBits (b : Nat) : Nat := if b % 8 = 0 then 8 else if b % 4 = 0 then 4 else 2

/-- Bits of a side's elements. -/
def Side.bits (sd : Side) : Nat := (fmtBits sd.fmt).getD 8

/-- Whether a side is a tensor side (R313). -/
def Side.isTensor (sd : Side) : Bool := decide (2 ≤ sd.space) && decide (sd.space ≤ 4)

/-- The number of elements of a slice. -/
def Side.count (sd : Side) : Nat := sd.ext.foldl (· * ·) 1

/-- Bytes of n elements of b bits. -/
def bytesFor (n b : Nat) : Nat := (n * b + 7) / 8

/-- The slice coordinates of an element number in ROW order. -/
def unrank : List Nat → Nat → List Nat
  | [], _ => []
  | e :: r, n => n % e :: unrank r (n / e)

/-- A tensor coordinate list: origin plus slice coordinates. -/
def Side.coords (sd : Side) (x : List Nat) : List Nat := List.zipWith (· + ·) sd.org x

/-- The tile of an element and its first bit in the tile (R137). -/
def Tensor.bitOf (t : Tensor) (x : List Nat) : Res Nat (Nat × Nat) :=
  match t.locate x with
  | .error e => .error e
  | .ok r =>
    let e (k : Nat) : Nat := t.d.getD k 0
    let c (k : Nat) : Nat := x.getD k 0
    let bit := match t.layout with
      | 0 => rowOrder t.d x * t.bits
      | 1 => (4096 * rowOrder [e 0 / 64, e 1 / 64, e 2, e 3, e 4] [c 0 / 64, c 1 / 64, c 2, c 3, c 4] + 64 * (c 1 % 64) + c 0 % 64) * t.bits
      | _ => (((c 1 % t.kvp) * e 2 + c 2) * e 0 + c 0) * t.bits
    .ok (r.1, bit % (8 * t.tile))

/-- The tile and bit that lie n bits after an element's first: an element may run on into the next tile. -/
def Tensor.unitOf (t : Tensor) (x : List Nat) (n : Nat) : Res Nat (Nat × Nat) :=
  match t.bitOf x with
  | .error e => .error e
  | .ok r =>
    let tile := r.1 + (r.2 + n) / (8 * t.tile)
    if t.tiles ≤ tile then .error tile else .ok (tile, (r.2 + n) % (8 * t.tile))

/-! ### Places of units -/

/-- A unit: the sector that holds it, its byte there and its lowest bit in the byte. -/
structure UnitAt where
  sec : Loc
  pos : Nat
  sh : Nat
deriving DecidableEq, Repr

/-- The first byte of the sector of a place. -/
def Place.sectorStart : Place → Place
  | .core c off => .core c (sectorOf off)
  | .deck g off => .deck g (sectorOf off)
  | .dev a => .dev (sectorOf a)
  | .peer p a => .peer p (sectorOf a)
  | .host b h off => .host b h (sectorOf off)
  | .const p c off => .const p c (sectorOf off)

/-- The unit at bit `sh` of a byte's location. -/
def Loc.unit (l : Loc) (sh : Nat) : UnitAt := ⟨⟨l.place.sectorStart, l.key⟩, l.place.inSector, sh⟩

/-- The place of a byte of a byte side: core store, deck store or cluster store of the issuing core, with one place for the two offsets of an
S-core's byte (R128 to R130, R313). -/
def bytePlace (core : BitVec 16) (space addr : Nat) : Place :=
  match space with
  | 0 => .core core.toNat (coreOff core addr)
  | 1 => .deck (groupOf core) addr
  | _ => let c := coreAt (groupOf core) (addr / 2 ^ 20); .core c.toNat (coreOff c addr)

/-- The words of an entry among the translations of a command. -/
def transWords (tr : List CachedEntry) (tensor : Nat) (tile : Option Nat) : List W64 :=
  ((tr.find? fun e => decide (e.tensor = tensor) && decide (e.tile = tile)).map (·.words)).getD []

/-- How a command reaches memory: its issuer and its translations. -/
structure Reach where
  who : Who
  tr : List CachedEntry
deriving DecidableEq, Repr

/-- The die of the issuer. -/
def Reach.die (r : Reach) : Bool := dieOf r.who.ctx.core

/-- The unit at a bit of a tile. -/
def State.tileUnit (s : State) (r : Reach) (tensor tile bit : Nat) : UnitAt :=
  let ws := transWords r.tr tensor (some tile)
  let w0 := ws.getD 0 0
  let key := if w0.getLsbD 19 && !w0.getLsbD 6 then some (field w0 18 10) else none
  (⟨s.tilePlace r.who.asid w0 (ws.getD 1 0) (bit / 8), key⟩ : Loc).unit (bit % 8)

/-- The unit that lies n bits into an element of a tensor, at tensor coordinates. -/
def State.tensorUnit (s : State) (r : Reach) (tensor : Nat) (x : List Nat) (n : Nat) : UnitAt :=
  let nowhere : UnitAt := ⟨⟨.const 0 0 0, none⟩, 0, 0⟩
  match Tensor.ofWords (transWords r.tr tensor none) with
  | none => nowhere
  | some t =>
    match t.unitOf x n with
    | .ok q => s.tileUnit r tensor q.1 q.2
    | .error _ => nowhere

/-- The unit at a bit number of a byte side. -/
def byteUnit (core : BitVec 16) (space base bit : Nat) : UnitAt := (⟨bytePlace core space (base + bit / 8), none⟩ : Loc).unit (bit % 8)

/-- The units of the element of a side at slice coordinates (R313), lowest first. -/
def State.sideUnits (s : State) (r : Reach) (sd : Side) (x : List Nat) : List UnitAt :=
  let b := sd.bits
  let g := unitBits b
  (List.range (b / g)).map fun u =>
    if sd.isTensor then s.tensorUnit r sd.tensor (sd.coords x) (g * u)
    else byteUnit r.who.ctx.core sd.space (sd.org.getD 0 0) (rowOrder sd.ext x * b + g * u)

/-- The bits of a unit in a sector. -/
def Sector.unit (x : Sector) (g pos sh : Nat) : Nat := (x.bytes.getD pos 0).toNat / 2 ^ sh % 2 ^ g

/-- The value of units of g bits, lowest first. -/
def View.unitsVal (v : View) (g : Nat) : List UnitAt → Nat
  | [] => 0
  | u :: r => (v u.sec).unit g u.pos u.sh + 2 ^ g * View.unitsVal v g r

/-- Whether a sector among those that hold units is faulty. -/
def View.unitsBad (v : View) (us : List UnitAt) : Bool := (us.map (·.sec)).eraseDups.any fun l => (v l).faulty

/-- The same for an engine of a die. -/
def State.unitsVal (s : State) (die : Bool) (g : Nat) (us : List UnitAt) : Nat := View.unitsVal (s.readSector die) g us
def State.unitsBad (s : State) (die : Bool) (us : List UnitAt) : Bool := View.unitsBad (s.readSector die) us

/-! ### Expansions (R104, R105, R111, R152, R153, R315) -/

/-- Dense elements per element of the data plane's group, and the bits of a companion element. -/
def expandGroup : Nat → Nat × Nat
  | 1 => (4, 4)
  | 2 => (32, 8)
  | _ => (32, 16)

/-- Elements of the data plane of n dense elements. -/
def dataCount (expand n : Nat) : Nat := if expand = 1 then n / 2 else n

/-- Where the companion plane of a byte side begins. -/
def compBase (expand : Nat) (sd : Side) : Nat :=
  let stop := sd.org.getD 0 0 + bytesFor (dataCount expand sd.count) sd.bits
  (stop + 127) / 128 * 128

/-- Coordinates with dimension 0 replaced. -/
def withFirst (x : List Nat) (n : Nat) : List Nat := n :: x.drop 1

/-- The companion tensor of a tensor among the translations. -/
def companion (tr : List CachedEntry) (tensor : Nat) : Nat := ((Tensor.ofWords (transWords tr tensor none)).bind (·.comp)).getD 0

/-- The units of a data-plane element of an expansion: for sparse data value v of the group of the dense element x. -/
def State.planeUnits (s : State) (r : Reach) (expand : Nat) (sd : Side) (x : List Nat) (v : Nat) : List UnitAt :=
  let b := sd.bits
  let g := unitBits b
  let pos (n : Nat) : Nat := if expand = 1 then 2 * (n / 4) + v else n
  (List.range (b / g)).map fun u =>
    if sd.isTensor then
      let c := sd.coords x
      s.tensorUnit r sd.tensor (withFirst c (pos (c.getD 0 0))) (g * u)
    else byteUnit r.who.ctx.core sd.space (sd.org.getD 0 0) (pos (rowOrder sd.ext x) * b + g * u)

/-- The units of the companion element of the group of a dense element. -/
def State.compUnits (s : State) (r : Reach) (expand : Nat) (sd : Side) (x : List Nat) : List UnitAt :=
  let q := expandGroup expand
  let g := unitBits q.2
  (List.range (q.2 / g)).map fun u =>
    if sd.isTensor then
      let c := sd.coords x
      s.tensorUnit r (companion r.tr sd.tensor) (withFirst c (c.getD 0 0 / q.1)) (g * u)
    else byteUnit r.who.ctx.core sd.space (compBase expand sd) (rowOrder sd.ext x / q.1 * q.2 + g * u)

/-- An element that a copy computes: its bits, and whether its sector takes poison. -/
structure Made where
  bits : Nat
  bad : Bool
deriving DecidableEq, Repr

/-- The dense element at position p of a sparse group. -/
def sparsePick (nib v0 v1 p : Nat) : Nat :=
  let p0 := nib % 4
  let p1 := nib / 4 % 4
  if p0 < p1 then (if p = p0 then v0 else if p = p1 then v1 else 0) else Config.badGroup nib v0 v1 p

/-- An expanded element (R152, R153, R111). -/
def State.expandElem (s : State) (r : Reach) (j : CopyJob) (x : List Nat) : Made :=
  let die := r.die
  let sd := j.src
  let g := unitBits sd.bits
  let cu := s.compUnits r j.expand sd x
  let c := s.unitsVal die (unitBits (expandGroup j.expand).2) cu
  if j.expand = 1 then
    let u0 := s.planeUnits r 1 sd x 0
    let u1 := s.planeUnits r 1 sd x 1
    let p := (if sd.isTensor then (sd.coords x).getD 0 0 else rowOrder sd.ext x) % 4
    let value := (if p = c % 4 then u0 else []) ++ if p = c / 4 % 4 then u1 else []
    ⟨sparsePick c (s.unitsVal die g u0) (s.unitsVal die g u1) p, s.unitsBad die (cu ++ value) || decide (c / 4 % 4 ≤ c % 4)⟩
  else
    let u := s.planeUnits r j.expand sd x 0
    let v := s.unitsVal die g u
    let y := if j.expand = 2 then mxfp4 v c else tx6 v (c % 256) (c / 256)
    ⟨(FFmt.bf16.round y 0 false).val, s.unitsBad die (cu ++ u)⟩

/-! ### Grid transfers (R317, R318) -/

/-- The coordinate of a tap in one spatial dimension: none when it is skipped. -/
def tapCoord (restrict clamp : Bool) (fac size n X t : Nat) : Option Nat :=
  let c := (size - 1) / 2
  let y : Option Int :=
    if restrict then some ((fac : Int) * X + t - c)
    else
      let d : Int := (X : Int) - t + c
      if d % fac ≠ 0 then none else some (d / fac)
  y.bind fun y =>
    if y < 0 || (n : Int) ≤ y then (if clamp then some (min (max y 0) ((n : Int) - 1)).toNat else none) else some y.toNat

/-- The source coordinates of a tap, dimension by dimension. -/
def tapCoords (j : CopyJob) (t : List Nat) (x : List Nat) : Option (List Nat) :=
  (List.range j.shape.length).foldl (fun acc k =>
    acc.bind fun y =>
      let d := j.sd + k
      (tapCoord (decide (j.kind = 2)) j.clamp j.factor (j.shape.getD k 1) (j.src.ext.getD d 1) (x.getD d 0) (t.getD k 0)).map fun v => y.set d v) (some x)

/-- The taps with weights other than zero whose source points exist, in table order. -/
def liveTaps (j : CopyJob) (x : List Nat) : List (Int × List Nat) :=
  (List.range (j.shape.foldl (· * ·) 1)).filterMap fun n =>
    let w := j.weights.getD n 0
    if w = 0 then none else (tapCoords j (unrank j.shape n) x).map fun y => (w, y)

/-- A weight as an exact value: 16 fractional bits. -/
def weightVal (w : Int) : Val := .fin (decide (w < 0)) w.natAbs (-16)

/-- The exact value of an element of a float format. -/
def fmtVal (code x : Nat) : Val :=
  match NumFmt.ofCode code with
  | some f => f.decode x
  | none => .nan

/-- One rounding to a format; flags are dropped (R275). -/
def fmtRound (code : Nat) (v : Val) (mode : Nat) (sat fromInt : Bool) : Nat :=
  match NumFmt.ofCode code with
  | some f => (f.round v mode sat fromInt).val
  | none => 0

/-- A grid element: the exact weighted sum, rounded once. The sum is one exact real number, so a zero sum has no sign of its own, and the model gives
+0 in every rounding mode (log entry 104). -/
def State.gridElem (s : State) (r : Reach) (j : CopyJob) (x : List Nat) : Made :=
  let g := unitBits j.src.bits
  let taps := (liveTaps j x).map fun t => (t.1, s.sideUnits r j.src t.2)
  let sum := taps.foldl (fun v t => (v.add false ((weightVal t.1).mul (fmtVal j.src.fmt (s.unitsVal r.die g t.2))).val).val) Val.zero
  ⟨fmtRound j.dst.fmt sum j.mode j.sat false, s.unitsBad r.die (taps.flatMap (·.2))⟩

/-- A converted element (R110, R315). -/
def State.convertElem (s : State) (r : Reach) (j : CopyJob) (x : List Nat) : Made :=
  let us := s.sideUnits r j.src x
  let v := s.unitsVal r.die (unitBits j.src.bits) us
  let bits := match NumFmt.ofCode j.src.fmt, NumFmt.ofCode j.dst.fmt with
    | some a, some b => (convert a b v j.mode j.sat).val
    | _, _ => 0
  ⟨bits, s.unitsBad r.die us⟩

/-- The element that a computing copy makes. -/
def State.madeElem (s : State) (r : Reach) (j : CopyJob) (x : List Nat) : Made :=
  if 2 ≤ j.kind then s.gridElem r j x else if j.expand ≠ 0 then s.expandElem r j x else s.convertElem r j x

/-! ### Destination sectors (R160) -/

/-- A unit to be written: its byte and bit in the sector, its bits, and for a moved unit where it comes from. -/
structure Piece where
  pos : Nat
  sh : Nat
  bits : Nat
  src : Option UnitAt
  bad : Bool
deriving DecidableEq, Repr

/-- What is written to one destination sector. -/
structure SecWrite where
  loc : Loc
  pieces : List Piece
deriving DecidableEq, Repr

/-- Adds a piece to the sector that holds it. -/
def addPiece (l : List SecWrite) (loc : Loc) (p : Piece) : List SecWrite :=
  match l with
  | [] => [⟨loc, [p]⟩]
  | w :: r => if w.loc = loc then { w with pieces := w.pieces ++ [p] } :: r else w :: addPiece r loc p

/-- The units of a copy's destination element with what is written there. -/
def State.elemPieces (s : State) (r : Reach) (j : CopyJob) (x : List Nat) : List (UnitAt × Piece) :=
  let g := unitBits j.dst.bits
  let ds := s.sideUnits r j.dst x
  if j.kind = 0 then
    List.zipWith (fun d u => (d, ⟨d.pos, d.sh, s.unitsVal r.die g [u], some u, false⟩)) ds (s.sideUnits r j.src x)
  else
    let m := s.madeElem r j x
    (List.range ds.length).filterMap fun i => (ds[i]?).map fun d => (d, ⟨d.pos, d.sh, m.bits / 2 ^ (g * i) % 2 ^ g, none, m.bad⟩)

/-- The units of block c of a copy: 65,536 bytes of its destination slice (R276). -/
def blockUnits (j : CopyJob) (c : Nat) : Nat × Nat :=
  let g := unitBits j.dst.bits
  let per := 65536 * 8 / g
  (c * per, min ((c + 1) * per) (j.dst.count * (j.dst.bits / g)))

/-- The blocks of 65,536 bytes of a destination slice. -/
def CopyJob.blocks (j : CopyJob) : Nat := max 1 ((bytesFor j.dst.count j.dst.bits + 65535) / 65536)

/-- The units of chunk c of a copy: a block, or in an expansion a row of dimension 0, which has the progress mark (R276, R320; log entry 91). -/
def chunkUnits (j : CopyJob) (c : Nat) : Nat × Nat :=
  if j.expand = 0 then blockUnits j c
  else
    let per := j.dst.ext.getD 0 1 * (j.dst.bits / unitBits j.dst.bits)
    (c * per, (c + 1) * per)

/-- The chunks of a copy. -/
def CopyJob.chunkCount (j : CopyJob) : Nat := if j.expand = 0 then j.blocks else j.dst.count / j.dst.ext.getD 0 1

/-- What chunk c writes, computed from the state before it. -/
def State.chunkWrites (s : State) (r : Reach) (j : CopyJob) (c : Nat) : List SecWrite :=
  let u := chunkUnits j c
  let per := j.dst.bits / unitBits j.dst.bits
  let e0 := u.1 / per
  let e1 := (u.2 + per - 1) / per
  (List.range (e1 - e0)).foldl (fun acc i =>
    let e := e0 + i
    let ps := s.elemPieces r j (unrank j.dst.ext e)
    (List.range ps.length).foldl (fun acc k =>
      match ps[k]? with
      | some p => if u.1 ≤ e * per + k && e * per + k < u.2 then addPiece acc p.1.sec p.2 else acc
      | none => acc) acc) []

/-- Whether the pieces fill the sector. -/
def SecWrite.whole (w : SecWrite) (g : Nat) : Bool := decide (w.pieces.length * g = 256)

/-- The one aligned source sector that a whole moved sector comes from unchanged (R160). -/
def SecWrite.carried (w : SecWrite) (g : Nat) : Option Loc :=
  if w.whole g then
    (w.pieces.head?.bind (·.src)).bind fun u =>
      if w.pieces.all fun p => decide (p.src = some ⟨u.sec, p.pos, p.sh⟩) then some u.sec else none
  else none

/-- A sector as a carrying unit takes it: in far and host memory the complement of the code stands for poison (R159, R390). -/
def carriedFrom (pl : Place) (x : Sector) : Sector :=
  let shadow := match pl with
    | .dev a => decide (cxlBase ≤ a)
    | .host _ _ _ => true
    | _ => false
  if shadow && decide (x.code = ~~~(grain x.bytes)) then ⟨x.bytes, grain x.bytes, true⟩ else x

/-- What is to be written to a sector, from the sources as they stand (R160). -/
def View.capture (v : View) (g : Nat) (w : SecWrite) : PendWrite :=
  ⟨w.loc, w.pieces.map fun p => (p.pos, p.sh, p.bits), w.pieces.any (·.bad) || View.unitsBad v (w.pieces.filterMap (·.src)),
    (w.carried g).map fun l => carriedFrom l.place (v l)⟩
def State.capture (s : State) (die : Bool) (g : Nat) (w : SecWrite) : PendWrite := View.capture (s.readSector die) g w

/-- The sector that a command writes, from the state as it stands. -/
def View.newSector (v : View) (computing : Bool) (g : Nat) (w : SecWrite) : Sector := View.pendSector v computing g (View.capture v g w)

/-- Whether a party may write a place: core-store banks carry owner tags (R157). -/
def State.mayWrite (s : State) (w : Who) : Place → Bool
  | .core c off => s.bankMatches w (BitVec.ofNat 16 c) (bankOf off)
  | _ => true

/-- The bank of a place in core store. -/
def Place.bank : Place → Nat
  | .core _ off => bankOf off
  | _ => 0

/-- Writes what a chunk has to write, one sector after another, until one meets a changed owner tag: the state, whether all were written, and
the sectors written with poison (R157, R275, R320), with `all` the carried ones too. -/
def State.writePending (s : State) (r : Reach) (computing all : Bool) (g : Nat) : List PendWrite → State × Bool × List Loc
  | [] => (s, true, [])
  | w :: rest =>
    if s.mayWrite r.who w.loc.place then
      let x := s.pendSector r.die computing g w
      let q := (s.writeSector r.die w.loc x (w.mask g)).writePending r computing all g rest
      (q.1, q.2.1, if x.poison && (all || w.carry.isNone) then w.loc :: q.2.2 else q.2.2)
    else (s, false, [])

/-- The bits of a copy's units, and whether it computes values. -/
def CopyJob.grain (j : CopyJob) : Nat := unitBits j.dst.bits
def CopyJob.computing (j : CopyJob) : Bool := decide (j.kind ≠ 0)

/-- Chunk c, read wholly (R276). -/
def State.readChunk (s : State) (r : Reach) (j : CopyJob) (c : Nat) : List PendWrite := (s.chunkWrites r j c).map (s.capture r.die j.grain)

/-! ### The probe (R271, R314, R317, R319) -/

/-- COORD of a copy template (R448), at the E slot. -/
def tmplCoord (tmpl : Nat) : Exn := Exn.coord tmpl 1 8 0

/-- A side after its deltas; none when a field breaks R312 or R313. -/
def sideOf (ws : List W64) (delta : W64) : Option Side :=
  let w (n : Nat) : W64 := ws.getD n 0
  let space := field (w 0) 2 0
  let fmt := field (w 0) 9 5
  let dA := field (w 0) 12 10
  let dB := field (w 0) 15 13
  let tensor := field (w 0) 31 16
  let lo (x : W64) := field x 31 0
  let hi (x : W64) := field x 63 32
  let o := [lo (w 1), hi (w 1), lo (w 2), hi (w 2), lo (w 3)]
  let e := [lo (w 4), hi (w 4), lo (w 5), hi (w 5), lo (w 6)]
  let reserved := decide (hi (w 0) = 0) && decide (field (w 0) 4 3 = 0) && decide (hi (w 3) = 0) && decide (hi (w 6) = 0)
  let plus (l : List Nat) (k d : Nat) : List Nat := l.set k ((l.getD k 0 + d) % 2 ^ 32)
  match fmtBits fmt with
  | none => none
  | some b =>
    if !(reserved && decide (space ≤ 5) && e.all (fun n => decide (n ≠ 0)) && decide (dA ≤ 4) && decide (dB ≤ 4)) then none
    else if 2 ≤ space && space ≤ 4 then
      some ⟨space, fmt, tensor, plus (plus o dA (lo delta)) dB (hi delta), e⟩
    else if (o.drop 1).all (fun n => decide (n = 0)) && decide (dA = 0) && decide (dB = 0) && decide (tensor = 0) && decide (e.getD 0 0 * b % 8 = 0) then
      some ⟨space, fmt, 0, plus o 0 (lo delta), e⟩
    else none

/-- A stencil table: its first dimension, shape and weights; none when it breaks R317. -/
def stencilOf (bs : List Byte) : Option (Nat × List Nat × List Int) :=
  let h : W64 := BitVec.ofNat 64 (ofBytes (bs.take 8))
  let sx := field h 9 7
  let sy := field h 12 10
  let sz := field h 15 13
  let sd := field h 6 4
  let shape := if sz = 3 then [sx, sy, 3] else [sx, sy]
  let n := sx * sy * sz
  let entry (i : Nat) : Nat := ofBytes ((bs.drop (8 + 4 * i)).take 4)
  let odd (x : Nat) : Bool := decide (x = 1) || decide (x = 3) || decide (x = 5)
  let ok := h.getLsbD 0 && decide (field h 63 16 = 0) && decide (field h 3 1 = 0) &&
    (decide (sz = 1) || (decide (sz = 3) && decide (sx = 3) && decide (sy = 3))) && odd sx && odd sy && decide (sd + shape.length ≤ 5) &&
    ((List.range 27).all fun i => decide (entry i < 2 ^ 18) && (decide (i < n) || decide (entry i = 0))) &&
    ((bs.drop 116).all fun b => decide (b = 0))
  if ok then some (sd, shape, (List.range n).map fun i => ((BitVec.ofNat 18 (entry i)).toInt)) else none

/-- The formats of an expansion (R315). -/
def expandFits (expand sf df : Nat) : Bool :=
  match expand with
  | 1 => decide (sf = df) && (decide (sf = 1) || decide (sf = 2) || decide (sf = 9) || decide (sf = 10) || decide (sf = 5))
  | 2 => decide (sf = 12) && decide (df = 1)
  | _ => decide (sf = 13) && decide (df = 1)

/-- The formats of grid transfers (R314). -/
def gridFmt (f : Nat) : Bool := decide (f = 0) || decide (f = 1) || decide (f = 2) || decide (f = 9) || decide (f = 10) || decide (f = 11)

/-- The extents of a grid transfer (R318). -/
def gridExtents (kind fac sd dims : Nat) (se de : List Nat) : Bool :=
  (List.range 5).all fun k =>
    let a := se.getD k 1
    let b := de.getD k 1
    if sd ≤ k && k < sd + dims then (if kind = 2 then decide (a = fac * b) else decide (b = fac * a)) else decide (a = b)

/-- A template that `cpy` or `gx` names: the job without its part and chunks, or the exception (R275, R311 to R317). An expansion whose sides differ
in extents, or whose e0 is no whole number of groups, is COORD with the template (log entry 105). -/
def State.templateOf (s : State) (asid : BitVec 11) (gx : Bool) (tmpl : Nat) (da db : W64) : Res Exn CopyJob :=
  let ws := s.rawWords false (s.descWord asid 2 + 128 * tmpl) 16
  let h := ws.getD 0 0
  let bad : Res Exn CopyJob := .error (tmplCoord tmpl)
  let kind := field h 2 1
  let fcode := field h 5 4
  let fac := if fcode = 0 then 0 else 2 ^ fcode
  let expand := field h 34 32
  let sten := field h 47 42
  let reserved := decide (field h 63 48 = 0) && decide (field h 41 40 = 0) && decide (field h 31 6 = 0) && !h.getLsbD 3 && decide (ws.getD 15 0 = 0)
  let codes := decide (fcode ≠ 3) && decide (expand ≤ 3) && decide (field h 36 35 ≤ 1)
  match sideOf ((ws.drop 1).take 7) da, sideOf ((ws.drop 8).take 7) db with
  | some a, some b =>
    let job (sd : Nat) (shape : List Nat) (wt : List Int) : CopyJob :=
      ⟨kind, fac, if kind = 1 then expand else 0, decide (field h 36 35 = 1), field h 38 37, h.getLsbD 39, a, b, sd, shape, wt, 0, 0, [], [], []⟩
    if !(h.getLsbD 0 && reserved && codes && decide (gx = decide (2 ≤ kind))) then bad
    else if kind = 0 then
      if decide (a.ext = b.ext) && decide (a.fmt = b.fmt) && decide (expand = 0) && decide (fac = 0) then .ok (job 0 [] []) else bad
    else if kind = 1 then
      if expand = 0 then
        let plain (f : Nat) : Bool := (NumFmt.ofCode f).isSome
        if decide (a.ext = b.ext) && decide (fac = 0) && plain a.fmt && plain b.fmt then .ok (job 0 [] []) else bad
      else
        let m := (expandGroup expand).1
        if decide (b.space = 0) && expandFits expand a.fmt b.fmt && decide (a.ext = b.ext) && decide (b.ext.getD 0 0 % m = 0) then .ok (job 0 [] [])
        else bad
    else if !(gridFmt a.fmt && gridFmt b.fmt && decide (fac ≠ 0)) then bad
    else match stencilOf (s.rawBytes false (s.descWord asid 3 + 128 * sten) 128) with
      | none => .error (Exn.coord sten 7 8 0)
      | some t => if gridExtents kind fac t.1 t.2.1.length a.ext b.ext then .ok (job t.1 t.2.1 t.2.2) else bad
  | _, _ => bad

/-- What a probe has found so far: translations, or the exception that ends it. -/
abbrev Probe := Res Exn (List CachedEntry)

/-- Adds an entry to the translations. -/
def keepEntry (tr : List CachedEntry) (e : CachedEntry) : List CachedEntry := if tr.contains e then tr else tr ++ [e]

/-- Translates one unit of a tensor element for an engine, which applies no home check (R140). -/
def State.probeUnit (s : State) (w : Who) (need : Need) (tensor : Nat) (t : Tensor) (x : List Nat) (n : Nat) (tr : List CachedEntry) : Probe :=
  match t.unitOf x n with
  | .error v => .error (Exn.coord tensor 0 8 v)
  | .ok q =>
    match s.translate w tensor t q.1 (q.2 / 8) 1 none need with
    | .error sub => .error (Exn.xlate sub tensor q.1 8 0)
    | .ok l => .ok (keepEntry tr ⟨w.asid, tensor, some q.1, l.2⟩)

/-- Runs a check over a list until one fails. -/
def probeAll {α : Type} (f : α → List CachedEntry → Probe) : List α → List CachedEntry → Probe
  | [], tr => .ok tr
  | a :: r, tr =>
    match f a tr with
    | .error e => .error e
    | .ok t => probeAll f r t

/-- A tensor named by a side: its entry, or COORD (R137, R314); `bits` asks for a format width alone, for a companion plane. -/
def State.probeTensor (s : State) (w : Who) (tmpl tensor : Nat) (fits : Tensor → Bool) (tr : List CachedEntry) : Res Exn (Tensor × List CachedEntry) :=
  match s.tensor w.asid tensor with
  | none => .error (Exn.coord tensor 0 8 tensor)
  | some t =>
    if fits t then .ok (t, keepEntry tr ⟨w.asid, tensor, none, s.tensorWords w.asid tensor⟩) else .error (tmplCoord tmpl)

/-- The elements of a slice. -/
def Side.all (sd : Side) : List (List Nat) := (List.range sd.count).map (unrank sd.ext)

/-- Probes the elements of a tensor side at slice coordinates `xs`, every unit of each; the source of an expansion with its companion
plane: a source without one, or with one of another element width, is COORD with the template (log entry 105). -/
def State.probeTensorSide (s : State) (w : Who) (tmpl expand : Nat) (sd : Side) (need : Need) (xs : List (List Nat)) (tr : List CachedEntry) : Probe :=
  match s.probeTensor w tmpl sd.tensor (fun t => decide (t.fmt = sd.fmt)) tr with
  | .error e => .error e
  | .ok (t, tr1) =>
    let last := t.bits - unitBits t.bits
    let data (x : List Nat) : List Nat :=
      let c := sd.coords x
      if expand = 1 then withFirst c (2 * (c.getD 0 0 / 4) + c.getD 0 0 % 2) else c
    let unit (x : List Nat) (tr : List CachedEntry) : Probe :=
      match s.probeUnit w need sd.tensor t (data x) 0 tr with
      | .error e => .error e
      | .ok tr => s.probeUnit w need sd.tensor t (data x) last tr
    match probeAll unit xs tr1 with
    | .error e => .error e
    | .ok tr2 =>
      if expand = 0 then .ok tr2
      else match t.comp with
        | none => .error (tmplCoord tmpl)
        | some cp =>
          let q := expandGroup expand
          match s.probeTensor w tmpl cp (fun c => decide (c.bits = q.2)) tr2 with
          | .error e => .error e
          | .ok (c, tr3) =>
            probeAll (fun x tr => let y := sd.coords x; s.probeUnit w need cp c (withFirst y (y.getD 0 0 / q.1)) 0 tr) xs tr3

/-- The bytes of a byte side, with the companion plane of an expansion. -/
def sideBytes (expand : Nat) (sd : Side) : Nat :=
  if expand = 0 then bytesFor sd.count sd.bits
  else
    let q := expandGroup expand
    compBase expand sd + bytesFor (sd.count / q.1) q.2 - sd.org.getD 0 0

/-- Range checks of a byte side: cluster-store addresses (R129) and the deck partition (R130, R314). -/
def State.byteRange (s : State) (w : Who) (expand : Nat) (sd : Side) : Option Exn :=
  let o := sd.org.getD 0 0
  let stop := o + sideBytes expand sd
  if sd.space = 1 then
    let dp := if isS w.ctx.core then 0 else (s.group (groupOf w.ctx.core)).dpart.toNat
    when (decide (dp * 2 ^ 23 < stop)) (Exn.mk .deckRange (max o (dp * 2 ^ 23)) dp)
  else if sd.space = 5 then
    let lim := (if isS w.ctx.core then 16 else 32) * 2 ^ 20
    when (decide (lim < stop)) (Exn.coord 0 8 8 (max o lim))
  else none

/-- Probes the elements `xs` of a side. -/
def State.probeSide (s : State) (w : Who) (tmpl expand : Nat) (sd : Side) (need : Need) (xs : List (List Nat)) (tr : List CachedEntry) : Probe :=
  if sd.isTensor then s.probeTensorSide w tmpl expand sd need xs tr
  else match s.byteRange w expand sd with
    | some e => .error e
    | none => .ok tr

/-- A command that spans both worlds (R319): the first entry whose world differs from that of the first. -/
def worldMix (tr : List CachedEntry) : Option Exn :=
  let tiles := tr.filter fun e => e.tile.isSome
  let world (e : CachedEntry) : Bool := (e.words.getD 0 0).getLsbD 5
  match tiles with
  | [] => none
  | e :: r => (r.find? fun f => world f != world e).map fun f => Exn.xlate .world f.tensor (f.tile.getD 0) 8 0

/-- XLATE(owner) of the core-store banks of a byte side (R157, R271). -/
def State.sideOwner (s : State) (w : Who) (expand : Nat) (sd : Side) : Option Exn :=
  if sd.space = 0 || sd.space = 5 then
    let o := sd.org.getD 0 0
    let n := sideBytes expand sd
    (List.range ((o % 2 ^ 14 + n + 2 ^ 14 - 1) / 2 ^ 14)).findSome? fun i =>
      match bytePlace w.ctx.core sd.space ((o / 2 ^ 14 + i) * 2 ^ 14) with
      | .core c off => when (!s.bankMatches w (BitVec.ofNat 16 c) (bankOf off)) (Exn.xlate .owner 0 0 8 (bankOf off))
      | _ => none
  else none

/-- The source units of a destination element. -/
def State.sourceUnits (s : State) (r : Reach) (j : CopyJob) (x : List Nat) : List UnitAt :=
  if 2 ≤ j.kind then (liveTaps j x).flatMap fun t => s.sideUnits r j.src t.2
  else if j.expand = 0 then s.sideUnits r j.src x
  else s.compUnits r j.expand j.src x ++ s.planeUnits r j.expand j.src x 0 ++ s.planeUnits r j.expand j.src x 1

/-- The destination elements of a run of units. -/
def CopyJob.elemsIn (j : CopyJob) (u : Nat × Nat) : List (List Nat) :=
  let per := j.dst.bits / unitBits j.dst.bits
  (List.range ((u.2 + per - 1) / per - u.1 / per)).map fun i => unrank j.dst.ext (u.1 / per + i)

/-- The destination elements of a chunk. -/
def CopyJob.chunkElems (j : CopyJob) (c : Nat) : List (List Nat) := j.elemsIn (chunkUnits j c)

/-- The byte that holds a unit. -/
def UnitAt.byte (u : UnitAt) : Place × Nat := (u.sec.place, u.pos)

/-- Whether a block of a core-store destination is read by the block itself (R314). An element that runs on into the next block is written by each
block in its own units alone; a move reads those alone too, a computed element is made from its whole source. -/
def State.blockOverlaps (s : State) (r : Reach) (j : CopyJob) (c : Nat) : Bool :=
  let u := blockUnits j c
  let per := j.dst.bits / unitBits j.dst.bits
  let es := (List.range ((u.2 + per - 1) / per - u.1 / per)).map (u.1 / per + ·)
  let here (e : Nat) (l : List UnitAt) : List UnitAt :=
    (l.zipIdx.filter fun p => decide (u.1 ≤ e * per + p.2) && decide (e * per + p.2 < u.2)).map (·.1)
  let dst := es.flatMap fun e => (here e (s.sideUnits r j.dst (unrank j.dst.ext e))).map UnitAt.byte
  es.any fun e =>
    let src := s.sourceUnits r j (unrank j.dst.ext e)
    (if j.kind = 0 then here e src else src).any fun p => dst.contains p.byte

/-- The overlap rule over the blocks of 64 KiB. -/
def State.overlaps (s : State) (r : Reach) (j : CopyJob) : Bool :=
  let coreSide (sd : Side) : Bool := decide (sd.space = 0) || decide (sd.space = 5)
  coreSide j.dst && coreSide j.src && (List.range j.blocks).any fun c => s.blockOverlaps r j c

/-- THE PROBE OF A COPY: the job with the translations it found, or the exception (R271, R314, R319). -/
def State.copyProbe (s : State) (w : Who) (gx : Bool) (tmpl : Nat) (da db : W64) : Res Exn (CopyJob × List CachedEntry) :=
  match s.templateOf w.asid gx tmpl da db with
  | .error e => .error e
  | .ok j0 =>
    let j := { j0 with part := s.partOf w.ctx, chunks := j0.chunkCount }
    match s.probeSide w tmpl j.expand j.src .read j.src.all [] with
    | .error e => .error e
    | .ok tr1 =>
      match s.probeSide w tmpl 0 j.dst .write j.dst.all tr1 with
      | .error e => .error e
      | .ok tr =>
        match firstOf
            [ worldMix tr, s.sideOwner w j.expand j.src, s.sideOwner w 0 j.dst
            , when (s.overlaps ⟨w, tr⟩ j) (tmplCoord tmpl) ] with
        | some e => .error e
        | none => .ok (j, tr)

end Sys2Proof.Machine
end

