-- ==== Sys2Proof/Machine/Engine.lean ====
section
/-! DEFINITION. Machine/Engine.lean: the E-slot commands `cpy`, `gx` (R273 to R276), `wdef`, `wadv` (R145, R146, R277, R278), `lb`, `lbe`
(R280, R281) and `csig` (R285, R286): their checks and probes, and what starts when they are accepted. -/

namespace Sys2Proof.Machine

/-! ### Copies and grid transfers -/

/-- `cpy` and `gx`: poison tags, the ring, then the probe (R271, R273, R274). -/
def copyCommand (op : Nat) (gx : Bool) (o : EngOp) (s : State) : Out :=
  let probe (s : State) := s.copyProbe (s.who s.cur) gx o.tmpl.toNat (s.me.s o.a) (s.me.s o.b)
  slotOp (s.me.guard o.g)
    (fun s => firstOf [tagsOf s.me 8 [o.a, o.b, o.c], s.unboundRing o.ring 8, resError (probe s)])
    (fun s =>
      match probe s with
      | .ok p => s.accept op o.ring.toNat (slice (s.me.s o.c) 0 16) (.copy p.1) p.2
      | .error _ => s) s

def execCpy (o : EngOp) (s : State) : Out := copyCommand 0x01 false o s
def execGx (o : EngOp) (s : State) : Out := copyCommand 0x02 true o s

/-! ### Windows: the descriptor and its rows (R145, R146) -/

/-- The fields of a window descriptor. -/
def winTensor (d : List W64) : Nat := field (d.getD 0 0) 15 0
def winSpace (d : List W64) : Nat := field (d.getD 0 0) 18 16
def winWalk (d : List W64) : Nat := field (d.getD 0 0) 21 19
def winRows (d : List W64) : Nat := 2 ^ field (d.getD 0 0) 27 24
def winCq (d : List W64) : Nat := field (d.getD 0 0) 31 28
def winElems (d : List W64) : Nat := field (d.getD 0 0) 63 32
def winRing (d : List W64) : Nat := field (d.getD 1 0) 19 0
def winOrigin (d : List W64) : List Nat :=
  [field (d.getD 2 0) 31 0, field (d.getD 2 0) 63 32, field (d.getD 3 0) 31 0, field (d.getD 3 0) 63 32, field (d.getD 4 0) 31 0]

/-- The row stride for elements of b bits. -/
def winStride (d : List W64) (b : Nat) : Nat := ((winElems d * b + 7) / 8 + 31) / 32 * 32

/-- Whether a descriptor keeps the rules of R145 that do not depend on its tensor. -/
def winDescOk (d : List W64) : Bool :=
  let l := field (d.getD 0 0) 27 24
  decide (1 ≤ winElems d) && decide (1 ≤ l) && decide (l ≤ 8) && decide (field (d.getD 0 0) 23 22 = 0) &&
    decide (1 ≤ winWalk d) && decide (winWalk d ≤ 4) && decide (2 ≤ winSpace d) && decide (winSpace d ≤ 4) &&
    decide (field (d.getD 1 0) 63 20 = 0) && decide (winRing d % 128 = 0) && decide (field (d.getD 4 0) 63 32 = 0) &&
    decide (d.getD 5 0 = 0) && decide (d.getD 6 0 = 0) && decide (d.getD 7 0 = 0)

/-- Whether a descriptor keeps the rules of R145 for elements of b bits. -/
def winFits (d : List W64) (b : Nat) : Bool :=
  let st := winStride d b
  decide ((winOrigin d).getD 0 0 * b % 8 = 0) && decide (st ≤ 65536) && decide (winRing d + winRows d * st ≤ 2 ^ 20)

/-- The coordinates of element e of row i. -/
def winCoords (d : List W64) (i e : Nat) : List Nat :=
  let o := winOrigin d
  let o1 := o.set 0 (o.getD 0 0 + e)
  o1.set (winWalk d) (o1.getD (winWalk d) 0 + i)

/-- The probe of one row: every element's translation (R277). -/
def State.probeRow (s : State) (w : Who) (d : List W64) (t : Tensor) (i : Nat) (tr : List CachedEntry) : Probe :=
  let last := t.bits - unitBits t.bits
  probeAll (fun e tr =>
    match s.probeUnit w .read (winTensor d) t (winCoords d i e) 0 tr with
    | .error x => .error x
    | .ok tr => s.probeUnit w .read (winTensor d) t (winCoords d i e) last tr) (List.range (winElems d)) tr

/-- What the probe of a window command finds: the stride, the translations and the rows that take state POISONED. -/
structure WinProbe where
  stride : Nat
  tr : List CachedEntry
  bad : List Nat
deriving DecidableEq, Repr

/-- The probe of rows `first` to `first + n - 1`: a failing row raises, or under .n becomes POISONED (R147, R277). -/
def State.probeRows (s : State) (w : Who) (d : List W64) (t : Tensor) (soft : Bool) (first : Nat) : Nat → WinProbe → Res Exn WinProbe
  | 0, p => .ok p
  | n + 1, p =>
    match s.probeRow w d t first p.tr with
    | .ok tr => s.probeRows w d t soft (first + 1) n { p with tr := tr }
    | .error e => if soft then s.probeRows w d t soft (first + 1) n { p with bad := p.bad ++ [first] } else .error e

/-- COORD of a window descriptor (R448). -/
def descCoord (n : Nat) : Exn := Exn.coord n 6 8 0

/-- The probe of a window command on window number `wn`: the ring, the tensor, the rules of R145, the banks of the slots that it will write, the rows, and
one world for all tiles (R271, R277, R319). -/
def State.windowProbe (s : State) (wn : Nat) (d : List W64) (soft : Bool) (first n : Nat) : Res Exn WinProbe :=
  let w := s.who s.cur
  if !winDescOk d then .error (descCoord wn)
  else match s.unboundRing (BitVec.ofNat 4 (winCq d)) 8 with
  | some e => .error e
  | none =>
    match s.tensor w.asid (winTensor d) with
    | none => .error (Exn.coord (winTensor d) 0 8 (winTensor d))
    | some t =>
      if !winFits d t.bits then .error (descCoord wn)
      else
        let st := winStride d t.bits
        match (List.range n).findSome? fun i => s.ownerFault w s.cur.core 8 (winRing d + (first + i) % winRows d * st) st with
        | some e => .error e
        | none =>
          match s.probeRows w d t soft first n ⟨st, [⟨w.asid, winTensor d, none, s.tensorWords w.asid (winTensor d)⟩], []⟩ with
          | .error e => .error e
          | .ok p => match worldMix p.tr with
            | some e => .error e
            | none => .ok p

/-- The state that a slot takes when the fill of a row starts (R146, R147). -/
def startSlot (bad : List Nat) (i : Nat) : WinSlot := ⟨BitVec.ofNat 16 i, if bad.contains i then .poisoned else .filling⟩

/-- Rows `first` to `first + n - 1` start in their slots. -/
def Window.startRows (w : Window) (first n : Nat) (bad : List Nat) : Window :=
  { w with slots := (List.range n).foldl (fun m k => SMap.set ⟨0, .empty⟩ m ((first + k) % winRows w.desc) (startSlot bad (first + k))) w.slots }

/-- The fills in flight of a window. -/
def State.fillsOf (s : State) (win : Nat) : List Cmd := s.cmds.filter fun k => match k.job with
  | .fill w _ _ _ _ _ => decide (w = win)
  | _ => false

/-- The window object that wN of the current context names; a fresh one where it names none. -/
def State.ownWindow (s : State) (n : Nat) : Nat × State :=
  let id := s.me.winId n
  if id ≠ 0 then (id, s)
  else
    let f := s.fresh
    (f.1, f.2.onMe fun c => { c with winLink := SMap.set 0 c.winLink n f.1 })

/-- The window descriptor at an offset of the current core's store (R145, R277). -/
def State.descAt (s : State) (off : Nat) : List W64 :=
  let bs := (s.coreBytes s.cur.core off 64).1
  (List.range 8).map fun i => BitVec.ofNat 64 (ofBytes ((bs.drop (8 * i)).take 8))

def execWdef (g : Guard) (w : BitVec 3) (b : BitVec 6) (n : Bool) (s : State) : Out :=
  let off (s : State) : Nat := field (s.me.s b) 19 0
  let probe (s : State) := s.windowProbe w.toNat (s.descAt (off s)) n 0 (winRows (s.descAt (off s)))
  slotOp (s.me.guard g)
    (fun s => firstOf
      [ when (off s % 64 ≠ 0) (Exn.mk .align 8 (off s))
      , s.ownerFault (s.who s.cur) s.cur.core 8 (off s) 64, resError (probe s) ])
    (fun s =>
      match probe s with
      | .error _ => s
      | .ok p =>
        let d := s.descAt (off s)
        let o := s.ownWindow w.toNat
        let s1 := (o.2.fillsOf o.1).foldl (fun s k => s.finish k 2 0) o.2
        let s2 := s1.onWindow o.1 fun _ => (⟨true, d, p.stride, 0, []⟩ : Window).startRows 0 (winRows d) p.bad
        s2.accept 0x03 (winCq d) 0 (.fill o.1 0 (winRows d) 0 0 p.bad) p.tr) s

def execWadv (g : Guard) (w : BitVec 3) (n : Bool) (count1 : BitVec 8) (s : State) : Out :=
  let k := count1.toNat + 1
  let win (s : State) : Window := s.window (s.me.winId w.toNat)
  let first (s : State) : Nat := (win s).head + winRows (win s).desc
  let probe (s : State) := s.windowProbe w.toNat (win s).desc n (first s) k
  slotOp (s.me.guard g)
    (fun s => firstOf
      [ when (!(win s).bound) (winCoord w.toNat 8 0), when (decide (winRows (win s).desc < k)) (winCoord w.toNat 8 k), resError (probe s) ])
    (fun s =>
      match probe s with
      | .error _ => s
      | .ok p =>
        let id := s.me.winId w.toNat
        let d := (win s).desc
        let f := first s
        let s1 := s.onWindow id fun x => { x.startRows f k p.bad with head := x.head + k }
        s1.accept 0x04 (winCq d) 0 (.fill id f k 0 0 p.bad) p.tr) s

/-! ### Deck blocks (R280, R281) -/

/-- The probe of `lb` and `lbe`: the ring, the tensor, the tile, the last line, and the translation of the lines. -/
def State.blockProbe (s : State) (h : BitVec 4) (ring : BitVec 4) (tile first count : Nat) : Res Exn (Nat × List CachedEntry) :=
  let w := s.who s.cur
  let i := (SMap.get 0 s.me.regs.h h.toNat).toNat
  match s.unboundRing ring 8 with
  | some e => .error e
  | none =>
    match s.tensor w.asid i with
    | none => .error (Exn.coord i 0 8 i)
    | some t =>
      if t.tiles ≤ tile then .error (Exn.coord i 0 8 tile)
      else if t.tile / 128 < first + count then .error (Exn.coord i 0 8 (first + count - 1))
      else match s.translate w i t tile (128 * first) (128 * count) none .read with
        | .error sub => .error (Exn.xlate sub i tile 8 0)
        | .ok l => .ok (i, [⟨w.asid, i, none, s.tensorWords w.asid i⟩, ⟨w.asid, i, some tile, l.2⟩])

def execLb (g : Guard) (h : BitVec 4) (b c : BitVec 6) (ring : BitVec 4) (count1 : BitVec 6) (s : State) : Out :=
  let n := count1.toNat + 1
  let probe (s : State) := s.blockProbe h ring (s.me.s b).toNat (s.me.s c).toNat n
  slotOp (s.me.guard g) (fun s => resError (probe s))
    (fun s =>
      match probe s with
      | .ok p => s.accept 0x05 ring.toNat 0 (.block (groupOf s.cur.core) (s.partOf s.cur) p.1 (s.me.s b).toNat (s.me.s c).toNat n) p.2
      | .error _ => s) s

def execLbe (g : Guard) (h : BitVec 4) (b c : BitVec 6) (ring : BitVec 4) (s : State) : Out :=
  let probe (s : State) := s.blockProbe h ring (s.me.s b).toNat (s.me.s c).toNat 1
  slotOp (s.me.guard g) (fun s => resError (probe s))
    (fun s =>
      match probe s with
      | .ok p => s.accept 0x06 ring.toNat 0 (.evict (groupOf s.cur.core) (s.partOf s.cur) p.1 (s.me.s b).toNat (s.me.s c).toNat) p.2
      | .error _ => s) s

/-! ### Signals (R285, R286) -/

/-- The world of the target of a signal, where it lies in this package: a sealed stream or context. -/
def State.sigSealed (s : State) (kind : Bool) (p : W64) : Bool :=
  if s.links.selfValid && decide (sigPackage kind p = s.links.self.toNat) then
    if kind then (s.ctx ⟨slice p 0 16, slice p 16 2⟩).world
    else (s.stream ⟨p.getLsbD 8, slice p 9 6⟩).ctl.getLsbD 4
  else false

/-- Whether a package is present in the live link table: one with a LIVE link (R432), or this one, whatever its own row holds (log entry 117). -/
def State.packagePresent (s : State) (p : Nat) : Bool :=
  decide (p = s.links.self.toNat) || decide (SMap.get 0 s.links.live p ≠ 0)

/-- `csig` of either kind (R285, R286): without a pod number, or with a target package that is not present, it fails at issue. It is sent once
what it forks from has happened (`State.sendSignals`). -/
def sigCommand (kind : Bool) (o : SigOp) (s : State) : Out :=
  slotOp (s.me.guard o.g)
    (fun s => firstOf
      [ if o.ack then s.unboundRing o.ring 8 else none
      , when (!s.me.world && s.sigSealed kind (s.me.s o.a)) (Exn.xlate .world 0 0 8 0) ])
    (fun s =>
      let p := s.me.s o.a
      let tag : BitVec 16 := slice (s.me.s o.c) 0 16
      let g : Signal := ⟨s.links.self, s.nextId, s.me.asid, s.me.world, kind, p, o.counter, if kind then slice (s.me.s o.b) 0 32 else 0, tag⟩
      if s.links.selfValid && s.packagePresent (sigPackage kind p) then
        s.accept 0x08 o.ring.toNat (if o.ack then tag else 0) (.csig g o.ack false none) []
      else
        let s1 := s.tally 0x620 1
        if o.ack then s1.post (s1.me.ringId o.ring.toNat) (statusWord tag 0x08 5 0) (some s1.cur.core.toNat) else s1) s

def execCsig (o : SigOp) (s : State) : Out := sigCommand false o s
def execCsigRing (o : SigOp) (s : State) : Out := sigCommand true o s

end Sys2Proof.Machine
end

