-- ==== Sys2Proof/Machine/Transfer.lean ====
section
/-! DEFINITION. Machine/Transfer.lean: the X slot (R228 to R233): moves between the register files and writes of the scale latches. -/

namespace Sys2Proof.Machine

/-- Word j of a register (R201). -/
def word (x : V1024) (j : Nat) : W64 := slice x (64 * j) 64

def execXs2v (a : BitVec 6) (vd : BitVec 6) (all : Bool) (j : BitVec 4) (s : State) : Out :=
  slotOp true noCheck (fun s => s.onMe fun c =>
    let js := if all then List.range 16 else [j.toNat]
    c.landV 2 vd (gatherElems 64 (js.map fun j => (j, (c.s a).toNat))) (lanesOf 64 js) (c.sTag a)) s

def execXv2s (d : BitVec 6) (va : BitVec 6) (j : BitVec 4) (s : State) : Out :=
  slotOp true noCheck (fun s => s.onMe fun c => c.landS 3 d (word (c.v va) j.toNat) (c.vTag va)) s

def execXm2s (d : BitVec 6) (m : BitVec 3) (h : Bool) (s : State) : Out :=
  slotOp true noCheck (fun s => s.onMe fun c => c.landS 2 d (slice (c.m m) (if h then 64 else 0) 64) (c.mTag m)) s

def execXs2m (a : BitVec 6) (m : BitVec 3) (h : Bool) (s : State) : Out :=
  slotOp true noCheck (fun s => s.onMe fun c =>
    let sh := if h then 64 else 0
    c.land 2 (.m m.toNat ((c.s a).setWidth 128 <<< sh) ((BitVec.allOnes 64).setWidth 128 <<< sh)) (c.sTag a)) s

/-- The entry key of a latch line and block. -/
def latchKey (line block : Nat) : Nat := 16 * line + block

/-- A 32-bit element of a register. -/
def elem32 (x : V1024) (e : Nat) : BitVec 32 := slice x (32 * e) 32

/-- A latch write of latency 4 (R233): a tagged register raises POISON, the vector register first. -/
def latchOp (l : Latch) (va : Option (BitVec 6)) (a : BitVec 6) (entries : Ctx → List (Nat × BitVec 32)) (s : State) : Out :=
  slotOp true (fun s => firstOf [va.bind fun v => s.me.taggedV 4 v, s.me.tagged 4 a])
    (fun s => s.onMe fun c => c.land 4 (.latch l.code (entries c)) false) s

def execSld (l : Latch) (va : BitVec 6) (a : BitVec 6) (s : State) : Out :=
  latchOp l (some va) a (fun c =>
    let q := field (c.s a) 5 1
    (List.range 32).map fun e => (latchKey (2 * q + e / 16) (e % 16), elem32 (c.v va) e)) s

def execSzp (l : Latch) (va : BitVec 6) (a : BitVec 6) (g : BitVec 2) (s : State) : Out :=
  latchOp l (some va) a (fun c =>
    let h := field (c.s a) 4 4
    let k0 := field (c.s a) 3 0
    let ks := ((List.range (2 ^ g.toNat)).map fun i => k0 + i).filter fun k => decide (k < 16)
    ks.flatMap fun k => (List.range 32).map fun e => (latchKey (32 * h + e) k, elem32 (c.v va) e)) s

def execSclr (l : Latch) (a : BitVec 6) (s : State) : Out :=
  latchOp l none a (fun c => (List.range 1024).map fun k => (k, (c.s a).truncate 32)) s

end Sys2Proof.Machine
end

