-- ==== Sys2Proof/Machine/Vector.lean ====
section
/-! DEFINITION. Machine/Vector.lean: the V slots (R201 to R227). -/

namespace Sys2Proof.Machine

/-! ### Shapes -/

/-- A vector operation on the enabled elements: `f` computes element e (R202). -/
def vecOp (o : VOp) (lat : Nat) (tag : Ctx → Bool) (f : Ctx → Nat → Flagged Nat) (s : State) : Out :=
  slotOp true noCheck (fun s => s.onMe fun c =>
    c.landRes lat o.vd o.ty.bits (vmap (enabledElems o c) (f c)) (tag c || c.mTag o.m)) s

/-- One source. -/
def vec1 (o : VOp) (lat : Nat) (f : Nat → Flagged Nat) (s : State) : Out :=
  vecOp o lat (fun c => c.vTag o.va) (fun c e => f (elem (c.v o.va) o.ty.bits e)) s

/-- Two sources. -/
def vec2 (o : VOp) (lat : Nat) (f : Nat → Nat → Flagged Nat) (s : State) : Out :=
  vecOp o lat (fun c => c.vTag o.va || c.vTag o.vb)
    (fun c e => f (elem (c.v o.va) o.ty.bits e) (elem (c.v o.vb) o.ty.bits e)) s

/-- Three sources. -/
def vec3 (o : VOp) (lat : Nat) (f : Nat → Nat → Nat → Flagged Nat) (s : State) : Out :=
  vecOp o lat (fun c => c.vTag o.va || c.vTag o.vb || c.vTag o.vc)
    (fun c e => f (elem (c.v o.va) o.ty.bits e) (elem (c.v o.vb) o.ty.bits e) (elem (c.v o.vc) o.ty.bits e)) s

/-- The number format of an operation's type. -/
def numFmt (o : VOp) : NumFmt := NumFmt.ofElem o.ty

/-- Latency 4 for float types and 2 for integers (R92). -/
def lat42 (o : VOp) : Nat := if o.ty.isF then 4 else 2

/-! ### Arithmetic (R207 to R209) -/

/-- A float or integer operation: exact, then one rounding, wrap or clamp. -/
def arith (fmt : NumFmt) (mode : Nat) (sat : Bool) (ff : Val → Val → Flagged Val) (fi : Int → Int → Int) (a y : Nat) : Flagged Nat :=
  match fmt with
  | .flt f => let x := ff (f.decode a) (f.decode y); let r := f.round x.val mode sat; ⟨r.val, x.fl ||| r.fl⟩
  | .int i => i.fit sat (fi (i.decode a) (i.decode y))

/-- The sum of two elements under a mode (R207). -/
def elemAdd (fmt : NumFmt) (mode : Nat) (sat : Bool) (a y : Nat) : Flagged Nat :=
  arith fmt mode sat (Val.add (mode = 2)) (· + ·) a y

/-- `min` or `max` of two elements (R114, R207). -/
def elemMinMax (fmt : NumFmt) (isMax : Bool) (a y : Nat) : Flagged Nat :=
  match fmt with
  | .flt f =>
    let x := f.decode a
    let z := f.decode y
    if x.isNan || z.isNan then ⟨f.nan, 0⟩
    else ⟨if isMax then (if x.below z then y else a) else (if z.below x then y else a), 0⟩
  | .int i =>
    let x := i.decode a
    let z := i.decode y
    ⟨if isMax then (if x < z then y else a) else (if z < x then y else a), 0⟩

/-- `abs` (R207). -/
def elemAbs (fmt : NumFmt) (sat : Bool) (a : Nat) : Flagged Nat :=
  match fmt with
  | .flt f => ⟨if (f.decode a).isNan then f.nan else a % 2 ^ (f.w - 1), 0⟩
  | .int i => i.fit sat (i.decode a).natAbs

/-- `neg` (R207). -/
def elemNeg (fmt : NumFmt) (sat : Bool) (a : Nat) : Flagged Nat :=
  match fmt with
  | .flt f => ⟨if (f.decode a).isNan then f.nan else (a + 2 ^ (f.w - 1)) % 2 ^ f.w, 0⟩
  | .int i => i.fit sat (-(i.decode a))

/-- `fma`, `fms`, `fnma` (R208): signs of the product and of c. -/
def elemFma (fmt : NumFmt) (mode : Nat) (sat negP negC : Bool) (a y z : Nat) : Flagged Nat :=
  match fmt with
  | .flt f =>
    let x := Val.fma (mode = 2) (f.decode a) (f.decode y) (f.decode z) negP negC
    let r := f.round x.val mode sat
    ⟨r.val, x.fl ||| r.fl⟩
  | .int _ => ⟨0, 0⟩

def execVAdd (o : VOp) (s : State) : Out := vec2 o (lat42 o) (elemAdd (numFmt o) o.rm.toNat o.sat) s
def execVSub (o : VOp) (s : State) : Out :=
  vec2 o (lat42 o) (arith (numFmt o) o.rm.toNat o.sat (fun a y => Val.add (o.rm.toNat = 2) a y.neg) (· - ·)) s
def execVMul (o : VOp) (s : State) : Out := vec2 o (lat42 o) (arith (numFmt o) o.rm.toNat o.sat Val.mul (· * ·)) s
def execVFma (o : VOp) (s : State) : Out := vec3 o 4 (elemFma (numFmt o) o.rm.toNat o.sat false false) s
def execVFms (o : VOp) (s : State) : Out := vec3 o 4 (elemFma (numFmt o) o.rm.toNat o.sat false true) s
def execVFnma (o : VOp) (s : State) : Out := vec3 o 4 (elemFma (numFmt o) o.rm.toNat o.sat true false) s
def execVMin (o : VOp) (s : State) : Out := vec2 o (lat42 o) (elemMinMax (numFmt o) false) s
def execVMax (o : VOp) (s : State) : Out := vec2 o (lat42 o) (elemMinMax (numFmt o) true) s
def execVAbs (o : VOp) (s : State) : Out := vec1 o 2 (elemAbs (numFmt o) o.sat) s
def execVNeg (o : VOp) (s : State) : Out := vec1 o 2 (elemNeg (numFmt o) o.sat) s

/-- The exact sum of a list of terms, with the specials of R118: NaN if a term is one. -/
def sumVals (rd : Bool) (l : List Val) : Flagged Val :=
  match l with
  | [] => ⟨Val.zero, 0⟩
  | v :: r => r.foldl (fun acc v => let x := acc.val.add rd v; ⟨x.val, acc.fl ||| x.fl⟩) ⟨v, 0⟩

/-- A sum of products and one more term: a NaN factor gives NaN and no flag; 0 x infinity, or infinities of both signs, give NaN
and INVALID once (R118, R209). -/
def dotVals (rd : Bool) (ps : List (Val × Val)) (extra : List Val) : Flagged Val :=
  if ps.any (fun p => p.1.isNan || p.2.isNan) || extra.any Val.isNan then ⟨.nan, 0⟩
  else
    let qs := ps.map fun p => p.1.mul p.2
    if qs.any fun q => q.val.isNan then ⟨.nan, Flags.invalid⟩
    else
      let ts := qs.map (·.val) ++ extra
      if ts.contains (.inf true) && ts.contains (.inf false) then ⟨.nan, Flags.invalid⟩
      else if ts.contains (.inf true) then ⟨.inf true, 0⟩
      else if ts.contains (.inf false) then ⟨.inf false, 0⟩
      else sumVals rd ts

/-- One 32-bit element of `dot4` (R209). -/
def elemDot4 (ty : ElemTy) (mode : Nat) (sat : Bool) (va vb vc : V1024) (i : Nat) : Flagged Nat :=
  let js := [4 * i, 4 * i + 1, 4 * i + 2, 4 * i + 3]
  match NumFmt.ofElem ty with
  | .int k =>
    let w : IFmt := ⟨32, k.signed⟩
    w.fit sat (js.foldl (fun t j => t + k.decode (elem va 8 j) * k.decode (elem vb 8 j)) (w.decode (elem vc 32 i)))
  | .flt f =>
    let x := dotVals (mode = 2) (js.map fun j => (f.decode (elem va 8 j), f.decode (elem vb 8 j))) [FFmt.f32.decode (elem vc 32 i)]
    let r := FFmt.f32.round x.val mode sat
    ⟨r.val, x.fl ||| r.fl⟩

def execVDot4 (o : VOp) (s : State) : Out :=
  slotOp true noCheck (fun s => s.onMe fun c =>
    let es := (List.range 32).filter fun i => enabled (c.m o.m) 32 i
    c.landRes 4 o.vd 32 (vmap es (elemDot4 o.ty o.rm.toNat o.sat (c.v o.va) (c.v o.vb) (c.v o.vc)))
      (c.vTag o.va || c.vTag o.vb || c.vTag o.vc || c.mTag o.m)) s

/-! ### Compare, select and bitwise (R210 to R213) -/

def execVCmp (o : VOp) (s : State) : Out :=
  slotOp true noCheck (fun s => s.onMe fun c =>
    let b := o.ty.bits
    let es := enabledElems o c
    let hits := es.filter fun e =>
      vectorCond o.ext.toNat ((numFmt o).decode (elem (c.v o.va) b e)) ((numFmt o).decode (elem (c.v o.vb) b e))
    c.land 2 (.m o.vd.toNat (lanesOf b hits) (lanesOf b es)) (c.vTag o.va || c.vTag o.vb || c.mTag o.m)) s

def execVSel (o : VOp) (s : State) : Out :=
  let q : BitVec 3 := o.ext.truncate 3
  vecOp o 2 (fun c => c.vTag o.va || c.vTag o.vb || c.mTag q)
    (fun c e => ⟨elem (if enabled (c.m q) o.ty.bits e then c.v o.va else c.v o.vb) o.ty.bits e, 0⟩) s

/-- A bitwise operation sets no flag. -/
def plainElem (f : Nat → Nat → Nat) (a y : Nat) : Flagged Nat := ⟨f a y, 0⟩

def execVAnd (o : VOp) (s : State) : Out := vec2 o 2 (plainElem (· &&& ·)) s
def execVOr (o : VOp) (s : State) : Out := vec2 o 2 (plainElem (· ||| ·)) s
def execVXor (o : VOp) (s : State) : Out := vec2 o 2 (plainElem (· ^^^ ·)) s
def execVNot (o : VOp) (s : State) : Out := vec1 o 2 (fun a => ⟨2 ^ o.ty.bits - 1 - a, 0⟩) s

/-- A vector shift: the count from vb or the vb field itself (R213). -/
def vecShift (o : VOp) (f : Nat → Nat → Nat) (s : State) : Out :=
  if o.ext = 1 then vec1 o 2 (fun a => ⟨f a o.vb.toNat, 0⟩) s else vec2 o 2 (plainElem f) s

/-- Arithmetic shift right of a b-bit element. -/
def sarElem (b a n : Nat) : Nat :=
  let m := min n b
  if 2 ^ (b - 1) ≤ a then a / 2 ^ m + (2 ^ b - 2 ^ (b - m)) else a / 2 ^ m

def execVShl (o : VOp) (s : State) : Out :=
  vecShift o (fun a n => if o.ty.bits ≤ n then 0 else a * 2 ^ n % 2 ^ o.ty.bits) s
def execVShr (o : VOp) (s : State) : Out := vecShift o (fun a n => if o.ty.bits ≤ n then 0 else a / 2 ^ n) s
def execVSar (o : VOp) (s : State) : Out := vecShift o (fun a n => sarElem o.ty.bits a n) s

/-! ### Conversions (R214 to R216) -/

/-- One conversion; between one float format and itself only a NaN changes (R214). -/
def convElem (src dst : ElemTy) (mode : Nat) (sat : Bool) (x : Nat) : Flagged Nat :=
  if src = dst && !(NumFmt.ofElem src).isInt then
    if ((NumFmt.ofElem src).decode x).isNan then (NumFmt.ofElem dst).round .nan mode sat false else ⟨x, 0⟩
  else convert (NumFmt.ofElem src) (NumFmt.ofElem dst) x mode sat

/-- The source type of a conversion, f32 where the code is none. -/
def srcOf (o : VOp) : ElemTy := o.srcTy.getD .f32

/-- `cvt`: destination elements and the source element of each. -/
def cvtPairs (src dst : ElemTy) (p : Nat) : List (Nat × Nat) :=
  if src.bits = dst.bits then (List.range dst.count).map fun e => (e, e)
  else if dst.bits < src.bits then (List.range src.count).map fun e => (p * src.count + e, e)
  else (List.range dst.count).map fun e => (e, p * dst.count + e)

/-- A conversion of listed destination elements. -/
def convOp (o : VOp) (pairs : List (Nat × Nat)) (two : Bool) (s : State) : Out :=
  slotOp true noCheck (fun s => s.onMe fun c =>
    let es := pairs.filter fun p => enabled (c.m o.m) o.ty.bits p.1
    let n := (srcOf o).count
    let at' (k : Nat) : Nat := if two && n ≤ k then elem (c.v o.vb) (srcOf o).bits (k - n) else elem (c.v o.va) (srcOf o).bits k
    let r : VRes := es.foldr (fun p r =>
      let x := convElem (srcOf o) o.ty o.rm.toNat o.sat (at' p.2); ⟨(p.1, x.val) :: r.elems, x.fl ||| r.fl⟩) ⟨[], 0⟩
    c.landRes 4 o.vd o.ty.bits r (c.vTag o.va || (two && c.vTag o.vb) || c.mTag o.m)) s

def execVCvt (o : VOp) (s : State) : Out := convOp o (cvtPairs (srcOf o) o.ty o.part) false s
def execVPack (o : VOp) (s : State) : Out := convOp o ((List.range o.ty.count).map fun e => (e, e)) true s
def execVUnpack (o : VOp) (s : State) : Out :=
  convOp o ((List.range o.ty.count).map fun e => (e, o.ty.bits / (srcOf o).bits * e + o.part)) false s

/-! ### Special functions (R217, R218) -/

/-- A special function on the enabled elements. -/
def specOp (f : SpecFn) (lat : Nat) (o : VOp) (s : State) : Out :=
  vec1 o lat (fun a => match (numFmt o) with
    | .flt fmt => f.eval fmt a o.rm.toNat o.sat
    | .int _ => ⟨0, 0⟩) s

def execVExp2 (o : VOp) (s : State) : Out := specOp .exp2 8 o s
def execVLog2 (o : VOp) (s : State) : Out := specOp .log2 8 o s
def execVRcp (o : VOp) (s : State) : Out := specOp .rcp 8 o s
def execVRsqrt (o : VOp) (s : State) : Out := specOp .rsqrt 8 o s
def execVSqrt (o : VOp) (s : State) : Out := specOp .sqrt 12 o s
def execVTanh (o : VOp) (s : State) : Out := specOp .tanh 8 o s

/-! ### Reductions and scans (R115, R116, R219, R220) -/

/-- Lane values; none for a disabled lane. -/
abbrev Lanes := List (Option Nat)

/-- op of two lanes, where a disabled lane stands aside. -/
def laneOp (op : Nat → Nat → Flagged Nat) : Option Nat → Option Nat → Option Nat × Flags
  | some a, some b => let x := op a b; (some x.val, x.fl)
  | some a, none => (some a, 0)
  | none, y => (y, 0)

/-- One level of the tree: neighbours combine. -/
def treeLevel (op : Nat → Nat → Flagged Nat) : Lanes → Lanes × Flags
  | a :: b :: r => let x := laneOp op a b; let y := treeLevel op r; (x.1 :: y.1, x.2 ||| y.2)
  | l => (l, 0)

/-- The tree of R115 over 2^d lanes. -/
def treeReduce (op : Nat → Nat → Flagged Nat) : Nat → Lanes → Option Nat × Flags
  | 0, l => (l.head?.join, 0)
  | d + 1, l => let x := treeLevel op l; let y := treeReduce op d x.1; (y.1, x.2 ||| y.2)

/-- One level of the scan: each lane with the lane 2^d below it; a lane that the mask does not enable sets no flag (R113),
also where its sum feeds an enabled one, whose nodes R219 and R220 have set flags (log entry 96). -/
def scanLevel (op : Nat → Nat → Flagged Nat) : List Bool → Lanes → Lanes → Lanes × Flags
  | m :: ms, x :: xs, y :: ys =>
    let z := laneOp op x y
    let r := scanLevel op ms xs ys
    (z.1 :: r.1, (if m then z.2 else 0) ||| r.2)
  | _, _, ys => (ys, 0)

/-- The scan of R116 under a mask of lanes: n more levels from distance k. -/
def scanAll (op : Nat → Nat → Flagged Nat) (ms : List Bool) : Nat → Nat → Lanes → Lanes × Flags
  | 0, _, l => (l, 0)
  | n + 1, k, l =>
    let x := scanLevel op ms (List.replicate k none ++ l) l
    let y := scanAll op ms n (2 * k) x.1
    (y.1, x.2 ||| y.2)

/-- The lanes of va under the mask. -/
def lanesIn (o : VOp) (c : Ctx) : Lanes :=
  (List.range o.ty.count).map fun e => if enabled (c.m o.m) o.ty.bits e then some (elem (c.v o.va) o.ty.bits e) else none

/-- log2 of the element count. -/
def levels (o : VOp) : Nat := o.ty.count.log2

/-- A reduction writes element 0 whatever the mask (R202, R219); `empty` is its value of no lane. A NaN that meets no other lane is made canonical
(R107). -/
def reduceOp (o : VOp) (op : Nat → Nat → Flagged Nat) (empty : Nat) (s : State) : Out :=
  slotOp true noCheck (fun s => s.onMe fun c =>
    let r := treeReduce op (levels o) (lanesIn o c)
    c.landRes 6 o.vd o.ty.bits ⟨[(0, (numFmt o).canon (r.1.getD empty))], r.2⟩ (c.vTag o.va || c.mTag o.m)) s

/-- empty(op) of `rmax` and `rmin` (R115). -/
def emptyMinMax (fmt : NumFmt) (isMax : Bool) : Nat :=
  match fmt with
  | .flt f => f.infBits isMax
  | .int i => lowBits i.w (if isMax then i.min else i.max)

def execVRadd (o : VOp) (s : State) : Out := reduceOp o (elemAdd (numFmt o) o.rm.toNat o.sat) 0 s
def execVRmax (o : VOp) (s : State) : Out := reduceOp o (elemMinMax (numFmt o) true) (emptyMinMax (numFmt o) true) s
def execVRmin (o : VOp) (s : State) : Out := reduceOp o (elemMinMax (numFmt o) false) (emptyMinMax (numFmt o) false) s

def execVSadd (o : VOp) (s : State) : Out :=
  slotOp true noCheck (fun s => s.onMe fun c =>
    let l := lanesIn o c
    let r := scanAll (elemAdd (numFmt o) o.rm.toNat o.sat) (l.map (·.isSome)) (levels o) 1 l
    let es := (enabledElems o c).map fun e => (e, (numFmt o).canon ((r.1.getD e none).getD 0))
    c.landRes 6 o.vd o.ty.bits ⟨es, r.2⟩ (c.vTag o.va || c.mTag o.m)) s

/-! ### Permutes (R221 to R223) and moves (R224 to R226) -/

def execVPerm (o : VOp) (s : State) : Out :=
  vecOp o 3 (fun c => c.vTag o.va || c.vTag o.vb)
    (fun c e => let k := elem (c.v o.vb) o.ty.bits e; ⟨if k < o.ty.count then elem (c.v o.va) o.ty.bits k else 0, 0⟩) s

/-- The source of element e under a pattern of R222: true for vb, and the element. -/
def shufSource (pat n e : Nat) : Bool × Nat :=
  match pat with
  | 0 => (decide (e % 2 = 1), e / 2)
  | 1 => (decide (e % 2 = 1), n / 2 + e / 2)
  | 2 => if e < n / 2 then (false, 2 * e) else (true, 2 * (e - n / 2))
  | _ => if e < n / 2 then (false, 2 * e + 1) else (true, 2 * (e - n / 2) + 1)

def execVShuf (o : VOp) (s : State) : Out :=
  vecOp o 3 (fun c => c.vTag o.va || c.vTag o.vb)
    (fun c e => let x := shufSource o.ext.toNat o.ty.count e; ⟨elem (if x.1 then c.v o.vb else c.v o.va) o.ty.bits x.2, 0⟩) s
def execVBcast (o : VOp) (s : State) : Out :=
  vecOp o 3 (fun c => c.vTag o.va) (fun c _ => ⟨elem (c.v o.va) o.ty.bits o.index, 0⟩) s
def execVSlide (o : VOp) (s : State) : Out :=
  vecOp o 3 (fun c => c.vTag o.va || c.vTag o.vb)
    (fun c e =>
      let k := e + o.index
      ⟨if k < o.ty.count then elem (c.v o.va) o.ty.bits k else elem (c.v o.vb) o.ty.bits (k - o.ty.count), 0⟩) s
def execVMov (o : VOp) (s : State) : Out := vec1 o 2 (fun a => ⟨a, 0⟩) s
def execVMovi (u : VUnit) (m : BitVec 3) (ty : ElemTy) (vd : BitVec 6) (imm : BitVec 32) (s : State) : Out :=
  vecOp ⟨u, m, ty, vd, 0, 0, 0, 0, false, 0⟩ 2 (fun _ => false) (fun _ _ => ⟨imm.toNat % 2 ^ ty.bits, 0⟩) s

/-- A mask operation writes all 128 bits (R226). -/
def maskOp (o : VOp) (f : Mask → Mask → Mask) (two : Bool) (s : State) : Out :=
  slotOp true noCheck (fun s => s.onMe fun c =>
    let a : BitVec 3 := o.va.truncate 3
    let b : BitVec 3 := o.vb.truncate 3
    c.land 2 (.m o.vd.toNat (f (c.m a) (c.m b)) (BitVec.allOnes 128)) (c.mTag a || (two && c.mTag b))) s

def execVMand (o : VOp) (s : State) : Out := maskOp o (fun a b => a &&& b) true s
def execVMor (o : VOp) (s : State) : Out := maskOp o (fun a b => a ||| b) true s
def execVMxor (o : VOp) (s : State) : Out := maskOp o (fun a b => a ^^^ b) true s
def execVMnot (o : VOp) (s : State) : Out := maskOp o (fun a _ => ~~~a) false s

/-! ### Duplicate execution (R79, R227) -/

/-- V1 executes the V0 operation of the same bundle, and its result and flags are compared with V0's at their due tick (R79, R227). V0's result,
where it writes a register, is the newest entry of the landing queue, behind any of the M slot. The unit of V1 computes as that of V0 does, so the two differ only
after an error of the hardware (log entry 9). -/
def execDup (s : State) : Out :=
  slotOp true noCheck
    (fun s => s.onMe fun c =>
      let now := c.regs.tick
      let flags := match c.regs.flagQ.getLast? with
        | some f => if f.iss = now then f.bits else 0
        | none => 0
      match (c.regs.landing.drop c.mEnd).getLast? with
      | some l => if l.iss = now && l.val.isWide then { c with regs := { c.regs with dupQ := c.regs.dupQ ++ [⟨c.regs.pc, l, flags⟩] } } else c
      | none => c) s

end Sys2Proof.Machine
end

