-- ==== Sys2Proof/Machine/Matrix.lean ====
section
/-! DEFINITION. Machine/Matrix.lean: the M slot (R117 to R126, R234 to R248): tiles, the block sums and their entry, operand panels,
products, and moves of tile contents. -/

namespace Sys2Proof.Machine

/-! ### Entering block sums (R119) -/

/-- The floor of log2 of a natural as an exponent. -/
def topBit (n : Nat) (x : Int) : Int := x + (n.log2 : Int)

/-- tr(x, b) in units of 2^b, and whether it is x itself. -/
def truncAt (v : Val) (b : Int) : Int × Bool :=
  match v with
  | .fin n m x =>
    if b ≤ x then let k : Int := (m <<< (x - b).toNat : Nat); (if n then -k else k, true)
    else
      let d := (b - x).toNat
      let k : Int := (m >>> d : Nat)
      (if n then -k else k, decide (m % 2 ^ d = 0))
  | _ => (0, true)

/-- The sum of two truncations, in units of 2^b. -/
def truncSum (v x : Val) (b : Int) : Int := (truncAt v b).1 + (truncAt x b).1

/-- Whether the sum fits a window of anchor b. -/
def fitsAt (v x : Val) (b : Int) : Bool := decide ((truncSum v x b).natAbs < 2 ^ 128)

/-- The least anchor from a at which one element fits: it lies next to the magnitude of the exact sum. -/
def elemAnchor (a : Int) (v x : Val) : Int :=
  let start : Int := match (v.add false x).val with
    | .fin _ m e => if m = 0 then a else max a (topBit m e - 128)
    | _ => a
  if fitsAt v x start then start else if fitsAt v x (start + 1) then start + 1 else start + 2

/-- The value of a FINITE element. -/
def WinElem.val (e : WinElem) (a : Int) : Val := .fin e.neg e.mag.toNat a

/-- The class step of `enter`. -/
def enterClass (e : WinElem) (x : Val) : Flagged WinElem :=
  match e.cls, x with
  | .nan, _ => ⟨e, 0⟩
  | _, .nan => ⟨{ e with cls := .nan }, 0⟩
  | .posInf, .inf true => ⟨{ e with cls := .nan }, Flags.invalid⟩
  | .negInf, .inf false => ⟨{ e with cls := .nan }, Flags.invalid⟩
  | _, .inf n => ⟨{ e with cls := if n then .negInf else .posInf }, 0⟩
  | _, _ => ⟨e, 0⟩

/-- The last step of `enter` on one element, at the final anchor. A sum of zero leaves sign 0, and an element that becomes an infinity or a NaN keeps
its sign and magnitude, which R119 leaves open (log entry 98). -/
def enterElem (a b : Int) (e : WinElem) (x : Val) : Flagged WinElem :=
  match e.cls with
  | .finite =>
    let v := e.val a
    let k := truncSum v x b
    if 2 ^ 128 ≤ k.natAbs then
      ⟨{ e with cls := if ((v.add false x).val).sign then .negInf else .posInf }, 0⟩
    else
      ⟨⟨.finite, decide (k < 0), BitVec.ofNat 128 k.natAbs⟩,
        if (truncAt v b).2 && (truncAt x b).2 then 0 else Flags.inexact⟩
  | _ => ⟨e, 0⟩

/-- `enter` (R119) on the elements of a tile, with one block sum each: the new anchor, elements and flags. -/
def enter (a : Int) (es : List WinElem) (xs : List Val) : Int × List WinElem × Flags :=
  let cs := List.zipWith enterClass es xs
  let es1 := cs.map (·.val)
  let need := (List.zip es1 xs).foldl (fun b p => if p.1.cls = .finite then max b (elemAnchor a (p.1.val a) p.2) else b) a
  let b := min need 1023
  let rs := List.zipWith (enterElem a b) es1 xs
  (b, rs.map (·.val),
    cs.foldl (fun f c => f ||| c.fl) 0 ||| rs.foldl (fun f c => f ||| c.fl) 0 ||| (if 1023 < need then Flags.overflow else 0))

/-! ### Tiles as lists (R117) -/

/-- Columns of a tile on a core (R236). -/
def tileCols (core : BitVec 16) : Nat := if isS core then 4 else 64

/-- The key of element e in ROW order of n columns. -/
def tileKey (n e : Nat) : Nat := 64 * (e / n) + e % n

/-- The elements of a WINDOW tile. -/
def Tile.elems (t : Tile) (n : Nat) : List WinElem := (List.range (64 * n)).map fun e => SMap.get WinElem.zero t.win (tileKey n e)

/-- The binary64 values of an F64 tile. -/
def Tile.doubles (t : Tile) (n : Nat) : List W64 := (List.range (64 * n)).map fun e => SMap.get 0 t.f64 (tileKey n e)

/-- A sparse map of the listed values in ROW order of n columns; keys rise with the position. -/
def tileMap {α : Type} [DecidableEq α] (d : α) (n : Nat) (l : List α) : SMap α :=
  (List.zip (List.range l.length) l).filterMap fun p => if p.2 = d then none else some (tileKey n p.1, p.2)

/-- A WINDOW tile of listed elements. -/
def Tile.ofElems (n : Nat) (a : Int) (l : List WinElem) : Tile := ⟨.window, a, tileMap WinElem.zero n l, []⟩

/-- An F64 tile of listed values; what writes one leaves the anchor that the tile had (log entry 22). -/
def Tile.ofDoubles (n : Nat) (a : Int) (l : List W64) : Tile := ⟨.f64, a, [], tileMap 0 n l⟩

/-- The value of a binary64 word. -/
def doubleVal (x : W64) : Val := FFmt.f64.decode x.toNat

/-- The values of a tile's elements as `mst` and `mrd` read them (R121, R123). -/
def Tile.vals (t : Tile) (n : Nat) : List Val :=
  match t.mode with
  | .f64 => (t.doubles n).map doubleVal
  | .window => (t.elems n).map fun e => match e.cls with
    | .nan => .nan
    | .posInf => .inf false
    | .negInf => .inf true
    | .finite => if e.mag = 0 then Val.zero else e.val t.anchor

/-- A tile that block sums enter, with its flags. -/
def Tile.enterAll (t : Tile) (n : Nat) (xs : List Val) : Flagged Tile :=
  let r := enter t.anchor (t.elems n) xs
  ⟨Tile.ofElems n r.1 r.2.1, r.2.2⟩

/-- A tile in WINDOW mode: an F64 tile enters its former values as one block sum (R120). -/
def Tile.toWindow (t : Tile) (n : Nat) : Flagged Tile :=
  match t.mode with
  | .window => ⟨t, 0⟩
  | .f64 => Tile.zero.enterAll n (t.vals n)

/-- A tile in F64 mode: a WINDOW tile rounds each element to binary64 (R123). -/
def Tile.toF64 (t : Tile) (n : Nat) : Flagged Tile :=
  match t.mode with
  | .f64 => ⟨t, 0⟩
  | .window =>
    let r := (t.vals n).map fun v => FFmt.f64.round v 0 false
    ⟨Tile.ofDoubles n t.anchor (r.map fun x => BitVec.ofNat 64 x.val), r.foldl (fun f x => f ||| x.fl) 0⟩

/-- The tile that an M operation of the context reads (R234): with the result of every `mma` and `mmr` issued before it. -/
def Ctx.seenTile (c : Ctx) (t : Nat) : Tile :=
  match (c.regs.pendTiles.filter fun p => decide (p.tile = t) && p.mm).getLast? with
  | some p => p.val
  | none => c.tile t

/-- The entries of a list after the last that satisfies a condition. -/
def afterLast {α : Type} (p : α → Bool) (l : List α) : List α := (l.reverse.takeWhile fun x => !p x).reverse

/-- A tile result of an M operation becomes pending. A pending `mma` result of the tile, which this operation has read, takes its
place in the tile first, so that its later due tick does not undo this result (log entry 21). -/
def Ctx.landTile (c : Ctx) (t lat : Nat) (v : Tile) (mm : Bool) : Ctx :=
  let r := c.regs
  let mine (p : PendTile) : Bool := decide (p.tile = t)
  let early := r.pendTiles.any fun p => mine p && p.mm
  let kept := if early then
      (r.pendTiles.filter fun p => !mine p) ++ (afterLast (fun p => p.mm) (r.pendTiles.filter mine))
    else r.pendTiles
  { c with regs := { r with
      tiles := if early then SMap.set Tile.zero r.tiles t (c.seenTile t) else r.tiles
      pendTiles := kept ++ [⟨t, r.tick + lat, v, mm⟩] } }

/-! ### Operand panels (R236) -/

/-- Bytes of one row of one K block. -/
def rowSize : MatFmt → Nat
  | .f64 | .bf16 | .f16 => 64
  | .e4m3 | .e5m2 | .i8 => 32
  | .mxfp4 | .q4g => 16
  | .tx6 => 24

/-- Element q of a block row. -/
def matElem (f : MatFmt) (row : Nat) (q : Nat) : Nat :=
  match f with
  | .f64 => row / 2 ^ (64 * q) % 2 ^ 64
  | .bf16 | .f16 => row / 2 ^ (16 * q) % 2 ^ 16
  | .e4m3 | .e5m2 | .i8 => row / 2 ^ (8 * q) % 2 ^ 8
  | .mxfp4 | .q4g => row / 2 ^ (4 * q) % 16
  | .tx6 => row / 2 ^ (6 * q) % 64

/-- The value of element q of a block row under its latch entry (R118, R124, R125), with the flags of a Q4G expansion. -/
def matVal (f : MatFmt) (row : Nat) (entry : BitVec 32) (q : Nat) : Flagged Val :=
  let x := matElem f row q
  match f with
  | .f64 => ⟨FFmt.f64.decode x, 0⟩
  | .bf16 => ⟨FFmt.bf16.decode x, 0⟩
  | .f16 => ⟨FFmt.f16.decode x, 0⟩
  | .e4m3 => ⟨FFmt.e4m3.decode x, 0⟩
  | .e5m2 => ⟨FFmt.e5m2.decode x, 0⟩
  | .i8 => ⟨Val.ofInt ((⟨8, true⟩ : IFmt).decode x), 0⟩
  | .mxfp4 => ⟨mxfp4 x (field entry 7 0), 0⟩
  | .tx6 => ⟨tx6 x (field entry 7 0) (field entry 15 8), 0⟩
  | .q4g => let w := q4g x (field entry 15 0) (field entry 19 16); ⟨FFmt.bf16.decode w.val, w.fl⟩

/-- The values of a block row. -/
def matRow (f : MatFmt) (row : Nat) (entry : BitVec 32) (n : Nat) : List Val × Flags :=
  let l := (List.range n).map (matVal f row entry)
  (l.map (·.val), l.foldl (fun fl x => fl ||| x.fl) 0)

/-- The exact block sum of a row and a column (R118). -/
def blockSum (a b : List Val) : Flagged Val := dotVals false (List.zip a b) []

/-- A latch entry as it stands (R125, R126). -/
def Ctx.latchEntry (c : Ctx) (l : Latch) (line block : Nat) : BitVec 32 := SMap.get 0 c.regs.latches (1024 * l.code + latchKey line block)

/-- One K block of a windowed product: the rows of A and of B as numbers. -/
def enterBlock (c : Ctx) (o : MMul) (n k : Nat) (rowA rowB : Nat → Nat) (t : Flagged Tile) : Flagged Tile :=
  let as := (List.range 64).map fun i => matRow o.fa (rowA i) (c.latchEntry (if o.bank then .sa1 else .sa0) i k) 32
  let bs := (List.range n).map fun j => matRow o.fb (rowB j) (c.latchEntry (if o.bank then .sb1 else .sb0) j k) 32
  let sums := as.flatMap fun a => bs.map fun b => blockSum a.1 b.1
  let fl := as.foldl (fun f a => f ||| a.2) 0 ||| bs.foldl (fun f b => f ||| b.2) 0 ||| sums.foldl (fun f x => f ||| x.fl) 0
  let r := t.val.enterAll n (sums.map (·.val))
  ⟨r.val, t.fl ||| fl ||| r.fl⟩

/-- One K block of a binary64 product: eight fused steps in each cell (R123). -/
def fmaBlock (n : Nat) (rowA rowB : Nat → Nat) (t : Flagged Tile) : Flagged Tile :=
  let as := (List.range 64).map fun i => (matRow .f64 (rowA i) 0 8).1
  let bs := (List.range n).map fun j => (matRow .f64 (rowB j) 0 8).1
  let pairs := as.flatMap fun a => bs.map fun b => List.zip a b
  let cells := List.zipWith (fun (c : W64) (ps : List (Val × Val)) =>
    ps.foldl (fun (x : Flagged Nat) p =>
      let y := Val.fma false p.1 p.2 (FFmt.f64.decode x.val) false false
      let r := FFmt.f64.round y.val 0 false
      ⟨r.val, x.fl ||| y.fl ||| r.fl⟩) ⟨c.toNat, 0⟩) (t.val.doubles n) pairs
  ⟨Tile.ofDoubles n t.val.anchor (cells.map fun x => BitVec.ofNat 64 x.val), t.fl ||| cells.foldl (fun f x => f ||| x.fl) 0⟩

/-- The product of R239: `rowA` and `rowB` give the block row of a line for a block. -/
def product (c : Ctx) (o : MMul) (n : Nat) (rowA rowB : Nat → Nat → Nat) : Flagged Tile :=
  let x := c.seenTile o.tile.toNat
  let kb := o.kb1.toNat + 1
  if o.fa = .f64 then (List.range kb).foldl (fun t k => fmaBlock n (rowA k) (rowB k) t) (x.toF64 n)
  else (List.range kb).foldl (fun t k => enterBlock c o n k (rowA k) (rowB k) t) (x.toWindow n)

/-- Busy cycles of a product (R237). -/
def busyCycles (core : BitVec 16) (fa : MatFmt) (kb : Nat) : Nat :=
  match fa with
  | .f64 => 6 + kb * 64
  | .bf16 | .f16 => if isS core then 6 + 2 * kb else 6 + kb * 16
  | .e4m3 | .e5m2 | .i8 => if isS core then 6 + kb else 6 + kb * 8
  | .mxfp4 | .tx6 => if isS core then 6 + (kb + 1) / 2 else 6 + kb * 4
  | .q4g => 6

/-- The result of a product lands, and its tile is busy (R30, R234, R239). -/
def State.landProduct (s : State) (o : MMul) (r : Flagged Tile) : State :=
  let b := busyCycles s.cur.core o.fa (o.kb1.toNat + 1)
  let cyc := (s.core s.cur.core).cycles
  s.onMe fun c =>
    let c1 := (c.landTile o.tile.toNat b r.val true).flag b r.fl
    { c1 with tileBusy := SMap.set 0 c1.tileBusy o.tile.toNat (cyc + b) }

/-- UNSUPPORTED of an M operation (R90). -/
def matUnsupported (op : Nat) : Exn := Exn.mk .unsupported 5 op

/-- The panel offset in a scalar register. -/
def panelOff (c : Ctx) (r : BitVec 6) : Nat := field (c.s r) 19 0

/-- Bytes of the A and B panels. -/
def panelA (o : MMul) : Nat := 64 * (o.kb1.toNat + 1) * (rowSize o.fa)
def panelB (o : MMul) (n : Nat) : Nat := n * (o.kb1.toNat + 1) * (rowSize o.fb)

/-- A panel that leaves its bank group (R240). -/
def leavesGroup (off len : Nat) : Bool := decide (off / 2 ^ 18 ≠ (off + len - 1) / 2 ^ 18)

/-- Block row `line` of block k of a panel of `lines` lines in core store. -/
def State.panelRow (s : State) (off lines : Nat) (f : MatFmt) (k line : Nat) : Nat :=
  ofBytes (s.coreBytes s.cur.core (off + (lines * k + line) * (rowSize f)) (rowSize f)).1

def execMma (o : MMul) (s : State) : Out :=
  let n := tileCols s.cur.core
  let a := panelOff s.me o.sA
  let b := panelOff s.me o.sB
  slotOp (s.me.guard o.g)
    (fun s => firstOf
      [ when (decide (o.fa = .f64) && isS s.cur.core) (matUnsupported 1)
      , tagsOf s.me 5 [o.sA, o.sB]
      , alignFault 5 a 128, alignFault 5 b 128
      , when (leavesGroup a (panelA o) || leavesGroup b (panelB o n) || decide (a / 2 ^ 18 = b / 2 ^ 18)) (Exn.mk .bankConflict a b)
      , s.ownerFault (s.who s.cur) s.cur.core 5 a (panelA o), s.ownerFault (s.who s.cur) s.cur.core 5 b (panelB o n)
      , (s.coreBytes s.cur.core a (panelA o)).2.map lostAt, (s.coreBytes s.cur.core b (panelB o n)).2.map lostAt ])
    (fun s => s.landProduct o (product s.me o n (s.panelRow a 64 o.fa) (s.panelRow b n o.fb))) s

/-- A row buffer. -/
def Ctx.rowBuffer (c : Ctx) (k : Nat) : Memory := SMap.get Memory.empty c.regs.rb (k % 4)

/-- n bytes of the row buffers from panel byte p (R241). -/
def Ctx.rowBytes (c : Ctx) (k p n : Nat) : List Byte :=
  (List.range n).map fun i => (c.rowBuffer (k + (p + i) / 2048)).byte ((p + i) % 2048)

/-- The fault of the first faulty sector of the rows that n panel bytes are read from, each row checked whole (R161, R241). -/
def Ctx.rowFault (c : Ctx) (k n : Nat) : Option Nat :=
  (List.range ((n + 2047) / 2048 * 64)).findSome? fun i => ((c.rowBuffer (k + i / 64)).sector (i % 64 * 32)).fault

def execMmr (o : MMul) (s : State) : Out :=
  let n := tileCols s.cur.core
  let b := panelOff s.me o.sB
  slotOp (s.me.guard o.g)
    (fun s => firstOf
      [ when (!isS s.cur.core) (matUnsupported 2)
      , tagsOf s.me 5 [o.sB]
      , alignFault 5 b 128
      , s.ownerFault (s.who s.cur) s.cur.core 5 b (panelB o n)
      , (s.me.rowFault o.sA.toNat (panelA o)).map fun f => .lost f 7 0 none
      , (s.coreBytes s.cur.core b (panelB o n)).2.map lostAt ])
    (fun s =>
      let c := s.me
      s.landProduct o (product c o n
        (fun k i => ofBytes (c.rowBytes o.sA.toNat ((64 * k + i) * (rowSize o.fa)) (rowSize o.fa))) (s.panelRow b n o.fb))) s

def execMzero (g : Guard) (tile : BitVec 2) (s : State) : Out :=
  slotOp (s.me.guard g) noCheck (fun s => s.onMe fun c => c.landTile tile.toNat 1 Tile.zero false) s

/-! ### Moving tile contents (R242 to R248) -/

/-- The format of a tile data code (R242). -/
def tileFmt (code : Nat) : NumFmt := (NumFmt.ofCode code).getD (.flt .f64)

/-- Bytes of an image. -/
def imageBytes (code n : Nat) : Nat := if code = 12 then 1056 * n + 64 else 64 * n * (tileFmt code).bits / 8

/-- The class code of a raw nibble (R246). -/
def ElemClass.code : ElemClass → Nat
  | .finite => 0 | .posInf => 1 | .negInf => 2 | .nan => 3

/-- The class of a code. -/
def ElemClass.ofCode (n : Nat) : ElemClass :=
  match n with
  | 0 => .finite | 1 => .posInf | 2 => .negInf | _ => .nan

/-- The raw image of a tile (R246). -/
def Tile.rawImage (t : Tile) (n : Nat) : List Byte :=
  let els := t.elems n
  let mags := match t.mode with
    | .window => els.flatMap fun e => toBytes 16 e.mag.toNat
    | .f64 => (t.doubles n).flatMap fun x => toBytes 16 x.toNat
  let nib (e : Nat) : Nat := match t.mode with
    | .window => let x := els.getD e WinElem.zero; x.cls.code + (if x.neg then 4 else 0)
    | .f64 => 0
  let nibs := (List.range (32 * n)).map fun i => BitVec.ofNat 8 (nib (2 * i) + 16 * nib (2 * i + 1))
  let hdr := (if t.mode = .f64 then 1 else 0) + 2 ^ 16 * (t.anchor + 320).toNat
  mags ++ nibs ++ toBytes 64 hdr

/-- The tile of a raw image, with INVALID where the image breaks R246. -/
def Tile.ofRaw (bs : List Byte) (n : Nat) : Flagged Tile :=
  let hdr := ofBytes ((bs.drop (1056 * n)).take 64)
  let f64 := decide (hdr % 2 = 1)
  let anc := hdr / 2 ^ 16 % 2 ^ 16
  let cells := (List.range (64 * n)).map fun e => ofBytes ((bs.drop (16 * e)).take 16)
  let nibs := (List.range (64 * n)).map fun e => (bs.getD (1024 * n + e / 2) 0).toNat / (if e % 2 = 0 then 1 else 16) % 16
  let ok := decide (hdr = hdr % 2 + 2 ^ 16 * anc) && decide (anc ≤ 1343) && nibs.all (fun x => decide (x < 8)) &&
    (!f64 || (nibs.all (fun x => decide (x = 0)) && cells.all fun x => decide (x < 2 ^ 64)))
  if !ok then ⟨Tile.ofElems n (-320) (List.replicate (64 * n) ⟨.nan, false, 0⟩), Flags.invalid⟩
  else if f64 then ⟨Tile.ofDoubles n ((anc : Int) - 320) (cells.map fun x => BitVec.ofNat 64 x), 0⟩
  else ⟨Tile.ofElems n ((anc : Int) - 320)
    (List.zipWith (fun m x => ⟨ElemClass.ofCode (x % 4), decide (4 ≤ x), BitVec.ofNat 128 m⟩) cells nibs), 0⟩

/-- The image of a tile with its flags (R244). An element of a WINDOW tile that goes to an integer type is a real number and clamps, as R109 has it for
a floating-point source; R121 names no row of it (log entry 97). -/
def Tile.image (t : Tile) (n code mode : Nat) : List Byte × Flags :=
  if code = 12 then (t.rawImage n, 0)
  else
    let r := (t.vals n).map fun v => (tileFmt code).round v mode false false
    (r.flatMap fun x => toBytes ((tileFmt code).bits / 8) x.val, r.foldl (fun f x => f ||| x.fl) 0)

def execMst (o : MMove) (s : State) : Out :=
  let n := tileCols s.cur.core
  let a := panelOff s.me o.reg
  let len := imageBytes o.code.toNat n
  slotOp (s.me.guard o.g)
    (fun s => firstOf [tagsOf s.me 5 [o.reg], alignFault 5 a 128, s.ownerFault (s.who s.cur) s.cur.core 5 a len])
    (fun s =>
      let r := (s.me.seenTile o.tile.toNat).image n o.code.toNat o.rm.toNat
      (s.coreStore 8 a r.1).onMe fun c => c.flag 8 r.2) s

/-- Each element of an F64 tile becomes round(old + v, f64, 0), where a value is given (R245, R248). -/
def Tile.addDoubles (t : Tile) (n : Nat) (xs : List (Option Val)) : Flagged Tile :=
  let r := List.zipWith (fun (d : W64) (x : Option Val) => match x with
    | none => (⟨d.toNat, 0⟩ : Flagged Nat)
    | some v =>
      let y := (doubleVal d).add false v
      let z := FFmt.f64.round y.val 0 false
      ⟨z.val, y.fl ||| z.fl⟩) (t.doubles n) xs
  ⟨Tile.ofDoubles n t.anchor (r.map fun x => BitVec.ofNat 64 x.val), r.foldl (fun f x => f ||| x.fl) 0⟩

/-- The tile that `mld` gives from an image (R245). -/
def Tile.load (old : Tile) (n code : Nat) (acc : Bool) (bs : List Byte) : Flagged Tile :=
  if code = 12 then Tile.ofRaw bs n
  else
    let w := (tileFmt code).bits / 8
    let raw := (List.range (64 * n)).map fun e => ofBytes ((bs.drop (w * e)).take w)
    let vs := raw.map (tileFmt code).decode
    if !acc && code = 11 then ⟨Tile.ofDoubles n old.anchor (raw.map fun x => BitVec.ofNat 64 x), 0⟩
    else if !acc then Tile.zero.enterAll n vs
    else match old.mode with
      | .window => old.enterAll n vs
      | .f64 => old.addDoubles n (vs.map some)

def execMld (o : MMove) (s : State) : Out :=
  let n := tileCols s.cur.core
  let a := panelOff s.me o.reg
  let len := imageBytes o.code.toNat n
  slotOp (s.me.guard o.g)
    (fun s => firstOf
      [ tagsOf s.me 5 [o.reg], alignFault 5 a 128, s.ownerFault (s.who s.cur) s.cur.core 5 a len
      , (s.coreBytes s.cur.core a len).2.map lostAt ])
    (fun s =>
      let r := (s.me.seenTile o.tile.toNat).load n o.code.toNat (o.lo.getLsbD 0) (s.coreBytes s.cur.core a len).1
      s.onMe fun c => (c.landTile o.tile.toNat 8 r.val false).flag 8 r.fl) s

/-- The position in ROW order of n columns that element e of `mrd` or `mwr` names (R247). -/
def linePos (core : BitVec 16) (code line part e : Nat) : Nat :=
  let k := part * (1024 / (tileFmt code).bits) + e
  if isS core then (k % 64) * 4 + (line + k / 64) else (line + k / 64) * 64 + k % 64

/-- A line of 4 or more on an S-core (R247). -/
def lineUnsupported (core : BitVec 16) (o : MMove) (op : Nat) : Option Exn :=
  when (isS core && decide (4 ≤ o.lo.toNat / 4)) (matUnsupported op)

def execMrd (o : MMove) (s : State) : Out :=
  let n := tileCols s.cur.core
  let code := o.code.toNat
  slotOp (s.me.guard o.g) (fun s => lineUnsupported s.cur.core o 6)
    (fun s =>
      let vs := (s.me.seenTile o.tile.toNat).vals n
      let b := (tileFmt code).bits
      let r := vmap (List.range (1024 / b)) fun e =>
        (tileFmt code).round (vs.getD (linePos s.cur.core code (o.lo.toNat / 4) (o.lo.toNat % 4) e) Val.zero) o.rm.toNat false false
      s.onMe fun c => let d := c.landRes 4 o.reg b r false; { d with mEnd := d.regs.landing.length }) s

def execMwr (o : MMove) (s : State) : Out :=
  let n := tileCols s.cur.core
  let code := o.code.toNat
  slotOp (s.me.guard o.g) (fun s => firstOf [lineUnsupported s.cur.core o 7, s.me.taggedV 5 o.reg])
    (fun s =>
      let t := s.me.seenTile o.tile.toNat
      let b := (tileFmt code).bits
      let named := (List.range (1024 / b)).map fun e =>
        (linePos s.cur.core code (o.lo.toNat / 4) (o.lo.toNat % 4) e, (tileFmt code).decode (elem (s.me.v o.reg) b e))
      let xs := (List.range (64 * n)).map fun k => (named.find? fun p => decide (p.1 = k)).map (·.2)
      let r := match t.mode with
        | .window => t.enterAll n (xs.map fun (x : Option Val) => x.getD Val.zero)
        | .f64 => t.addDoubles n xs
      s.onMe fun c => (c.landTile o.tile.toNat 2 r.val false).flag 2 r.fl) s

end Sys2Proof.Machine
end

