-- ==== Sys2Proof/Machine/Image.lean ====
section
/-! DEFINITION. Machine/Image.lean: the context image (R374, R375): what SAVE_CTX writes and what BIND_CTX and RESTORE_CTX read. -/

namespace Sys2Proof.Machine

/-! ### Sizes and layout (R374) -/

/-- Bytes of an image, and of a register set in it. -/
def imageSize : Nat := 0x238000
def regSetSize : Nat := 0x115000

/-- Pads with zeros to n bytes. -/
def padTo (n : Nat) (l : List Byte) : List Byte := l ++ List.replicate (n - l.length) 0

/-- Words as bytes. -/
def wordBytes (ws : List W64) : List Byte := ws.flatMap fun w => toBytes 8 w.toNat

/-- The raw image of a tile of a core (R246), in its 67,648 bytes. -/
def Tile.inImage (core : BitVec 16) (t : Tile) : List Byte := padTo 67648 (t.rawImage (tileCols core))

/-! ### The header (R375) -/

/-- The state code: 0 Ready, 1 Blocked, 2 Stalled, 3 Suspended. -/
def CtxState.imageCode : CtxState → Nat
  | .blocked _ => 1
  | .stalled _ => 2
  | .suspended => 3
  | _ => 0

/-- The block reason word. -/
def CtxState.blockWord : CtxState → Nat
  | .blocked (.awaitf q _) => 1 + q * 2 ^ 8
  | .blocked (.waitr m _ _) => 2 + m.toNat * 2 ^ 16
  | .blocked (.bar k _) => 3 + k % 16 * 2 ^ 8
  | .blocked (.wtime _) => 4
  | .blocked (.rels q) => 5 + q * 2 ^ 8
  | _ => 0

/-- The `wtime` deadline. -/
def CtxState.deadline : CtxState → Nat
  | .blocked (.wtime d) => d
  | _ => 0

/-- A number of which an image holds the low n bits: the saved context's, where those are its low bits (log entry 31). -/
def wider (n old img : Nat) : Nat := if old % 2 ^ n = img then old else img

/-- Word k of a redirect list, k from 0. -/
def redirectWord (l : List (Nat × Nat)) (k : Nat) : Nat :=
  match l[k]? with
  | some e => e.1 % 4 + e.2 % 2 ^ 32 * 2 ^ 32
  | none => 0

/-- The header words of a register set. R375 does not say what the places of p0 and of m0 hold: here zero, as the registers are stored, though p0
reads as true and m0 as all ones (log entry 95). -/
def headerWords (c : CtxId) (x : Ctx) (r : RegSet) : List W64 :=
  let w (n : Nat) : W64 := BitVec.ofNat 64 n
  let b (v : Bool) (k : Nat) : Nat := if v then 2 ^ k else 0
  [ w (1 + c.core.toNat * 2 ^ 16 + c.slot.toNat * 2 ^ 32 + x.asid.toNat * 2 ^ 34 + b x.priv 45 + b x.world 46 + x.snap.imageCode * 2 ^ 47)
  , w r.tick, w (r.pc % 2 ^ 32), w (redirectWord r.redirects 0), w (redirectWord r.redirects 1), w (redirectWord r.redirects 2)
  , w (r.rrb.toNat + x.prio.toNat * 2 ^ 8 + x.vbank.toNat * 2 ^ 16 + x.fpstat.toNat * 2 ^ 32)
  , SMap.get 0 r.lc 0, SMap.get 0 r.lc 1
  , w (r.p.toNat + r.mTag.toNat * 2 ^ 16 + b r.prb.tag 24), r.sTag, r.vTag
  , w x.snap.blockWord, w x.snap.deadline, slice x.task 0 64, slice x.task 64 64 ] ++
  ((List.range 8).flatMap fun k => let m := SMap.get 0 r.m k; [slice m 0 64, slice m 64 64]) ++
  ((List.range 16).map fun k => (SMap.get 0 r.h k).setWidth 64) ++
  ((List.range 8).map fun k => SMap.get 0 r.prb.lanes (2 * k + 1) ++ SMap.get 0 r.prb.lanes (2 * k)) ++
  ((List.range 16).map fun k => SMap.get 0 x.lp k) ++ List.replicate 56 0

/-! ### The landing queue -/

/-- The file code, index and value bytes of a result, with its byte-lane mask. -/
def LandVal.parts : LandVal → Nat × Nat × List Byte × Mask
  | .s r x => (0, r, toBytes 8 x.toNat, BitVec.allOnes 128)
  | .p r x => (1, r, [bit x], BitVec.allOnes 128)
  | .v r x lanes => (2, r, toBytes 128 x.toNat, lanes)
  | .m r x bits => (3, r, toBytes 16 x.toNat, bits)
  | .latch l es => (4, l * 2 ^ 10 + (es.map (·.1)).getD 0 0, (es.take 32).flatMap fun e => toBytes 4 e.2.toNat, BitVec.allOnes 128)
  | .rb r _ => (5, r, [], BitVec.allOnes 128)
  | .prb ls => (6, 0, (ls.take 16).flatMap fun e => toBytes 4 e.toNat, BitVec.allOnes 128)

/-- An entry of 160 bytes. A variable result that no `waitr` has covered holds the value that has arrived from its access; one that a `waitr` has
covered has its due tick like any other (R28). -/
def Ctx.landingBytes (x : Ctx) (l : Landing) : List Byte :=
  let var := if l.due.isNone then l.var else none
  let m := match var.bind fun _ => x.accessOf l with
    | some q => l.arrive q l.iss
    | none => l
  let p := m.val.parts
  let sp := match var with
    | some v => 2 ^ 18 + v.1.code * 2 ^ 19
    | none => 0
  wordBytes [BitVec.ofNat 64 (p.2.1 + p.1 * 2 ^ 12 + 2 ^ 16 + (if m.tag then 2 ^ 17 else 0) + sp), BitVec.ofNat 64 (l.due.getD l.iss)] ++
    padTo 128 p.2.2.1 ++ toBytes 16 p.2.2.2.toNat

/-! ### A register set -/

/-- A pending tile result of 67,712 bytes. -/
def PendTile.inImage (core : BitVec 16) (p : PendTile) : List Byte :=
  padTo 64 (wordBytes [BitVec.ofNat 64 (p.tile + 4), BitVec.ofNat 64 p.due]) ++ p.val.inImage core

/-- A register set of 0x115000 bytes. -/
def regSetBytes (c : CtxId) (x : Ctx) (r : RegSet) : List Byte :=
  let words (m : SMap W64) (n : Nat) := (List.range n).flatMap fun k => toBytes 8 (SMap.get 0 m k).toNat
  let latch := (List.range 4096).flatMap fun k => toBytes 4 (SMap.get 0 r.latches k).toNat
  let rb := (List.range 4).flatMap fun k => (SMap.get Memory.empty r.rb k).bytesAt 0 2048
  padTo 0x4E000
    (wordBytes (headerWords c x r) ++ words r.s 64 ++ ((List.range 64).flatMap fun k => toBytes 128 (SMap.get 0 r.v k).toNat) ++
      padTo (64 * 160) (r.landing.flatMap x.landingBytes) ++ latch ++ padTo 0x2200 rb ++
      (List.range 4).flatMap fun k => (SMap.get Tile.zero r.tiles k).inImage c.core) ++
    padTo 0xC7000 (r.pendTiles.flatMap fun p => p.inImage c.core)

/-! ### Store gate, rings and windows -/

/-- The T opcode, handle and words of a gated store's target. -/
def Target.parts : Target → Nat × Nat × List W64
  | .k a => (0x02, 0, [BitVec.ofNat 64 a])
  | .d a => (0x03, 0, [BitVec.ofNat 64 a])
  | .t sp h _ xs => ((match sp with
      | .f => 0x05
      | .h => 0x06
      | _ => 0x04), h, xs.map fun x => BitVec.ofNat 64 x)

/-- The width code of an access of n bytes (R85). -/
def widthCode (n : Nat) : Nat := if n = 128 then 4 else n.log2

/-- A store-gate entry of 192 bytes. -/
def GateEntry.inImage (e : GateEntry) : List Byte :=
  let p := e.target.parts
  let w0 := p.1 + widthCode e.bytes.length * 2 ^ 8 + e.order.code * 2 ^ 11 + e.scope.code * 2 ^ 13 + p.2.1 * 2 ^ 16 + 2 ^ 20
  padTo 64 (wordBytes (BitVec.ofNat 64 w0 :: p.2.2)) ++ padTo 128 e.bytes

/-- The bits of a source in a ring or window entry: shared, source slot, source ring or window of 2^b. -/
def sourceBits (src b : Nat) : Nat := if src = 0 then 0 else 2 + ((src - 1) / 2 ^ b) * 4 + (src - 1) % 2 ^ b * 16

/-- A ring entry of 2,112 bytes. -/
def State.ringImage (s : State) (x : Ctx) (n : Nat) : List Byte :=
  let id := x.ringId n
  let r := s.ring id
  if id = 0 then List.replicate 2112 0
  else
    let w0 := 1 + sourceBits (SMap.get 0 x.ringSrc n) 4 + r.j * 2 ^ 8 + r.wp * 2 ^ 16 + r.rp * 2 ^ 24
    let fm := (List.range 256).foldl (fun m k => if SMap.get false r.filled k then m + 2 ^ k else m) 0
    padTo 64 (wordBytes [BitVec.ofNat 64 w0] ++ toBytes 32 fm) ++ (List.range 256).flatMap fun k => toBytes 8 (SMap.get 0 r.status k).toNat

/-- The code of a slot state. -/
def SlotState.code : SlotState → Nat
  | .empty => 0 | .filling => 1 | .filled => 2 | .poisoned => 3

/-- A window entry of 1,152 bytes. -/
def State.windowImage (s : State) (x : Ctx) (n : Nat) : List Byte :=
  let w := s.window (SMap.get 0 x.winLink n)
  let w9 := (if w.bound then 1 else 0) + sourceBits (SMap.get 0 x.winSrc n) 3
  padTo 128 (padTo 64 (wordBytes w.desc) ++ wordBytes [BitVec.ofNat 64 w.head, BitVec.ofNat 64 w9]) ++
    (List.range 256).flatMap fun k => let sl := SMap.get ⟨0, .empty⟩ w.slots k; toBytes 4 (sl.tag.toNat + sl.st.code * 2 ^ 16)

/-- The image of a context: 0x238000 bytes. -/
def State.contextImage (s : State) (c : CtxId) : List Byte :=
  let x := s.ctx c
  regSetBytes c x x.regs ++ regSetBytes c x x.shadow ++ padTo 0x3000 (x.gate.flatMap GateEntry.inImage) ++
    ((List.range 16).flatMap fun n => s.ringImage x n) ++ padTo 0x2C00 ((List.range 8).flatMap fun n => s.windowImage x n)

/-! ### Reading an image -/

/-- A word of an image at `base`. -/
def State.imgWord (s : State) (base off : Nat) : W64 := s.rawWord false (base + off)

/-- Header word k of a register set. -/
def State.hdrWord (s : State) (base k : Nat) : W64 := s.imgWord base (8 * k)

/-- A number of n bytes. -/
def State.imgNat (s : State) (base off n : Nat) : Nat := ofBytes (s.rawBytes false (base + off) n)

/-- A sparse map from n consecutive values. -/
def SMap.ofFn {α : Type} [DecidableEq α] (d : α) (n : Nat) (f : Nat → α) : SMap α := SMap.setList d [] 0 ((List.range n).map f)

/-- The registers of a register set that BIND_CTX loads (R365): s, p, v, m, h, lc, latches and tiles. -/
def State.loadRegs (s : State) (core : BitVec 16) (base : Nat) (r : RegSet) : RegSet :=
  { r with
    s := SMap.set 0 (SMap.ofFn 0 64 fun k => s.imgWord base (0x400 + 8 * k)) 0 0
    p := setBit (slice (s.hdrWord base 9) 0 16) 0 false
    v := SMap.ofFn 0 64 fun k => BitVec.ofNat 1024 (s.imgNat base (0x600 + 128 * k) 128)
    m := SMap.set 0 (SMap.ofFn 0 8 fun k => BitVec.ofNat 128 (s.imgNat base (128 + 16 * k) 16)) 0 0
    h := SMap.ofFn 0 16 fun k => slice (s.hdrWord base (32 + k)) 0 16
    lc := SMap.ofFn 0 2 fun k => s.hdrWord base (7 + k)
    latches := SMap.ofFn 0 4096 fun k => BitVec.ofNat 32 (s.imgNat base (0x4E00 + 4 * k) 4)
    tiles := SMap.ofFn Tile.zero 4 fun k =>
      let n := tileCols core
      (Tile.ofRaw (s.rawBytes false (base + 0xB000 + 67648 * k) (1056 * n + 64)) n).val }

/-- A result of a landing-queue entry, by its word 0; what its 128 bytes cannot hold comes from the entry `old` (log entry 31). -/
def landValOf (w0 : W64) (value : List Byte) (lanes : Mask) (old : Option LandVal) : LandVal :=
  let i := field w0 11 0
  let x := ofBytes value
  match field w0 15 12 with
  | 0 => .s (i % 64) (BitVec.ofNat 64 x)
  | 1 => .p (i % 16) (decide (x % 2 = 1))
  | 2 => .v (i % 64) (BitVec.ofNat 1024 x) lanes
  | 3 => .m (i % 8) (BitVec.ofNat 128 x) lanes
  | 4 => match old with
    | some (.latch l es) => .latch l es
    | _ => .latch (i / 1024) ((List.range 32).map fun k => (i % 1024 + k, BitVec.ofNat 32 (x / 2 ^ (32 * k))))
  | 5 => match old with
    | some (.rb r row) => .rb r row
    | _ => .rb (i % 4) Memory.empty
  | _ => .prb ((List.range 16).map fun k => BitVec.ofNat 32 (x / 2 ^ (32 * k)))

/-- The landing queue of a register set. Variable results are numbered from `seq` on; the entry of a blocked `awaitf`, whose tick of issue lies
before the context's tick `now`, waits. The tick of issue of a result with a due tick comes from the entry `old` (log entry 31). -/
def State.loadLanding (s : State) (base seq : Nat) (awaiting : Bool) (now : Nat) (old : List Landing) : List Landing :=
  (List.range 64).filterMap fun k =>
    let o := 0x2600 + 160 * k
    let w0 := s.imgWord base o
    let t := (s.imgWord base (o + 8)).toNat
    if !w0.getLsbD 16 then none
    else
      let val := landValOf w0 (s.rawBytes false (base + o + 16) 128) (BitVec.ofNat 128 (s.imgNat base (o + 144) 16)) (old[k]?.map (·.val))
      let var := if w0.getLsbD 18 then (QSpace.ofCode (field w0 21 19)).map fun sp => (sp, seq + k) else none
      let waits := var.isSome || (awaiting && decide (field w0 15 12 = 0) && decide (t < now))
      some ⟨if waits then none else some t, val, w0.getLsbD 17, var, if waits then t else (old[k]?.map (·.iss)).getD t⟩

/-- The performed access of a variable result that an image holds. What the image has no field for, the finding of a consuming lane among it, comes
from the access `old` that the saved context had (R263, log entry 31). -/
def Landing.restored (l : Landing) (old : Option QAcc) : Option QAcc :=
  l.var.map fun v =>
    let bytes := l.val.parts.2.2.1
    match old with
    | some q => { q with seq := v.2, fwd := [], phase := .done bytes q.bad q.home }
    | none =>
      ⟨v.2, 0, .load l.tag, .k 0, [], [], (match l.val with
        | .v _ _ _ => true
        | _ => false), 0, .plain, .context, 0, none, .done bytes (if l.tag then some (0, 7, 0) else none) none, []⟩

/-- A sector of a row buffer in an image: one whose bytes are still those of the saved context keeps its code and poison bit. -/
def restoredSector (bs : List Byte) (old : Sector) : Sector := if bs = old.bytes then old else Sector.good bs

/-- A register set of an image; what the image has no field for comes from `old` (log entry 31). -/
def State.loadSet (s : State) (core : BitVec 16) (base seq : Nat) (awaiting : Bool) (now : Nat) (old : RegSet) : RegSet :=
  let w (k : Nat) : W64 := s.hdrWord base k
  { s.loadRegs core base old with
    sTag := w 10
    vTag := w 11
    mTag := slice (w 9) 16 8
    rb := SMap.ofFn Memory.empty 4 fun k => (List.range 64).foldl
      (fun m j => m.setSector (32 * j)
        (restoredSector (s.rawBytes false (base + 0x8E00 + 2048 * k + 32 * j) 32) ((SMap.get Memory.empty old.rb k).sector (32 * j)))) Memory.empty
    prb := ⟨SMap.ofFn 0 16 fun k => BitVec.ofNat 32 (s.imgNat base (384 + 4 * k) 4), (w 9).getLsbD 24⟩
    rrb := slice (w 6) 0 5
    redirects := [0, 1, 2].filterMap fun k =>
      let x := w (3 + k)
      if field x 1 0 = 0 then none else some (field x 1 0, wider 32 ((old.redirects[k]?.map (·.2)).getD 0) (field x 63 32))
    pc := wider 32 old.pc (field (w 2) 31 0)
    tick := (w 1).toNat
    landing := s.loadLanding base seq awaiting now old.landing
    pendTiles := (List.range 12).filterMap fun k =>
      let o := base + 0x4E000 + 67712 * k
      let w0 := s.rawWord false o
      if !w0.getLsbD 2 then none
      else
        let n := tileCols core
        some ⟨field w0 1 0, (s.rawWord false (o + 8)).toNat, (Tile.ofRaw (s.rawBytes false (o + 64) (1056 * n + 64)) n).val,
          (old.pendTiles[k]?.map (·.mm)).getD true⟩ }

/-- The target of a store-gate entry; the tensor of a handle comes from the entry `old`, or from the handle register. -/
def gateTarget (w0 : W64) (xs : List Nat) (h : SMap (BitVec 16)) (old : Option Target) : Target :=
  let hn := field w0 19 16
  let tensor := match old with
    | some (.t _ _ t _) => t
    | _ => (SMap.get 0 h hn).toNat
  match field w0 7 0 with
  | 0x02 => .k (xs.getD 0 0)
  | 0x03 => .d (xs.getD 0 0)
  | 0x05 => .t .f hn tensor xs
  | 0x06 => .t .h hn tensor xs
  | _ => .t .m hn tensor xs

/-- The store gate of an image. A deck-store store that a `dpset` has covered meanwhile has lost its effect (R426). -/
def State.loadGate (s : State) (g : Nat) (base : Nat) (h : SMap (BitVec 16)) (old : List GateEntry) : List GateEntry :=
  (List.range 64).filterMap fun k =>
    let o := base + 0x22A000 + 192 * k
    let w0 := s.rawWord false o
    if !w0.getLsbD 20 then none
    else
      let e := old[k]?
      let xs := (List.range 5).map fun j => (s.rawWord false (o + 8 + 8 * j)).toNat
      let n := if field w0 10 8 = 4 then 128 else 2 ^ field w0 10 8
      let t := gateTarget w0 xs h (e.map (·.target))
      let part := (e.map (·.part)).getD (s.group g).dpsets
      some ⟨(e.map (·.bundle)).getD 0, t, s.rawBytes false (o + 64) n, (Order.ofCode (field w0 12 11)).getD .plain,
        (Scope.ofCode (field w0 15 13)).getD .context, part, 128, false, e.bind (·.bank), decide (t.space = .d) && (s.group g).dropped part⟩

/-- Word 0 of ring entry n, and word 9 of window entry n. -/
def State.ringWord (s : State) (base n : Nat) : W64 := s.imgWord base (0x22D000 + 2112 * n)
def State.winWord (s : State) (base n : Nat) : W64 := s.imgWord base (0x235400 + 1152 * n + 72)

/-- A ring object of an image. -/
def State.loadRing (s : State) (base n : Nat) : Ring :=
  let o := 0x22D000 + 2112 * n
  let w0 := s.ringWord base n
  let fm := s.imgNat base (o + 8) 32
  ⟨field w0 11 8, field w0 23 16, field w0 31 24, SMap.ofFn false 256 fun k => fm.testBit k,
    SMap.ofFn 0 256 fun k => s.imgWord base (o + 64 + 8 * k), [], []⟩

/-- The slot state of a code. -/
def SlotState.ofCode : Nat → SlotState
  | 0 => .empty | 1 => .filling | 2 => .filled | _ => .poisoned

/-- A window object of an image; the row stride is that of the descriptor under the tensor's format. -/
def State.loadWindow (s : State) (asid : BitVec 11) (base n : Nat) : Window :=
  let o := 0x235400 + 1152 * n
  let d := (List.range 8).map fun k => s.imgWord base (o + 8 * k)
  let bound := (s.winWord base n).getLsbD 0
  let bits := match s.tensor asid (winTensor d) with
    | some t => t.bits
    | none => 8
  if !bound then Window.init
  else ⟨true, d, winStride d bits, (s.imgWord base (o + 64)).toNat,
    SMap.ofFn ⟨0, .empty⟩ 256 fun k =>
      let x := s.imgNat base (o + 128 + 4 * k) 4
      ⟨BitVec.ofNat 16 x, SlotState.ofCode (x / 2 ^ 16 % 4)⟩⟩

/-- Whether the sector of an image's header word 0 cannot be read. -/
def State.headerBad (s : State) (base : Nat) : Bool := (s.devSector base).faulty

/-- An image that cannot be read: some sector of it has a bad code or poison (R59). -/
def State.imageBad (s : State) (base : Nat) : Bool :=
  (List.range (imageSize / 32)).any fun k => (s.devSector (base + 32 * k)).faulty

end Sys2Proof.Machine
end

