-- ==== Sys2Proof/Machine/Collective.lean ====
section
/-! DEFINITION. Machine/Collective.lean: collectives (R282 to R284, R323 to R330, R434): templates and groups, the probe, the ordered tree
sets, the reductions, and the events that start a collective, do its chunks and recompute its trees. -/

namespace Sys2Proof.Machine

/-! ### Templates and groups (R323, R324) -/

/-- COORD of a collective template and of a group entry (R448). -/
def collCoord (tmpl : Nat) : Exn := Exn.coord tmpl 2 8 0
def groupCoord (g : Nat) : Exn := Exn.coord g 3 8 0

/-- The members of a group entry; none when it breaks R324. -/
def groupMembers (bs : List Byte) : Option (List Nat) :=
  let w0 := ofBytes (bs.take 8)
  let p := w0
  let ms := ((bs.drop 8).take p).map (·.toNat)
  let rising := (List.range (p - 1)).all fun i => decide (ms.getD i 0 < ms.getD (i + 1) 0)
  if decide (1 ≤ p) && decide (p ≤ 256) && rising && (bs.drop (8 + p)).all (fun b => decide (b = 0)) then some ms else none

/-- The formats of a collective. -/
def collFmt (f : Nat) : Bool :=
  decide (f = 0) || decide (f = 1) || decide (f = 2) || decide (f = 3) || decide (f = 11) || decide (f = 16)

/-- A float format of a collective. -/
def collFloat (f : Nat) : Bool := decide (f = 0) || decide (f = 1) || decide (f = 2) || decide (f = 11)

/-- Elements of a collective's destination (R326). -/
def collDstCount (op n p : Nat) : Nat :=
  match op with
  | 3 => p * n
  | 4 => n / p
  | 6 => 2 * n
  | _ => n

/-- The length of a chunk in elements (R323). -/
def collChunkLen (chunk fmt : Nat) : Nat := 2 ^ (chunk + 12) * 8 / (fmtBits fmt).getD 8

/-- A template, with its deltas added; none when a field breaks R323. -/
def collTemplate (ws : List W64) (da db : W64) : Option CollJob :=
  let w (n : Nat) : W64 := ws.getD n 0
  let h := w 0
  let fmt := field h 36 32
  let mode := field h 31 30
  let op := field h 19 16
  let add (f : Nat) (d : W64) : Int := (f : Int) + (slice d 0 32 : BitVec 32).toInt
  let sf := add (field (w 2) 47 0) da
  let df := add (field (w 4) 47 0) db
  let zero (x : W64) (hi lo : Nat) : Bool := decide (field x hi lo = 0)
  let ok := h.getLsbD 0 && zero h 63 48 && zero h 39 37 && zero h 23 20 && zero h 11 1 && zero (w 1) 63 16 && zero (w 3) 63 16 &&
    zero (w 2) 63 48 && zero (w 4) 63 48 && zero (w 5) 63 32 && zero (w 6) 63 16 && zero (w 7) 63 48 &&
    collFmt fmt && decide (mode ≤ 1) && decide (op ≤ 6) && decide (field h 15 12 ≤ 8) && decide (1 ≤ field (w 5) 31 0) &&
    (decide (mode = 0) || collFloat fmt) && decide (0 ≤ sf) && decide (0 ≤ df)
  if ok then
    some { group := field h 47 40, seq := 0, numbered := false, members := [], rank := 0, fmt := fmt, mode := mode, fbits := field h 29 24, op := op, chunk := field h 15 12
           src := field (w 1) 15 0, sfirst := sf.toNat, dst := field (w 3) 15 0, dfirst := df.toNat, n := field (w 5) 31 0
           recT := field (w 6) 15 0, recFirst := field (w 7) 47 0, going := false, offers := [], epoch := 0, trees := [], sets := [], agreed := 0
           total := (field (w 5) 31 0 + collChunkLen (field h 15 12) fmt - 1) / collChunkLen (field h 15 12) fmt, marked := [], order := [], failed := false }
  else none

/-- Probes a run of elements of a ROW tensor whose tiles must have home HBM (R323). R323 does not say what a tensor of another format than the
template's raises; here it is COORD like the rest (log entry 92). -/
def State.probeRun (s : State) (w : Who) (tmpl tensor fmt first n : Nat) (need : Need) (tr : List CachedEntry) : Probe :=
  match s.tensor w.asid tensor with
  | none => .error (Exn.coord tensor 0 8 tensor)
  | some t =>
    if !(decide (t.layout = 0) && decide (t.fmt = fmt)) then .error (collCoord tmpl)
    else
      let tr1 := keepEntry tr ⟨w.asid, tensor, none, s.tensorWords w.asid tensor⟩
      let size := t.d.foldl (fun m e => if e = 0 then m else m * e) 1
      if size < first + n then .error (Exn.coord tensor 0 8 (max first size))
      else
        match probeAll (fun e tr => s.probeUnit w need tensor t (unrank t.d (first + e)) 0 tr) (List.range n) tr1 with
        | .error e => .error e
        | .ok tr2 =>
          if tr2.all fun e => e.tile.isNone || decide (e.tensor ≠ tensor) || decide (field (e.words.getD 0 0) 2 1 = 0) then .ok tr2
          else .error (collCoord tmpl)

/-- The bytes of elements `first` to `first + n - 1` of a run, tile by tile: the tile, the first byte in it and the one after the last. -/
def runTiles (tr : List CachedEntry) (tensor first n : Nat) : List (Nat × Nat × Nat) :=
  match Tensor.ofWords (transWords tr tensor none) with
  | none => []
  | some t =>
    let lo := first * t.bits / 8
    let hi := (first + n) * t.bits / 8
    (List.range ((hi - 1) / t.tile + 1 - lo / t.tile)).map fun i =>
      let tile := lo / t.tile + i
      (tile, lo - tile * t.tile, min hi ((tile + 1) * t.tile) - tile * t.tile)

/-- The same as device addresses. -/
def State.runSpans (s : State) (r : Reach) (tensor first n : Nat) : List (Nat × Nat) :=
  (runTiles r.tr tensor first n).filterMap fun x =>
    let ws := transWords r.tr tensor (some x.1)
    match s.tilePlace r.who.asid (ws.getD 0 0) (ws.getD 1 0) 0 with
    | .dev a => some (a + x.2.1, a + x.2.2)
    | _ => none

/-- Whether two runs share a byte. -/
def spansMeet (a b : List (Nat × Nat)) : Bool := a.any fun x => b.any fun y => decide (x.1 < y.2) && decide (y.1 < x.2)

/-- A tile that counts as sealed (R394, R420, R421) in a run that an open Dovetail is to touch. -/
def State.dovetailWorld (s : State) (tr : List CachedEntry) (tensor first n : Nat) : Option Exn :=
  if s.worldmap.getLsbD 32 then none
  else ((runTiles tr tensor first n).find? fun x =>
    s.tileSealed ((transWords tr tensor (some x.1)).getD 0 0) x.2.1 (x.2.2 - x.2.1)).map fun x => Exn.xlate .world tensor x.1 8 0

/-- THE PROBE OF A COLLECTIVE (R282, R323, R324, R326, R420). A package without a pod number passes it as member 0: its collective ends FAILED
(R429). -/
def State.collProbe (s : State) (w : Who) (tmpl : Nat) (da db : W64) : Res Exn (CollJob × List CachedEntry) :=
  match collTemplate (s.rawWords false (s.descWord w.asid 4 + 64 * tmpl) 8) da db with
  | none => .error (collCoord tmpl)
  | some j =>
    match groupMembers (s.rawBytes false (s.descWord w.asid 5 + 512 * j.group) 512) with
    | none => .error (groupCoord j.group)
    | some ms =>
      let self := s.links.self.toNat
      if s.links.selfValid && !ms.contains self then .error (groupCoord j.group)
      else
        let p := ms.length
        let dn := collDstCount j.op j.n p
        if decide (j.op = 4) && decide (j.n % p ≠ 0) then .error (collCoord tmpl)
        else match s.probeRun w tmpl j.src j.fmt j.sfirst j.n .read [] with
          | .error e => .error e
          | .ok t1 => match s.probeRun w tmpl j.dst j.fmt j.dfirst dn .write t1 with
            | .error e => .error e
            | .ok t2 => match s.probeRun w tmpl j.recT 15 j.recFirst 32 .write t2 with
              | .error e => .error e
              | .ok t3 =>
                let r : Reach := ⟨w, t3⟩
                match firstOf
                    [ when (spansMeet (s.runSpans r j.src j.sfirst j.n) (s.runSpans r j.dst j.dfirst dn)) (collCoord tmpl)
                    , s.dovetailWorld t3 j.src j.sfirst j.n, s.dovetailWorld t3 j.dst j.dfirst dn, s.dovetailWorld t3 j.recT j.recFirst 32
                    , worldMix t3 ] with
                | some e => .error e
                | none => .ok ({ j with members := ms, numbered := s.links.selfValid, rank := if s.links.selfValid then ms.idxOf self else 0 }, t3)

/-- The key of the count of `coll` issued on a group of an address space (R325; log entry 45). -/
def groupKey (asid : BitVec 11) (group : Nat) : Nat := 256 * asid.toNat + group

def execColl (o : EngOp) (s : State) : Out :=
  let probe (s : State) := s.collProbe (s.who s.cur) o.tmpl.toNat (s.me.s o.a) (s.me.s o.b)
  slotOp (s.me.guard o.g)
    (fun s => firstOf [tagsOf s.me 8 [o.a, o.b, o.c], s.unboundRing o.ring 8, resError (probe s)])
    (fun s =>
      match probe s with
      | .ok p =>
        let g := groupKey s.me.asid p.1.group
        let s1 := s.accept 0x07 o.ring.toNat (slice (s.me.s o.c) 0 16) (.coll { p.1 with seq := SMap.get 0 s.collSeq g }) p.2
        { s1 with collSeq := SMap.upd 0 s1.collSeq g (· + 1) }
      | .error _ => s) s

/-! ### Trees (R328) -/

/-- A link of a tree: its package and port, which is also its switch. -/
abbrev PodLink := Nat × Nat

/-- Whether a tree has reached an end of a link: the package, or the switch. -/
structure Reached where
  pkgs : List Nat
  switches : List Nat
deriving DecidableEq, Repr

/-- Links of the pod that are live and free. -/
def freeLinks (live : SMap (BitVec 36)) (used : List PodLink) : List PodLink :=
  live.flatMap fun e => ((List.range 36).filter fun i => e.2.getLsbD i && !used.contains (e.1, i)).map fun i => (e.1, i)

/-- The key of a link for tree k. -/
def linkKey (k : Nat) (l : PodLink) : Nat := (l.2 + 36 - k) % 36 * 256 + l.1

/-- The next link of tree k: the one of least key with one end reached. -/
def nextLink (free : List PodLink) (k : Nat) (t : Reached) : Option PodLink :=
  free.foldl (fun best l =>
    if t.pkgs.contains l.1 != t.switches.contains l.2 then
      match best with
      | none => some l
      | some b => if linkKey k l < linkKey k b then some l else some b
    else best) none

/-- Grows a tree until every member is reached; none when it cannot span. -/
def growTree (free : List PodLink) (members : List Nat) (k : Nat) : Nat → Reached → List PodLink → Option (List PodLink)
  | 0, _, _ => none
  | fuel + 1, t, e =>
    if members.all fun m => t.pkgs.contains m then some e
    else match nextLink free k t with
      | none => none
      | some l => growTree free members k fuel ⟨if t.pkgs.contains l.1 then t.pkgs else t.pkgs ++ [l.1], if t.switches.contains l.2 then t.switches else t.switches ++ [l.2]⟩ (e ++ [l])

/-- Removes the switches that one link of the tree joins, again and again. -/
def pruneTree : Nat → List PodLink → List PodLink
  | 0, e => e
  | fuel + 1, e => pruneTree fuel (e.filter fun l => decide (1 < (e.filter fun m => decide (m.2 = l.2)).length))

/-- The trees from number k on. -/
def treesFrom (live : SMap (BitVec 36)) (members : List Nat) : Nat → Nat → List PodLink → List (List PodLink)
  | 0, _, _ => []
  | fuel + 1, k, used =>
    match growTree (freeLinks live used) members k 300 ⟨members.take 1, []⟩ [] with
    | none => []
    | some e => let p := pruneTree 40 e; p :: treesFrom live members fuel (k + 1) (used ++ p)

/-- The ordered tree set of a group (R328). A group of one package has 36 trees without links. -/
def deriveTrees (live : SMap (BitVec 36)) (members : List Nat) : List (List PodLink) := treesFrom live members 36 0 []

/-- The children of a package in a tree, in ascending package number, each with the switch between: the packages on its switches other than the
one by which it is reached from its parent (R327, R328). -/
def childrenOf (tree : List PodLink) (p : Nat) (via : Option Nat) : List PodLink :=
  let sw := ((tree.filter fun l => decide (l.1 = p)).map (·.2)).filter fun x => decide (via ≠ some x)
  sortBy (·.1) (tree.filter fun l => sw.contains l.2 && decide (l.1 ≠ p))

/-! ### Reductions (R326, R327) -/

/-- One combination of a reduction on bits of the format. -/
def combine (op fmt : Nat) (a b : Nat) : Nat :=
  match NumFmt.ofCode fmt with
  | none => a
  | some (.int i) =>
    match op with
    | 1 => (elemMinMax (.int i) true a b).val
    | 2 => (elemMinMax (.int i) false a b).val
    | _ => (a + b) % 2 ^ i.w
  | some (.flt f) =>
    match op with
    | 1 => (elemMinMax (.flt f) true a b).val
    | 2 => (elemMinMax (.flt f) false a b).val
    | _ => (f.round ((f.decode a).add false (f.decode b)).val 0 false).val

/-- Two contributions combined, where both are there. -/
def joinValues (op fmt : Nat) : Option Nat → Option Nat → Option Nat
  | some a, some b => some (combine op fmt a b)
  | some a, none => some a
  | none, b => b

/-- The value that a package passes up the tree by a switch: its own, if it is a member, combined with its children's in turn. -/
def treeValue (op fmt : Nat) (tree : List PodLink) (own : Nat → Option Nat) : Nat → Option Nat → Nat → Option Nat
  | 0, _, p => own p
  | fuel + 1, via, p =>
    (childrenOf tree p via).foldl (fun a l => joinValues op fmt a (treeValue op fmt tree own fuel (some l.2) l.1)) (own p)

/-- A FIX64 sum (R327). -/
def fixSum (fmt fbits : Nat) (xs : List Nat) : Nat :=
  let vs := xs.map (fmtVal fmt)
  if vs.all Val.isFin then
    let terms := vs.map fun v => match v with
      | .fin n m e => ((IFmt.mk 64 true).decode ((IFmt.mk 64 true).round (.fin n m (e + fbits)) 0 true false).val : Int)
      | _ => 0
    let sum := terms.foldl (· + ·) 0
    match Val.ofInt sum with
    | .fin n m e => fmtRound fmt (.fin n m (e - fbits)) 0 false false
    | v => fmtRound fmt v 0 false false
  else fmtRound fmt .nan 0 false false

/-- Reduces the elements of the members, given by package, over a tree. -/
def reduceElem (j : CollJob) (tree : List PodLink) (own : Nat → Nat) : Nat :=
  let op := if j.op = 4 then 0 else j.op
  if op = 0 && decide (j.mode = 1) then fixSum j.fmt j.fbits (j.members.map own)
  else (treeValue op j.fmt tree (fun p => if j.members.contains p then some (own p) else none) 300 none (j.members.getD 0 0)).getD 0

/-! ### Elements and chunks -/

/-- The units of element e of a run of a tensor. -/
def State.runUnits (s : State) (r : Reach) (tensor fmt e : Nat) : List UnitAt :=
  match Tensor.ofWords (transWords r.tr tensor none) with
  | none => []
  | some t => (List.range ((fmtBits fmt).getD 8 / 8)).map fun u => s.tensorUnit r tensor (unrank t.d e) (8 * u)

/-- One destination element of a chunk: its number in the run, its bits, whether a source of it was faulty, and, where it is moved unchanged from
this package's own source, its number there. -/
structure CollElem where
  at_ : Nat
  bits : Nat
  bad : Bool
  own : Option Nat
deriving DecidableEq, Repr

/-- Whether an operation forms new values: the sums and the comparisons (R160, R326). -/
def reduces (op : Nat) : Bool := decide (op ≤ 2) || decide (op = 4)

/-- Where in the destination run the elements of a member's source begin, for an operation that moves them (R326). -/
def CollJob.bases (j : CollJob) (rank : Nat) : List Nat :=
  let p := j.members.length
  match j.op with
  | 3 => [rank * j.n]
  | 5 => if rank = 0 then [0] else []
  | 6 => (if rank = (j.rank + p - 1) % p then [0] else []) ++ if rank = (j.rank + 1) % p then [j.n] else []
  | _ => []

/-- Element e of member `rank` in a chunk that starts at `first`: the package's own memory at its home, for the Dovetail is of no die (R165, R173; log
entry 90), or the part that the member sent. -/
def State.memberElem (s : State) (r : Reach) (j : CollJob) (parts : List CollPart) (first rank e : Nat) : Nat × Bool :=
  if rank = j.rank then
    let us := s.runUnits r j.src j.fmt (j.sfirst + e)
    (View.unitsVal s.atHome 8 us, View.unitsBad s.atHome us)
  else match parts.find? fun p => decide (p.rank = rank) with
    | some p => ((p.bits.getD (e - first) 0).toNat, p.bad.getD (e - first) false)
    | none => (0, false)

/-- The tree on which a chunk travels (R329). -/
def CollJob.treeOf (j : CollJob) (c : Nat) : List PodLink := j.trees.getD (j.order.idxOf c % max 1 j.trees.length) []

/-- The destination elements of chunk c (R326). -/
def State.collElems (s : State) (r : Reach) (j : CollJob) (parts : List CollPart) (c : Nat) : List CollElem :=
  let len := collChunkLen j.chunk j.fmt
  let first := c * len
  let es := (List.range (min len (j.n - first))).map (first + ·)
  let p := j.members.length
  let val (rank e : Nat) := s.memberElem r j parts first rank e
  let tree := j.treeOf c
  let reduced (e : Nat) : Nat × Bool :=
    let vs := (List.range p).map fun k => val k e
    (reduceElem j tree fun q => (vs.getD (j.members.idxOf q) (0, false)).1, vs.any (·.2))
  if j.op = 4 then
    let w := j.n / p
    (es.filter fun e => decide (e / w = j.rank)).map fun e => let v := reduced e; ⟨e - j.rank * w, v.1, v.2, none⟩
  else if reduces j.op then es.map fun e => let v := reduced e; ⟨e, v.1, v.2, none⟩
  else (List.range p).flatMap fun k => (j.bases k).flatMap fun b => es.map fun e =>
    let v := val k e
    ⟨b + e, v.1, v.2, if k = j.rank then some e else none⟩

/-- The sector writes of elements of the destination run. -/
def State.collWrites (s : State) (r : Reach) (j : CollJob) (es : List CollElem) : List SecWrite :=
  es.foldl (fun acc x =>
    let us := s.runUnits r j.dst j.fmt (j.dfirst + x.at_)
    let srcs := match x.own with
      | some e => s.runUnits r j.src j.fmt (j.sfirst + e)
      | none => []
    (List.range us.length).foldl (fun acc k =>
      match us[k]? with
      | some u => addPiece acc u.sec ⟨u.pos, u.sh, x.bits / 2 ^ (8 * k) % 256, srcs[k]?, x.bad⟩
      | none => acc) acc) []

/-- The one place that units fill whole and in order. -/
def wholeSector (us : List UnitAt) : Option Loc :=
  match us with
  | [] => none
  | u :: _ => if decide (us.length = 32) && ((List.range 32).all fun i => us[i]? == some ⟨u.sec, i, 0⟩) then some u.sec else none

/-- The destination sectors that another member's whole aligned source sectors fill: these carry their codes and poison bits (R160, R272). -/
def State.collCarried (s : State) (r : Reach) (j : CollJob) (parts : List CollPart) (c : Nat) : List (Loc × Sector) :=
  let w := (fmtBits j.fmt).getD 8 / 8
  let first := c * collChunkLen j.chunk j.fmt
  parts.flatMap fun p => p.sectors.flatMap fun z => (j.bases p.rank).filterMap fun b =>
    let es := (List.range (32 / w)).map (z.first + ·)
    let bytes := es.flatMap fun i => toBytes w (p.bits.getD i 0).toNat
    (wholeSector (es.flatMap fun i => s.runUnits r j.dst j.fmt (j.dfirst + b + first + i))).map fun l => (l, ⟨bytes, z.code, z.poison⟩)

/-- A chunk's destination sectors are written; the answer counts those that a reduction writes with poison (R160, R272, R283). -/
def State.collStore (s : State) (r : Reach) (j : CollJob) (parts : List CollPart) (c : Nat) : State × Nat :=
  let carried := s.collCarried r j parts c
  let out := (s.collWrites r j (s.collElems r j parts c)).map fun w =>
    match carried.find? fun e => decide (e.1 = w.loc) with
    | some e => e
    | none => (w.loc, View.newSector s.atHome (reduces j.op) 8 w)
  (out.foldl (fun s e => s.putHome e.1 e.2) s, if reduces j.op then (out.filter fun e => e.2.poison).length else 0)

/-- The destination sectors of a chunk are written with poison set (R283). -/
def State.collPoison (s : State) (r : Reach) (j : CollJob) (c : Nat) : State :=
  let ws := s.collWrites r j (s.collElems r j [] c)
  ws.foldl (fun s w => s.putHome w.loc { s.atHome w.loc with poison := true }) s

/-! ### Completion (R283, R330) -/

/-- The words of the completion record. -/
def recordOf (j : CollJob) (code : Nat) : List W64 :=
  let m := j.sets.length
  BitVec.ofNat 64 (j.total + m * 2 ^ 32 + code * 2 ^ 40) ::
    (j.sets.flatMap fun x => [BitVec.ofNat 64 (x.1 + x.2.1 * 2 ^ 32), BitVec.ofNat 64 x.2.2]) ++ List.replicate (31 - 2 * m) 0

/-- The places of the record's words. -/
def State.recordUnits (s : State) (r : Reach) (j : CollJob) : List UnitAt :=
  (List.range 32).filterMap fun i => (s.runUnits r j.recT 15 (j.recFirst + i)).head?

/-- The record is written to its tensor, word by word through the merge unit of its home. -/
def State.collRecord (s : State) (r : Reach) (j : CollJob) (code : Nat) : State :=
  let ws := recordOf j code
  ((s.recordUnits r j).zipIdx).foldl (fun s e => s.putHome e.1.sec ((s.atHome e.1.sec).merge e.1.pos (toBytes 8 (ws.getD e.2 0).toNat))) s

/-- The chunks done. -/
def CollJob.doneCount (j : CollJob) : Nat := countMarked j.marked j.total

/-- How a command reaches memory. -/
def Cmd.reach (k : Cmd) : Reach := ⟨k.who, k.trans⟩

/-- A member's completion: the record, then the post, unless its context was lost (R283, R330, R381). -/
def State.collEnd (s : State) (k : Cmd) (j : CollJob) (code : Nat) : State :=
  let s1 := (s.collRecord k.reach j code).tally (if code ≤ 1 then 0x600 else if code = 4 then 0x608 else 0x610) 1
  if k.st = .stopped then s1.dropCmd k.id else s1.finish k code j.doneCount

/-- The chunks without a mark in ascending order, in which they are striped over the trees (R329). -/
def CollJob.unmarked (j : CollJob) : List Nat := (List.range j.total).filter fun c => !SMap.get false j.marked c

/-- Whether the record, or a sector that a failure poisons, lies in a channel in handover (R451). -/
def State.recordHeld (s : State) (r : Reach) (j : CollJob) : Bool := (s.recordUnits r j).any fun u => s.handover u.sec.place
def State.failHeld (s : State) (r : Reach) (j : CollJob) : Bool :=
  s.recordHeld r j || j.unmarked.any fun c => (s.collWrites r j (s.collElems r j [] c)).any fun w => s.handover w.loc.place

/-- A collective fails: the destinations of chunks without a mark take poison, and it ends. It waits while a handover holds one of its writes. -/
def State.collFail (s : State) (k : Cmd) (j : CollJob) : State :=
  if s.failHeld k.reach j then s.onCmd k.id fun k => { k with job := .coll { j with failed := true } }
  else (j.unmarked.foldl (fun s c => s.collPoison k.reach j c) s).collEnd k j 5

/-- Collectives that have to fail do: those of lost contexts (R381), and those whose failure a handover has held. -/
def State.failColls (s : State) : State :=
  s.cmds.foldl (fun s k => match k.job with
    | .coll j => if j.failed || decide (k.st = .stopped) then s.collFail k j else s
    | _ => s) s

/-! ### Events -/

/-- Whether an offer matches a member's own (R325). -/
def CollJob.agrees (j : CollJob) (o : CollOffer) : Bool :=
  decide (o.op.toNat = j.op) && decide (o.mode.toNat = j.mode) && decide (o.fmt.toNat = j.fmt) && decide (o.fbits.toNat = j.fbits) &&
    decide (o.chunk.toNat = j.chunk) && decide (o.n.toNat = j.n)

/-- A collective takes the trees of a table, as a new set (R328, R434). -/
def CollJob.addSet (j : CollJob) (epoch : Nat) (live : SMap (BitVec 36)) : CollJob :=
  let ts := deriveTrees live j.members
  { j with epoch := epoch, trees := ts, sets := j.sets ++ [(ts.length, epoch, 0)], order := j.unmarked }

/-- The sets that recomputations since the last exchange began with: one for each batch that broke the set before it (R434). -/
def CollJob.unsettled (j : CollJob) : List (Nat × Nat × Nat) := j.sets.drop j.agreed

/-- It takes those of the epoch that the members have agreed on: as its first set, or in place of the last one that a recomputation up to that epoch began
with; what later ones began with is taken back, and comes again with their tables. -/
def CollJob.settle (j : CollJob) (epoch : Nat) (live : SMap (BitVec 36)) : CollJob :=
  let j1 := ({ j with sets := j.sets.take j.agreed ++ (j.unsettled.filter fun x => decide (x.2.1 ≤ epoch)).dropLast } : CollJob).addSet epoch live
  { j1 with going := true, agreed := j1.sets.length }

/-- At a recomputation the chunks marked at every member stand; the others lose their marks, and count no more under the set in which they were
done (R329). -/
def CollJob.stand (j : CollJob) (offers : List CollOffer) : CollJob :=
  let gone := (List.range j.total).filter fun c => SMap.get false j.marked c && !offers.all fun o => o.marks.contains c
  let m := ((List.range j.sets.length).filter fun i => (j.sets.getD i (0, 0, 0)).2.2 ≠ 0).getLastD 0
  { j with
    marked := gone.foldl (fun x c => SMap.set false x c false) j.marked
    sets := if gone.isEmpty then j.sets else j.sets.set m (let x := j.sets.getD m (0, 0, 0); (x.1, x.2.1, x.2.2 - gone.length)) }

/-- Whether a table lacks a link of a collective's current set. -/
def CollJob.breaks (j : CollJob) (live : SMap (BitVec 36)) : Bool :=
  j.trees.any fun t => t.any fun l => !(SMap.get 0 live l.1).getLsbD l.2

/-- A collective that has taken trees, and whose current set a table has broken, recomputes (R329, R434): it takes the trees of the table until the
members' next exchange settles theirs. A table that leaves a member unreachable ends it FAILED (R283), and so does a failure after eight sets; the ninth
failure of R434's table comes later than that (log entry 45). Each recomputation is counted once. -/
def State.collRenew (s : State) (counted : Bool) (epoch : Nat) (live : SMap (BitVec 36)) (k : Cmd) : State :=
  match k.job with
  | .coll j =>
    if j.failed || !j.breaks live then s
    else if 8 ≤ j.sets.length || (j.addSet epoch live).trees.isEmpty then s.collFail k j
    else (if counted then s else s.tally 0x618 1).onCmd k.id fun k => { k with job := .coll { j.addSet epoch live with going := false } }
  | _ => s

/-- A table takes effect with its epoch, for a collective. -/
def State.collTable (s : State) (epoch : Nat) (live : SMap (BitVec 36)) (k : Cmd) : State := s.collRenew false epoch live k

/-- The tables that the package has held from an epoch on, the earliest first: earlier ones, then the current one. -/
def Links.tablesFrom (l : Links) (epoch : Nat) : List (Nat × SMap (BitVec 36)) :=
  ((l.past.filter fun e => decide (epoch ≤ e.1.toNat)).reverse.map fun e => (e.1.toNat, e.2)) ++ [(l.epoch.toNat, l.live)]

/-- A collective takes the trees of the agreed epoch, and then what the later tables of this package bring. -/
def State.collAgree (s : State) (k : Cmd) (j : CollJob) (epoch : Nat) : State :=
  match s.links.tablesFrom epoch with
  | [] => s
  | t :: later =>
    let j1 := j.settle t.1 t.2
    if j1.trees.isEmpty then s.collFail k { j1 with sets := j1.sets.dropLast }
    else later.foldl (fun s e => match s.cmd k.id with
      | some k => s.collRenew (j.unsettled.any fun x => decide (x.2.1 = e.1)) e.1 e.2 k
      | none => s) (s.onCmd k.id fun k => { k with job := .coll j1 })

/-- Whether a collective's package has a pod number, and had one at its issue (R429). -/
def State.collNumbered (s : State) (j : CollJob) : Bool := j.numbered && s.links.selfValid

/-- The members have exchanged their offers for the k-th `coll` of a group, at its start or at a recomputation (R283, R325, R329, R434): they are
compared, the greatest epoch is awaited, none older than that of the failure that the recomputation began with, and the trees are derived. The others'
offers need a LIVE port (R431). A package without a pod number fails its collective (R429). -/
def execCollProceed (cmd : Nat) (offers : List CollOffer) (s : State) : Out :=
  .next (match s.cmd cmd with
    | none => s
    | some k =>
      match k.job with
      | .coll j =>
        let mine := offers.filter fun o => decide (o.seq = j.seq)
        let others := (List.range j.members.length).filter fun r => decide (r ≠ j.rank)
        let all := others.all fun r => mine.any fun o => decide (o.rank = r)
        let own := match mine.find? fun o => decide (o.rank = j.rank) with
          | some o => o.epoch.toNat
          | none => s.links.epoch.toNat
        let began := ((j.unsettled.head?).map (·.2.1)).getD 0
        let greatest := (mine.map fun o => o.epoch.toNat).foldl max (max own began)
        if j.going || j.failed || !s.forked k then s
        else if !s.collNumbered j then s.collFail k j
        else if !all || !(others.isEmpty || s.onPod) then s
        else if k.st = .stopped || !(mine.all j.agrees) then s.collFail k { j with offers := mine }
        else if s.links.epoch.toNat < greatest then s
        else s.collAgree k { j.stand mine with offers := mine } greatest
      | _ => s)

/-- Whether a chunk of a collective must wait for a handover on a channel that it touches (R451). -/
def State.collHeld (s : State) (r : Reach) (j : CollJob) (c : Nat) : Bool :=
  let len := collChunkLen j.chunk j.fmt
  let spans := s.runSpans r j.src (j.sfirst + c * len) (min len (j.n - c * len))
  (spans.any fun x => s.handover (.dev x.1) || s.handover (.dev (x.2 - 1))) ||
    (s.collWrites r j (s.collElems r j [] c)).any fun w => s.handover w.loc.place

/-- The uncorrectable errors of cells that a chunk's reads of its source meet (R407). -/
def State.noteColl (s : State) (r : Reach) (j : CollJob) (c : Nat) : State :=
  if s.noErrors then s
  else
    let len := collChunkLen j.chunk j.fmt
    s.noteReads ((s.runSpans r j.src (j.sfirst + c * len) (min len (j.n - c * len))).flatMap fun x =>
      (List.range ((x.2 - x.1 + 31) / 32)).map fun i => .dev (sectorOf x.1 + 32 * i))

/-- Whether the ports by which this package hangs on a tree are LIVE: only those carry Dovetail traffic (R431). -/
def State.treeUp (s : State) (tree : List PodLink) : Bool :=
  tree.all fun l => decide (l.1 ≠ s.links.self.toNat) || decide ((s.port l.2).state = 3)

/-- A chunk is done: its mark is set, and after the last one the collective completes (R283, R329). Chunks on different trees finish in an order that
the manual leaves open, none beyond the 127th after the first without a mark (R380). -/
def execCollChunkDone (cmd : Nat) (parts : CollChunk) (s : State) : Out :=
  .next (match s.cmd cmd with
    | none => s
    | some k =>
      match k.job with
      | .coll j =>
        let c := parts.chunk
        let last := decide (countMarked j.marked j.total + 1 = j.total)
        if !j.going || j.failed then s
        else if k.st = .stopped || !s.collNumbered j then s.collFail k j
        else if SMap.get false j.marked c || decide (j.total ≤ c) || decide (firstUnmarked j.marked j.total + 128 ≤ c) || s.collHeld k.reach j c ||
            (last && s.recordHeld k.reach j) || !s.treeUp (j.treeOf c) then s
        else
          let q := ((s.atFork k).noteColl k.reach j c).collStore k.reach j parts.parts c
          let m := j.sets.length - 1
          let j1 := { j with
            marked := SMap.set false j.marked c true
            sets := j.sets.set m (let x := j.sets.getD m (0, 0, 0); (x.1, x.2.1, x.2.2 + 1)) }
          let k1 : Cmd := { k with job := .coll j1, count := k.count + q.2 }
          let s1 := q.1.onCmd cmd fun _ => k1
          if last then s1.collEnd k1 j1 (if 1 < j1.sets.length then 4 else if k1.count ≠ 0 then 1 else 0) else s1
      | _ => s)

end Sys2Proof.Machine
end

