-- ==== Sys2Proof/Machine/Scopes.lean ====
section
/-! DEFINITION. Machine/Scopes.lean: who acts in an action, which scopes of a context it lies in (R165), and what has to reach it first: accesses that an
early one is ahead of, and the last writes of completed copies (R166 to R169, R276, R337; log entry 13). -/

namespace Sys2Proof

/-- The guard of an operation; the V, X and Y slots have none (R81). -/
def Instr.guard? : Instr → Option Guard
  | .add o | .sub o | .mul o | .mulh o | .mulhu o | .and o | .or o | .xor o | .andn o | .shl o | .shr o | .sar o | .rot o
  | .min o | .max o | .minu o | .maxu o | .madd o => some o.g
  | .addImm o | .subImm o | .mulImm o | .mulhImm o | .mulhuImm o | .andImm o | .orImm o | .xorImm o | .andnImm o
  | .minImm o | .maxImm o | .minuImm o | .maxuImm o | .leaImm o | .maddImm o | .lih o => some o.g
  | .shlImm o _ | .shrImm o _ | .sarImm o _ | .rotImm o _ | .sext o _ | .zext o _ => some o.g
  | .clz o | .ctz o | .popc o | .abs o | .mov o | .jr o => some o.g
  | .bext o _ _ _ => some o.g
  | .bins o _ _ | .sel o _ _ => some o.g
  | .lea o _ | .cinc o _ => some o.g
  | .cincImm o _ => some o.g
  | .li g _ _ | .cmp g _ _ _ _ | .cmpImm g _ _ _ _ | .pnot g _ _ | .pmov g _ _ | .pset g _ _ | .br g _ _ _ | .jmp g _ | .call g _ _
  | .ret g _ | .bsw g _ _ _ | .chk g _ _ _ | .loop g _ _ | .rotinit g _ | .stg g _ _ | .lpr g _ _ | .csrr g _ _ | .trap g _ | .brk g _
  | .dpset g _ _ | .ttinv g _ _ _ _ | .ownset g _ _ _ => some g
  | .pand o | .por o | .pxor o => some o.g
  | .csrw o | .csrs o | .csrc o => some o.g
  | .mma o | .mmr o => some o.g
  | .mzero g _ => some g
  | .mst o | .mld o | .mrd o | .mwr o => some o.g
  | .ldc o | .ldk o | .ldd o | .stc o | .stk o | .std o => some o.acc.g
  | .ldm o | .ldf o | .ldh o | .ldsm o | .stm o | .stf o | .sth o => some o.acc.g
  | .ldw o | .ldsw o => some o.acc.g
  | .ldgc o | .stsc o => some o.acc.g
  | .amo o => some o.g
  | .cpy o | .gx o | .coll o => some o.g
  | .csig o | .csigRing o => some o.g
  | .wdef g _ _ _ | .wadv g _ _ _ | .lb g _ _ _ _ _ | .lbe g _ _ _ _ | .frp g _ _ _ | .frt g _ _ _ _ _ _ | .fru g _ _ | .fruSkip g _
  | .frs g _ _ _ _ _ _ | .ract g _ _ _ | .rpre g _ _ _ | .rld g _ _ _ | .rstw g _ _ _ | .rref g _ _ => some g
  | _ => none

/-- Whether an operation needs all that its core's contexts have joined to have reached everyone: it orders accesses for other parties, starts or has
finished something that other units see, or reads device memory by itself. -/
def Instr.needsJoined : Instr → Bool
  | .fence _ | .bar _ _ _ | .tend => true
  | .dpset _ _ _ | .ttinv _ _ _ _ _ | .ownset _ _ _ _ => true
  | .cpy _ | .gx _ | .wdef _ _ _ _ | .wadv _ _ _ _ | .lb _ _ _ _ _ _ | .lbe _ _ _ _ _ | .coll _ | .csig _ | .csigRing _ => true
  | .frp _ _ _ _ | .frt _ _ _ _ _ _ _ | .fru _ _ _ | .fruSkip _ _ | .frs _ _ _ _ _ _ _ => true
  | .ract _ _ _ _ | .rpre _ _ _ _ | .rld _ _ _ _ | .rstw _ _ _ _ | .rref _ _ _ => true
  | _ => false

end Sys2Proof

namespace Sys2Proof.Machine

/-- Whether the guard of an operation is true. -/
def Ctx.live (x : Ctx) (i : Instr) : Bool :=
  match i.guard? with
  | some g => x.guard g
  | none => true

/-! ### Parties and scopes (R165; log entry 13) -/

/-- Who acts in an action: a core, with its queues; an engine, for a command; a party outside the package; or any other. -/
inductive Actor where
  | core (c : BitVec 16)
  | command (cmd : Nat)
  | outside
  | other
deriving DecidableEq, Repr

/-- The party that an operation in the agenda belongs to. What is not named here counts as every party's. -/
def actorOf : Instr → Actor
  | .issueCycle c => .core c
  | .resultLand c | .bankStallEnd c | .engineProbeDone c | .translationWalkDone c | .variableResultArrive c | .awaitfWake c | .relsWake c
  | .wtimeDeadline c => .core c.core
  | .tileFree c _ => .core c.core
  | .queuedAccessPerform c _ => .core c.core
  | .copyChunkDone n | .windowRowFilled n | .blockFillDone n | .lbeWritebackDone n => .command n
  | .collChunkDone n _ => .command n
  | .hostDataWrite _ _ | .hostDataRead _ _ | .mivisFlit _ _ _ => .outside
  | _ => .other

/-- The same for an action. -/
def Action.actor : Action → Actor
  | .event i => actorOf i
  | .request _ i => actorOf i
  | .stream _ => .other
  | .cell _ _ => .other

/-- Whether the Dovetail performs a command's accesses. -/
def Job.isColl : Job → Bool
  | .coll _ => true
  | _ => false

/-- Whether a party lies outside the scope of a context (R165). The scope of the context alone holds no other party, and nothing performs ahead in it;
one up to the cluster holds no engine, and the Dovetail is in those of the package and the system alone. -/
def State.beyond (s : State) (c : CtxId) (sc : Scope) : Actor → Bool
  | .core k => match sc with
    | .context => true
    | .core => decide (k ≠ c.core)
    | .cluster => decide (groupOf k ≠ groupOf c.core)
    | .die => decide (dieOf k ≠ dieOf c.core)
    | .package | .system => false
  | .command n => match s.cmd n with
    | none => true
    | some k => match sc with
      | .context | .core | .cluster => true
      | .die => decide (dieOf k.ctx.core ≠ dieOf c.core) || k.job.isColl
      | .package | .system => false
  | .outside => decide (sc ≠ .system)
  | .other => false

/-- Before a party of its scope acts, everything that an early access of a context has performed ahead of follows. -/
def State.settleFor (s : State) (a : Actor) : State :=
  s.ctxs.foldl (fun s e => match e.2.early with
    | none => s
    | some d => let c := ctxOfKey e.1; if s.beyond c d.2 a then s else s.settleEarly c d.1) s

/-! ### The last writes of completed copies (R169, R276, R337; log entry 13) -/

/-- Whether another party than the copy's own core needs a trail's writes before it acts: a release of that core has put them before itself in a scope
that the party lies in, or the party is an engine that acts for the core, or one that counts as every party's. -/
def State.trailSeen (s : State) (t : Trail) (a : Actor) : Bool :=
  match a with
  | .other => true
  | .core k => decide (k ≠ t.core) && (t.seen.any fun sc => !s.beyond ⟨t.core, 0⟩ sc a)
  | .command n => (match s.cmd n with
      | some k => decide (k.ctx.core = t.core)
      | none => false) || t.seen.any fun sc => !s.beyond ⟨t.core, 0⟩ sc a
  | .outside => t.seen.any fun sc => !s.beyond ⟨t.core, 0⟩ sc a

/-- Whether a trail writes any of n bytes of device memory. -/
def Trail.touches (t : Trail) (a n : Nat) : Bool :=
  t.writes.any fun w => match w.loc.place with
    | .dev x => decide (sectorOf x < a + n) && decide (a < sectorOf x + 32)
    | _ => false

/-- The table entries that the translation of a target reads (R135, R138): their addresses and lengths. -/
def State.walkSpans (s : State) (asid : BitVec 11) : Target → List (Nat × Nat)
  | .t _ _ i xs => (s.descWord asid 0 + 64 * i, 64) :: match s.tensor asid i with
      | some e => match e.locate xs with
        | .ok r => [(e.ttbase + 16 * r.1, 16)]
        | .error _ => []
      | none => []
  | _ => []

/-- Whether the translation of a target reads what a trail has to write. -/
def State.walkMeets (s : State) (t : Trail) (asid : BitVec 11) (g : Target) : Bool := (s.walkSpans asid g).any fun x => t.touches x.1 x.2

/-- The target that a queued operation names. -/
def Instr.queueTarget (x : Ctx) : Instr → Option Target
  | .ldm o | .ldsm o | .stm o => some (handleTarget x .m o.h (coordsOf o x))
  | .ldf o | .stf o => some (handleTarget x .f o.h (coordsOf o x))
  | .ldh o | .sth o => some (handleTarget x .h o.h (coordsOf o x))
  | .amo o => some (amoTarget o x)
  | _ => none

/-- Whether a bundle that a context holds reads what a trail of its core has to write, or needs it to have reached everyone. -/
def State.bundleMeets (s : State) (c : CtxId) (mark : Bool) (ops : List Instr) (t : Trail) : Bool :=
  let x := s.ctx c
  decide (t.core = c.core) && (ops.any (fun i => x.live i && (i.needsJoined || (Instr.queueTarget x i).any (s.walkMeets t x.asid))) ||
    (mark && x.gate.any fun g => s.walkMeets t x.asid g.target))

/-- Whether an action of a trail's own core reads what the trail has to write: a command's probe, a walk of a table entry, or the fetch of a bundle. -/
def State.ownMeets (s : State) (t : Trail) : Action → Bool
  | .event (.engineProbeDone c) => decide (c.core = t.core)
  | .event (.translationWalkDone c) => decide (c.core = t.core) && (match (s.ctx c).nextWalk with
      | some (.inl q) => s.walkMeets t (s.ctx c).asid q.target
      | some (.inr g) => s.walkMeets t (s.ctx c).asid g.target
      | none => false)
  | .event (.issueCycle k) => decide (k = t.core) && (ctxsOf k).any fun c => t.touches (s.descWord (s.ctx c).asid 6 + 64 * (s.ctx c).regs.pc) 64
  | _ => false

/-- Before an action, everything that its party has to find. -/
def State.settleAction (s : State) (a : Action) : State :=
  (s.settleTrails fun t => s.trailSeen t a.actor || s.ownMeets t a).settleFor a.actor

end Sys2Proof.Machine
end

