-- ==== Sys2Proof/Machine/Issue.lean ====
section
/-! DEFINITION. Machine/Issue.lean: the issue stage of a core: what a context holds next (R22, R24, R87, R91), its stalls (R30 to R32,
R69, R270), selection and merging (R24, R25, R304), gap ticks (R76), the phase 7 of a bundle (R449), its effects and its end (R32, R64,
R183), and the events that land results and end stalls. -/

namespace Sys2Proof

/-! ### Guards and names of an operation (R81, R87, R65) -/

/-- The vector registers that a V operation names: its destination and the sources it uses. -/
def VOp.names (o : VOp) (n : Nat) : List (BitVec 6) := o.vd :: [o.va, o.vb, o.vc].take n

/-- The vector registers that an operation names, the destination first (R69). -/
def Instr.vNames (i : Instr) : List (BitVec 6) :=
  match i with
  | .vCmp o => [o.va, o.vb]
  | .vAdd o | .vSub o | .vMul o | .vFma o | .vFms o | .vFnma o | .vMin o | .vMax o | .vAbs o | .vNeg o | .vDot4 o | .vSel o | .vAnd o
  | .vOr o | .vXor o | .vNot o | .vShl o | .vShr o | .vSar o | .vCvt o | .vPack o | .vUnpack o | .vExp2 o | .vLog2 o | .vRcp o
  | .vRsqrt o | .vSqrt o | .vTanh o | .vRadd o | .vRmax o | .vRmin o | .vSadd o | .vPerm o | .vShuf o | .vBcast o | .vSlide o
  | .vMov o => o.names i.vReads
  | .vMovi _ _ _ vd _ => [vd]
  | .xs2v _ vd _ _ => [vd]
  | .xv2s _ va _ => [va]
  | .sld _ va _ | .szp _ va _ _ => [va]
  | .mrd o | .mwr o => [o.reg]
  | .ldc o | .ldk o | .ldd o | .stc o | .stk o | .std o => if o.acc.file then [o.acc.reg] else []
  | .ldm o | .ldf o | .ldh o | .ldsm o | .stm o | .stf o | .sth o => if o.acc.file then [o.acc.reg] else []
  | .ldw o | .ldsw o => if o.acc.file then [o.acc.reg] else []
  | .ldgc o => [o.acc.reg]
  | .stsc o => [o.acc.reg, o.x]
  | .chk _ file a _ => if file then [a] else []
  | _ => []

/-- The tile that an M operation reads or writes (R30). -/
def Instr.tile? : Instr → Option Nat
  | .mma o | .mmr o => some o.tile.toNat
  | .mzero _ t => some t.toNat
  | .mst o | .mld o | .mrd o | .mwr o => some o.tile.toNat
  | _ => none

/-- The operations that read core store at their issue: core-store loads, the panels of a multiply, tile loads, window reads and the fast-reuse
operations that read arrays; `wdef` reads its descriptor there. -/
def Instr.readsCore : Instr → Bool
  | .ldc _ | .ldgc _ | .ldw _ | .ldsw _ | .mma _ | .mmr _ | .mld _ | .frp _ _ _ _ | .frs _ _ _ _ _ _ _ | .wdef _ _ _ _ => true
  | _ => false

/-- The commands that take an in-flight entry and have a probe (R270, R271). -/
def Instr.takesEntry : Instr → Bool
  | .cpy _ | .gx _ | .wdef _ _ _ _ | .wadv _ _ _ _ | .lb _ _ _ _ _ _ | .lbe _ _ _ _ _ | .coll _ | .csig _ | .csigRing _ => true
  | _ => false

end Sys2Proof

namespace Sys2Proof.Machine

/-! ### Phases 1 to 6 (R87, R90, R91) -/

/-- The fault of phases 1 to 3 (R377). -/
def bundleExn (e : BundleErr) : Exn :=
  if e.phase = 2 then Exn.mk .illegalOp e.slot e.opcode else illegalBundle e.slot e.phase

/-- Phase 3 of the count of a `bar`, which depends on the class of the core (R302). -/
def barPhase (core : BitVec 16) : Instr → Option Exn
  | .bar cl _ n => when (!barCountOk core cl n) (illegalBundle 9 3)
  | _ => none

/-- Phase 4: the class lacks the operation (R90). -/
def classPhase (core : BitVec 16) : Instr → Option Exn
  | .ract _ _ _ _ => when (!isS core) (Exn.mk .unsupported 8 0x10)
  | .rpre _ _ _ _ => when (!isS core) (Exn.mk .unsupported 8 0x11)
  | .rld _ _ _ _ => when (!isS core) (Exn.mk .unsupported 8 0x12)
  | .rstw _ _ _ _ => when (!isS core) (Exn.mk .unsupported 8 0x13)
  | .rref _ _ _ => when (!isS core) (Exn.mk .unsupported 8 0x14)
  | .mmr _ => when (!isS core) (matUnsupported 2)
  | .mma o => when (decide (o.fa = .f64) && isS core) (matUnsupported 1)
  | .mrd o => lineUnsupported core o 6
  | .mwr o => lineUnsupported core o 7
  | .csrr _ _ n => when (timingOnD core n.toNat) (Exn.mk .unsupported 1 0x50)
  | .csrw o => when (timingOnD core o.csr.toNat) (Exn.mk .unsupported 1 0x51)
  | .csrs o => when (timingOnD core o.csr.toNat) (Exn.mk .unsupported 1 0x52)
  | .csrc o => when (timingOnD core o.csr.toNat) (Exn.mk .unsupported 1 0x53)
  | _ => none

/-- Phase 5: privileged operations and CSR writes (R70, R196). -/
def privPhase (priv : Bool) : Instr → Option Exn
  | .dpset _ _ _ => when (!priv) (Exn.mk .priv 1 0x56)
  | .ttinv _ _ _ _ _ => when (!priv) (Exn.mk .priv 1 0x57)
  | .ownset _ _ _ _ => when (!priv) (Exn.mk .priv 1 0x58)
  | .csrw o => when (!csrWritable priv false o.csr.toNat) (Exn.mk .priv 1 o.csr.toNat)
  | .csrs o => when (!csrWritable priv true o.csr.toNat) (Exn.mk .priv 1 o.csr.toNat)
  | .csrc o => when (!csrWritable priv false o.csr.toNat) (Exn.mk .priv 1 o.csr.toNat)
  | _ => none

/-- Phase 6: a register named in a gated bank (R69). -/
def bankPhase (x : Ctx) (i : Instr) : Option Exn :=
  ((i.vNames.map x.regs.phys).find? fun p => decide (x.bank p = 2)).map fun p => Exn.mk .regbankOff p 0

/-- Phases 4 to 6 over the slots whose guards are true. -/
def Ctx.phases (x : Ctx) (core : BitVec 16) (ops : List Instr) : Option Exn :=
  firstOf [ops.findSome? (classPhase core), ops.findSome? (privPhase x.priv), ops.findSome? (bankPhase x)]

/-! ### What a context holds next (R22) -/

/-- What the issue stage finds at a context: a gap tick, a bundle index beyond the code region, a bundle that fails phases 1 to 6, a stall,
a bundle that waits for an in-flight entry, or a bundle that can issue. The occupied slots and the allotment are those of the line. -/
inductive Look where
  | gap
  | fetch
  | fault (slots : List Slot) (allot : Nat) (e : Exn)
  | stall (w : Stall) (banks : List Nat)
  | bundle (slots : List Slot) (allot : Nat) (b : Bundle)
deriving DecidableEq, Repr

/-- The line of a bundle index: 64 bytes of the code region of the address space (R382). -/
def State.codeLine (s : State) (asid : BitVec 11) (n : Nat) : BitVec 512 :=
  BitVec.ofNat 512 (ofBytes (s.rawBytes false (s.descWord asid 6 + 64 * n) 64))

/-- The size of the code region in bundles (R183, R382). -/
def State.csize (s : State) (asid : BitVec 11) : Nat := s.descWord asid 7

/-- The vector banks that operations name. -/
def Ctx.banksOf (x : Ctx) (ops : List Instr) : List Nat :=
  [1, 2, 3].filter fun b => ops.any fun i => i.vNames.any fun v => decide (x.regs.phys v / 16 = b)

/-- The stall conditions of R22 at a bundle whose operations with true guards are `ops`: a busy tile (R30), a retained bank, which is powered
now, or a bank re-powered within 64 cycles (R69), a mark that waits for walks (R32) or for its command's probe (R271). They come one after another, a busy tile first: a retained bank wakes when the tile is free (log entry 101). -/
def Ctx.stallOf (x : Ctx) (cyc : Nat) (mark : Bool) (ops : List Instr) : Option (Stall × List Nat) :=
  let banks := x.banksOf ops
  let retained := banks.filter fun b => decide (x.bank (16 * b) = 1)
  let wait := (banks.map fun b => SMap.get 0 x.repower b - cyc).foldl max 0
  if ops.any fun i => match i.tile? with
      | some t => decide (cyc < SMap.get 0 x.tileBusy t)
      | none => false then some (.tile, [])
  else if !retained.isEmpty then some (.bank 63, retained)
  else if wait ≠ 0 then some (.bank (wait - 1), [])
  else if mark && x.untranslated then some (.walks, [])
  else if ops.any Instr.takesEntry && !x.probed then some (.probe, [])
  else none

/-- The same with the stall of a bundle that reads core store: while an earlier store or `amo` that it has to follow cannot perform (R166, R167; log
entry 75). -/
def State.stallOf (s : State) (c : CtxId) (mark : Bool) (ops : List Instr) : Option (Stall × List Nat) :=
  match (s.ctx c).stallOf (s.core c.core).cycles mark ops with
  | some w => some w
  | none => if ops.any Instr.readsCore && s.readHeld c then some (.order, []) else none

/-- What a context holds. -/
def State.look (s : State) (c : CtxId) : Look :=
  let x := s.ctx c
  if x.gap ≠ 0 then .gap
  else if s.csize x.asid ≤ x.regs.pc then .fetch
  else
    let line := s.codeLine x.asid x.regs.pc
    let slots := Slot.all.filter fun sl => decide (sl.bitsOf line ≠ 0)
    let allot := (headerOf line).allot
    match decodeBundle line with
    | .error e => .fault slots allot (bundleExn e)
    | .ok b =>
      let ops := b.ops.map (·.2)
      let live := ops.filter x.live
      match firstOf [ops.findSome? (barPhase c.core), x.phases c.core live] with
      | some e => .fault slots allot e
      | none =>
        match s.stallOf c b.hdr.mark live with
        | some w => .stall w.1 w.2
        | none => .bundle slots allot b

/-! ### In-flight entries (R266, R270) -/

/-- The in-flight entries of a core that are taken: its commands, and completions held behind full rings. -/
def State.entriesUsed (s : State) (core : BitVec 16) : Nat :=
  (s.cmds.filter fun k => decide (k.ctx.core = core) && decide (k.op < 0x50)).length +
    ((s.rings.map fun e => (e.2.held.filter fun h => decide (h.2 = some core.toNat)).length).foldl (· + ·) 0)

/-- Whether a bundle takes an entry. -/
def Ctx.wantsEntry (x : Ctx) (l : Look) : Bool :=
  match l with
  | .bundle _ _ b => b.ops.any fun o => o.2.takesEntry && x.live o.2
  | _ => false

/-! ### Candidates and selection (R24, R25, R304) -/

/-- A ready context with what it holds. -/
structure Cand where
  ctx : CtxId
  look : Look
deriving DecidableEq, Repr

/-- The slots that a candidate occupies; a gap tick occupies none. -/
def Cand.slots (k : Cand) : List Slot :=
  match k.look with
  | .fault sl _ _ => sl
  | .bundle sl _ _ => sl
  | _ => []

/-- The allotment of a candidate. -/
def Cand.allot (k : Cand) : Nat :=
  match k.look with
  | .fault _ a _ => a
  | .bundle _ a _ => a
  | _ => 0

/-- The sort key of R24, with the yielding contexts of R304 behind the others: aged, yielding, 3 - CTXPRIO, slot. Among aged contexts R25 has
the lowest slot first, where R24's order puts CTXPRIO before the slot: R24 is followed here (log entry 73). -/
def State.sortKey (s : State) (c : CtxId) : Nat :=
  let x := s.ctx c
  (((if 64 ≤ x.passed then 0 else 2) + (if x.yieldLeft = 0 then 0 else 1)) * 4 + (3 - x.prio.toNat)) * 4 + c.slot.toNat

/-- Whether two bundles may issue together (R24). -/
def mergeable (a b : Cand) : Bool := (a.slots.all fun sl => !b.slots.contains sl) && decide (a.allot + b.allot ≤ 6)

/-- The candidates that issue: the first, and the next one if it merges. -/
def chooseTwo : List Cand → List Cand
  | [] => []
  | [a] => [a]
  | a :: b :: _ => if mergeable a b then [a, b] else [a]

/-- Whether a draining `tend` still has results to land (R303). -/
def State.drainTicks (s : State) (c : CtxId) : Bool :=
  let x := s.ctx c
  decide (x.st = .blocked .tend) && decide (x.drainWait = 0) &&
    (x.regs.landing.any (fun l => l.due.isSome) || !x.regs.pendTiles.isEmpty || !x.regs.csrQ.isEmpty || !x.regs.flagQ.isEmpty ||
      ((s.core c.core).writes.any fun w => w.of c.slot x.bid) || (s.core c.core).layers.any fun l => l.waits c.slot x.bid)

/-- Whether a pre-emption at a bundle boundary has frozen the fetch of a context (R58, R370). -/
def State.frozen (s : State) (c : CtxId) : Bool :=
  match (s.stream (s.streamOf c)).preempt with
  | some r => decide (r.gran = 3) && (s.ctx c).hasTask
  | none => false

/-- Whether a handover holds the fetch of a context's next line (R451; log entry 88). -/
def State.fetchHeld (s : State) (c : CtxId) : Bool :=
  let x := s.ctx c
  decide (x.regs.pc < s.csize x.asid) && s.handover (.dev (s.descWord x.asid 6 + 64 * x.regs.pc))

/-- What a Ready context holds: nothing but its gap ticks while its fetch is frozen or held. -/
def State.lookUnlessFrozen (s : State) (c : CtxId) : Option Look :=
  if (s.frozen c || s.fetchHeld c) && decide ((s.ctx c).gap = 0) then none else some (s.look c)

/-- What a cycle finds at one context: one cycle of a bank stall passes; a Ready context, or one whose stall may have cleared, is looked at. -/
def State.lookAt (s : State) (c : CtxId) : Option Look :=
  match (s.ctx c).st with
  | .ready | .stalled .tile | .stalled .walks | .stalled .entry | .stalled .order | .stalled (.bank 0) => s.lookUnlessFrozen c
  | .stalled .probe => if (s.ctx c).probed then s.lookUnlessFrozen c else none
  | _ => if s.drainTicks c then some .gap else none

/-- A cycle of a bank stall, or of a draining `tend`'s wait for a bank, passes (R31, R69). -/
def Ctx.stallCycle (x : Ctx) : Ctx :=
  match x.st with
  | .stalled (.bank (n + 1)) => { x with st := .stalled (.bank n) }
  | _ => { x with drainWait := x.drainWait - 1 }

/-- A context meets a stall (R22): a retained bank that its bundle names becomes powered. -/
def Ctx.stallWith (x : Ctx) (w : Stall) (banks : List Nat) : Ctx :=
  { x with st := .stalled w, vbank := banks.foldl (fun v b => setBit (setBit v (2 * b) false) (2 * b + 1) false) x.vbank }

/-- XLATE(not-present) of a fetch beyond the code region (R183, R448): the index is the faulting bundle, and the context rolls back. -/
def State.fetchFault (s : State) (c : CtxId) : State :=
  let x := s.ctx c
  s.translation c x.regs.pc .xlate 0 0 (BitVec.ofNat 64 (s.csize x.asid))

/-- What happens to a context at the look of a cycle: a fetch beyond the code region faults, a stall begins or goes on, a candidate is
Ready, but for one stalled for an in-flight entry, which `grant` frees. -/
def State.applyLook (s : State) (c : CtxId) : Look → State
  | .fetch => s.fetchFault c
  | .stall w banks => s.onCtx c fun x => x.stallWith w banks
  | _ =>
    match (s.ctx c).st with
    | .stalled .entry => s
    | .stalled _ => (s.onCtx c fun x => { x with st := .ready }).guardReady c
    | _ => s

/-- The candidates among what was looked at. -/
def candsOf (l : List Cand) : List Cand := l.filter fun k => match k.look with
  | .fetch | .stall _ _ => false
  | _ => true

/-- The end of a stall for an in-flight entry: the context is Ready again (R270, R299). -/
def State.endEntryStall (s : State) (c : CtxId) : State :=
  if (s.ctx c).st = .stalled .entry then (s.onCtx c fun x => { x with st := .ready }).guardReady c else s

/-- Commands without a free in-flight entry stall; the free entries go by the cycle in which each was first ready, then by slot (R270). A command
that goes on waiting stays Stalled throughout. -/
def State.grant (s : State) (core : BitVec 16) (cands : List Cand) : State × List Cand :=
  let wants := sortBy (fun k => (s.ctx k.ctx).wanted * 4 + k.ctx.slot.toNat) (cands.filter fun k => (s.ctx k.ctx).wantsEntry k.look)
  let refused := wants.drop (64 - s.entriesUsed core)
  let granted := cands.filter fun k => !refused.contains k
  let s1 := refused.foldl (fun s k => s.onCtx k.ctx fun x => { x with st := .stalled .entry }) s
  (granted.foldl (fun s k => s.endEntryStall k.ctx) s1, granted)

/-- A command notes the cycle in which it first wanted an entry. -/
def State.noteWant (s : State) (k : Cand) : State :=
  s.onCtx k.ctx fun x => if x.wantsEntry k.look && x.wanted = 0 then { x with wanted := (s.core k.ctx.core).cycles } else x

/-- After the selection of a cycle: contexts passed over age, and a yield runs off (R24, R304). -/
def State.countPassed (s : State) (core : BitVec 16) (cands chosen : List Cand) : State :=
  (ctxsOf core).foldl (fun s c =>
    let ready := cands.any fun k => decide (k.ctx = c)
    let went := chosen.any fun k => decide (k.ctx = c)
    s.onCtx c fun x => { x with passed := if ready && !went then x.passed + 1 else 0, yieldLeft := x.yieldLeft - 1 }) s

/-! ### Ticks (R7, R26, R76, R227) -/

/-- What a new TICK brings to a context that is not blocked, or whose `tend` drains: core-store writes perform, CSR writes govern and results
land; one that lands in a retained bank stalls the context, or the drain, for 64 cycles (R26, R69, R163). -/
def State.tickLands (s : State) (c : CtxId) : State :=
  let s1 := ((s.meetWrites c).coreWrites c false).govern c
  let wakes := (s1.ctx c).wakesBank
  (s1.onCtx c fun x => match x.st with
    | .running | .ready => { x with st := if wakes then .stalled (.bank 64) else .ready }
    | .blocked .tend => if wakes then { x with drainWait := 64 } else x
    | _ => x).landNow c

/-- A context consumes a gap tick (R76), or a tick while its `tend` drains. -/
def State.gapTick (s : State) (c : CtxId) : State :=
  (s.onCtx c fun x => { x with gap := x.gap - 1, mono := x.mono + 1, regs := { x.regs with tick := x.regs.tick + 1 } }).tickLands c

/-! ### The cycle (R24) -/

/-- A chosen candidate goes: a gap tick is consumed, a bundle that fails phases 1 to 6 faults, any other enters the latch, to be
performed by the step. -/
def State.go (s : State) (k : Cand) : State :=
  let s1 := s.onCtx k.ctx fun x => { x with st := match x.st with
    | .blocked b => .blocked b
    | _ => .running }
  match k.look with
  | .fault _ _ e => s1.raise k.ctx e
  | .bundle _ _ b => { s1 with latch := s1.latch ++ [⟨k.ctx, b.hdr, b.ops.map (·.2), false⟩] }
  | _ => s1.gapTick k.ctx

/-- One cycle of a core's issue stage. What the chosen bundles do to shared rings and windows they do in ascending slot number (R322, R344). -/
def execIssueCycle (core : BitVec 16) (s : State) : Out :=
  let s0 := s.onCore core fun k => { k with cycles := k.cycles + 1 }
  let cs := ctxsOf core
  let looks := cs.filterMap fun c => (s0.lookAt c).map fun l => (⟨c, l⟩ : Cand)
  let s1 := cs.foldl (fun s c => s.onCtx c Ctx.stallCycle) s0
  let s2 := looks.foldl (fun s k => s.applyLook k.ctx k.look) s1
  let cands := candsOf looks
  let s3 := cands.foldl State.noteWant s2
  let g := s3.grant core cands
  let chosen := chooseTwo (sortBy (fun k => g.1.sortKey k.ctx) g.2)
  .next ((sortBy (fun k => k.ctx.slot.toNat) chosen).foldl State.go (g.1.countPassed core g.2 chosen))

/-- The results of a context whose due tick TICK has reached become visible (R26). -/
def execResultLand (c : CtxId) (s : State) : Out :=
  .next (match (s.ctx c).st with
    | .ready | .running | .stalled _ => s.tickLands c
    | _ => s)

/-- A tile's busy count has passed (R30): a bundle that waited for it can issue. -/
def execTileFree (c : CtxId) (t : BitVec 2) (s : State) : Out :=
  .next (if (s.ctx c).st = .stalled .tile && decide (SMap.get 0 (s.ctx c).tileBusy t.toNat ≤ (s.core c.core).cycles) then
      match s.look c with
      | .stall _ _ => s
      | _ => (s.onCtx c fun x => { x with st := .ready }).guardReady c
    else s)

/-- The 64 cycles of a bank stall have passed (R31, R69). -/
def execBankStallEnd (c : CtxId) (s : State) : Out :=
  .next (if (s.ctx c).st = .stalled (.bank 0) then (s.onCtx c fun x => { x with st := .ready }).guardReady c else s)

/-- The probe of a stalled command finishes (R271): the step makes the checks of its bundle. The probe reads templates and tables after every queued
access of its context has performed (R168, R383). -/
def execEngineProbeDone (c : CtxId) (s : State) : Out :=
  .next (if (s.ctx c).st = .stalled .probe && !(s.ctx c).probed && (s.ctx c).queue.all QAcc.isDone then
      match decodeBundle (s.codeLine (s.ctx c).asid (s.ctx c).regs.pc) with
      | .ok b => { s with latch := s.latch ++ [⟨c, b.hdr, b.ops.map (·.2), true⟩] }
      | .error _ => s
    else s)

/-! ### The performance of a bundle (R32, R91, R449) -/

/-- Whether a fault or a loss has stopped a context. -/
def CtxState.isStopped : CtxState → Bool
  | .suspended | .lost => true
  | _ => false

/-- The checks of a bundle's operations, each on the state before the bundle: the outcome of the first one that stops the context. -/
def firstStop (run : Instr → State → Out) (c : CtxId) (s : State) : List Instr → Option Out
  | [] => none
  | i :: r =>
    match run i s with
    | .next t => if (t.ctx c).st.isStopped then some (.next t) else firstStop run c s r
    | .fault f => some (.fault f)
    | .refused x => some (.refused x)

/-- The effects of a bundle's operations, in slot order. -/
def runOps (run : Instr → State → Out) : List Instr → State → Out
  | [], s => .next s
  | i :: r, s =>
    match run i s with
    | .next t => runOps run r t
    | .fault f => .fault f
    | .refused x => .refused x

/-- The landing-queue entries that a context would occupy after a bundle (R27). -/
def landingAfter (run : Instr → State → Out) (c : CtxId) (ops : List Instr) (s : State) : Nat :=
  match runOps run ops { s with checked := true } with
  | .next t => (t.ctx c).regs.landing.length
  | _ => 0

/-- The overflow of the landing queue (R27, R448). Word 3 is the number of entries occupied with those of the bundle, the number that R27 compares with 64
(log entry 112). -/
def landingOverflow (n : Nat) : Option Exn := when (decide (64 < n)) (Exn.mk .illegalBundle (7 * 2 ^ 4) n)

/-- What a bundle that reads core store behind a fence, or behind an `amo` that is an acquire, finds performed (R166, R167). -/
def State.orderFences (s : State) (k : Issued) : State :=
  let x := s.ctx k.ctx
  if !(x.fences.isEmpty && (x.holdersAt x.seq).isEmpty) && k.ops.any fun i => i.readsCore && x.live i then s.beforeRead k.ctx else s

/-- What the bundles of a cycle find, before any of them is performed: what an early access of the core is ahead of, and the last writes of the copies
that its contexts may have joined, where a bundle needs them (R165 to R169; log entry 13). -/
def State.meetLatch (s : State) (l : List Issued) : State :=
  l.foldl (fun s k => (s.settleTrails fun t => s.bundleMeets k.ctx k.hdr.mark k.ops t).settleFor (.core k.ctx.core)) s

/-- The rest of phase 7 and the effects of a bundle: the overflow, the checks in slot order, the gated stores' translations and release at a
mark, then the operations. -/
def performBundle (run : Instr → State → Out) (k : Issued) (s : State) : Out :=
  match landingOverflow (landingAfter run k.ctx k.ops s) with
  | some e => .next (s.raise k.ctx e)
  | none =>
    match firstStop run k.ctx { s with checked := false } k.ops with
    | some o => o
    | none =>
      if k.probe then .next ((s.onCtx k.ctx fun x => { x with probed := true, st := .ready }).guardReady k.ctx)
      else
        match if k.hdr.mark then s.releaseFault k.ctx else none with
        | some e => .next (s.raise k.ctx e)
        | none => runOps run k.ops { (if k.hdr.mark then s.releaseGate k.ctx else s) with checked := true }

/-- One bundle of the latch, with REFRESH_LATE before everything else (R449). -/
def runIssued (run : Instr → State → Out) (k : Issued) (s : State) : Out :=
  let s1 := { s with cur := k.ctx, hdr := k.hdr }
  match s1.refreshLate k.ctx with
  | some l => .next (s1.raiseLate k.ctx l.1 l.2.1 l.2.2)
  | none => performBundle run k (s1.orderFences k)

/-- The bundles of the latch, one after another. -/
def runLatch (run : Instr → State → Out) : List Issued → State → Out
  | [], s => .next s
  | k :: r, s =>
    match runIssued run k s with
    | .next t => runLatch run r t
    | .fault f => .fault f
    | .refused x => .refused x

/-! ### The end of a bundle (R32, R64, R183, R190) -/

/-- Performed accesses that no pending result needs any longer are forgotten. -/
def Ctx.prune (x : Ctx) : Ctx :=
  let used (n : Nat) : Bool := (x.regs.landing ++ x.shadow.landing).any fun l => match l.var with
    | some v => decide (v.2 = n)
    | none => false
  { x with queue := x.queue.filter fun q => !q.isDone || used q.seq }

/-- The program state that a bundle leaves: next index, redirects, RRB, gap and TICK. -/
def Ctx.advance (x : Ctx) (h : Header) : Ctx :=
  let n := nextIndex x.regs.redirects x.regs.pc x.xfer
  let r := x.newRrb.getD x.regs.rrb
  let tending := decide (x.st = .blocked .tend)
  { x with
    regs := { x.regs with pc := n.1, redirects := n.2, rrb := if h.rot then r - 1 else r, tick := x.regs.tick + 1 }
    gap := if tending then 0 else h.gap.toNat
    mono := x.mono + 1, xfer := .none, newRrb := none, mEnd := 0, probed := false, wanted := 0 }

/-- The shadow of a mark (R32): the registers at the tick that the bundle's gap ticks lead to. What is due by then lands in the shadow when a
rollback takes it, each result at its own tick (`State.rollback`). -/
def Ctx.takeShadow (x : Ctx) : Ctx :=
  let t := x.regs.tick + x.gap
  ({ x with
    shadow := { x.regs with
      tick := t
      flagQ := x.regs.flagQ.filter fun f => decide (t < f.due)
      dupQ := x.regs.dupQ.filter fun d => !d.second.isDue t }
    markSeq := x.seq }).prune

/-- The end of a bundle that no fault stopped. -/
def State.commit (s : State) (k : Issued) : State :=
  if k.probe || (s.ctx k.ctx).st.isStopped then s
  else
    let s1 := s.onCtx k.ctx fun x => x.advance k.hdr
    let s2 := match (s1.ctx k.ctx).st with
      | .blocked .tend => s1.tickLands k.ctx
      | .blocked _ => ((s1.meetWrites k.ctx).coreWrites k.ctx false).govern k.ctx
      | _ => s1.tickLands k.ctx
    if k.hdr.mark then s2.onCtx k.ctx Ctx.takeShadow else s2

/-- The end of a cycle on a core: owner tags and deck partitions that this cycle set hold from the next (R196, R197, R199). -/
def State.endCycle (s : State) (core : BitVec 16) : State :=
  let s1 := s.onCore core fun k => { k with owners := k.newOwners.foldl (fun m e => SMap.set Owner.none m e.1 e.2) k.owners, newOwners := [] }
  s1.onGroup (groupOf core) fun g => match g.newPart with
    | some p => { g with dpart := p, newPart := none, dpsets := g.dpsets + 1 }
    | none => g

/-- THE CYCLE'S BUNDLES: the latch is emptied, its bundles are performed on the state before either has ended, and each ends. What contexts have
left, barriers and signals that waited for them follow, and the collectives of lost contexts fail (R381). Before them comes what they have to find. -/
def drainLatch (run : Instr → State → Out) (s : State) : Out :=
  let l := s.latch
  match runLatch run l (({ s with latch := [] } : State).meetLatch l) with
  | .next t =>
    let t1 := l.foldl State.commit { t with checked := false }
    .next ((l.foldl (fun s k => s.endCycle k.ctx.core) t1).performLeft.openBarriers.sendSignals.failColls)
  | .fault f => .fault f
  | .refused x => .refused x

end Sys2Proof.Machine
end

