-- ==== Sys2Proof/Machine/Reuse.lean ====
section
/-! DEFINITION. Machine/Reuse.lean: feature reuse: `frp`, `frt`, `fru`, `frs` and the sampling selection (R287 to R292). -/

namespace Sys2Proof.Machine

/-! ### The task and its node (R37, R287) -/

/-- Fields of a task record. -/
def taskTpl (t : BitVec 128) : BitVec 6 := slice t 0 6
def taskNode (t : BitVec 128) : BitVec 12 := slice t 6 12
def taskInst (t : BitVec 128) : BitVec 24 := slice t 18 24
def taskStep (t : BitVec 128) : BitVec 20 := slice t 42 20

/-- The key of a node's state in the table of a core's cluster or stack (R287). -/
def nodeKey (core : BitVec 16) (node : BitVec 12) : Nat := 4096 * groupOf core + node.toNat

/-- The node state of a context's task in its cluster's or stack's table (R287). -/
def State.nodeState (s : State) (c : CtxId) : NodeState :=
  let x := s.ctx c
  match (s.lathe (dieOf c.core)).launch x.launch with
  | some l => SMap.get NodeState.init l.nodes (nodeKey c.core (taskNode x.task))
  | none => NodeState.init

/-- Applies a function to it. -/
def State.onNode (s : State) (c : CtxId) (f : NodeState → NodeState) : State :=
  let x := s.ctx c
  s.onLaunch (dieOf c.core) x.launch fun l => { l with nodes := SMap.upd NodeState.init l.nodes (nodeKey c.core (taskNode x.task)) f }

/-- A reuse entry of the issuing core's unit. -/
def State.reuseEntry (s : State) (c : CtxId) (n : Nat) : ReuseEntry := SMap.get ReuseEntry.init (s.group (groupOf c.core)).reuse n

/-- Replaces one. -/
def State.setReuse (s : State) (c : CtxId) (n : Nat) (e : ReuseEntry) : State :=
  s.onGroup (groupOf c.core) fun g => { g with reuse := SMap.set ReuseEntry.init g.reuse n e }

/-- Whether an entry's key is that of a context's task. -/
def ReuseEntry.keyOf (e : ReuseEntry) (x : Ctx) : Bool :=
  decide (e.launch = x.launch) && decide (e.tpl = taskTpl x.task) && decide (e.node = taskNode x.task) && decide (e.inst = taskInst x.task)

/-! ### Spans of core store -/

/-- The elements of a span, of b bits each, in order. -/
def spanElems (bs : List Byte) (b n : Nat) : List Nat := (List.range n).map fun i => ofBytes ((bs.drop (i * (b / 8))).take (b / 8))

/-- ALIGN and owner checks of a span (R288, R292). -/
def State.spanFault (s : State) (off n : Nat) : Option Exn :=
  firstOf [when (off % 32 ≠ 0) (Exn.mk .align 8 off), s.ownerFault (s.who s.cur) s.cur.core 8 off n]

/-! ### `frp` (R288) -/

/-- Lane l of the probe: the exact sum of every sixteenth element, rounded once. -/
def probeLane (fmt : NumFmt) (xs : List Nat) (l : Nat) : BitVec 32 :=
  let mine := ((List.range xs.length).filter fun i => decide (i % 16 = l)).map fun i => fmt.decode (xs.getD i 0)
  let sum := mine.foldl (fun v x => (v.add false x).val) Val.zero
  BitVec.ofNat 32 (FFmt.f32.round sum 0 false).val

def execFrp (g : Guard) (a : BitVec 6) (ty : ElemTy) (count1 : BitVec 12) (s : State) : Out :=
  let n := count1.toNat + 1
  let off := field (s.me.s a) 19 0
  slotOp (s.me.guard g) (fun s => s.spanFault off (n * (ty.bits / 8)))
    (fun s =>
      let r := s.coreBytes s.cur.core off (n * (ty.bits / 8))
      let xs := spanElems r.1 ty.bits n
      s.onMe fun c => c.land 24 (.prb ((List.range 16).map (probeLane (NumFmt.ofElem ty) xs))) r.2.isSome) s

/-! ### `frt` (R289, R290) -/

/-- The sampling selection of a task under the loop register value S (R289). -/
def selected (t : BitVec 128) (S : W64) : Bool :=
  let v := ((taskNode t).toNat * 0x2C1B + (taskInst t).toNat * 0x7F4B + (taskStep t).toNat * 0x9E37 + 0x5A5A) % 2 ^ 16
  S.getLsbD 5 && decide (v * 2 ^ field S 4 0 < 2 ^ 16)

/-- The exact distance of two finite values. -/
def Val.dist (a b : Val) : Val :=
  match (a.add false b.neg).val with
  | .fin _ m e => .fin false m e
  | v => v

/-- Whether every lane of PRB lies within the threshold of the entry's probe. -/
def probesClose (p e : SMap (BitVec 32)) (thr : BitVec 32) : Bool :=
  let t := FFmt.f32.decode thr.toNat
  !t.isNan && (List.range 16).all fun l =>
    let a := FFmt.f32.decode (SMap.get 0 p l).toNat
    let b := FFmt.f32.decode (SMap.get 0 e l).toNat
    a.isFin && b.isFin && (a.dist b).lt t

/-- Whether a node's reuse is disabled at a step. -/
def NodeState.off (n : NodeState) (step : Nat) : Bool :=
  match n.disabled with
  | some d => decide (d ≤ step)
  | none => false

def execFrt (g : Guard) (pd : BitVec 4) (sO sE : BitVec 6) (lpT lpL lpS : BitVec 4) (s : State) : Out :=
  slotOp (s.me.guard g) (fun s => s.me.tagged 8 sE)
    (fun s =>
      let x := s.me
      let e := s.reuseEntry s.cur (field (x.s sE) 11 0)
      let lp (n : BitVec 4) : W64 := SMap.get 0 x.lp n.toNat
      let sel := selected x.task (lp lpS)
      let hit := e.valid && e.keyOf x
      let skip := hit && !sel && !x.regs.prb.tag && !(s.nodeState s.cur).off (taskStep x.task).toNat &&
        probesClose x.regs.prb.lanes e.probe (slice (lp lpT) 0 32) && decide (e.run.toNat < field (lp lpL) 31 0)
      s.onMe fun c => ((c.landP 6 pd skip).landP 6 (pd + 1) sel).landS 6 sO (if hit then e.out else 0) false) s

/-! ### `fru` (R291) -/

def execFru (g : Guard) (sE sO : BitVec 6) (s : State) : Out :=
  slotOp (s.me.guard g) noCheck
    (fun s =>
      let x := s.me
      s.setReuse s.cur (field (x.s sE) 11 0)
        ⟨!x.regs.prb.tag, x.launch, taskTpl x.task, taskNode x.task, taskInst x.task, x.regs.prb.lanes, taskStep x.task, 0, x.s sO⟩) s

def execFruSkip (g : Guard) (sE : BitVec 6) (s : State) : Out :=
  slotOp (s.me.guard g) noCheck
    (fun s =>
      let x := s.me
      let n := field (x.s sE) 11 0
      let e := s.reuseEntry s.cur n
      let s1 := s.tally (0x658 + if dieOf s.cur.core then 8 else 0) 1
      if e.valid && e.keyOf x then s1.setReuse s.cur n { e with run := if e.run = BitVec.allOnes 32 then e.run else e.run + 1 } else s1) s

/-! ### `frs` (R292) -/

/-- Whether a pair of elements diverges from a bound: two NaNs, or equal infinities, differ by 0. -/
def pairDiverges (bound a b : Val) : Bool :=
  if a.isFin && b.isFin then bound.lt (a.dist b)
  else if (a.isNan && b.isNan) || (!a.isNan && !b.isNan && a.eq b) then bound.lt Val.zero
  else true

/-- Whether a sampled task diverges. -/
def State.diverges (s : State) (ty : ElemTy) (f c n : Nat) (bound : Val) : Bool :=
  let bytes := n * (ty.bits / 8)
  let a := s.coreBytes s.cur.core f bytes
  let b := s.coreBytes s.cur.core c bytes
  let fmt := NumFmt.ofElem ty
  let xs := (spanElems a.1 ty.bits n).map fmt.decode
  let ys := (spanElems b.1 ty.bits n).map fmt.decode
  bound.isNan || a.2.isSome || b.2.isSome || (List.zipWith (pairDiverges bound) xs ys).any id

def execFrs (g : Guard) (sF sC sN : BitVec 6) (ty : ElemTy) (lpS : BitVec 4) (dis : Bool) (s : State) : Out :=
  let n (s : State) : Nat := field (s.me.s sN) 11 0 + 1
  let bytes (s : State) : Nat := n s * (ty.bits / 8)
  let f (s : State) : Nat := field (s.me.s sF) 19 0
  let c (s : State) : Nat := field (s.me.s sC) 19 0
  slotOp (s.me.guard g)
    (fun s => firstOf
      [ when (decide (4096 < bytes s)) (Exn.coord 0 8 8 (bytes s))
      , when (f s % 32 ≠ 0) (Exn.mk .align 8 (f s)), when (c s % 32 ≠ 0) (Exn.mk .align 8 (c s))
      , s.ownerFault (s.who s.cur) s.cur.core 8 (f s) (bytes s), s.ownerFault (s.who s.cur) s.cur.core 8 (c s) (bytes s) ])
    (fun s =>
      let d := s.diverges ty (f s) (c s) (n s) (FFmt.f32.decode (field (SMap.get 0 s.me.lp lpS.toNat) 63 32))
      let from_ := (taskStep s.me.task).toNat + 4
      s.onNode s.cur fun k =>
        let k1 := { k with samples := k.samples + 1 }
        if d then
          { k1 with
            divergences := k1.divergences + 1
            disabled := if dis then some (match k1.disabled with
              | some x => min x from_
              | none => from_) else k1.disabled }
        else k1) s

end Sys2Proof.Machine
end

