-- ==== Sys2Proof/Machine/Template.lean ====
section
/-! DEFINITION. Machine/Template.lean: graph template images (R41 to R44, R49), what the Lathe reads from them, and the checks of R48. -/

namespace Sys2Proof.Machine

/-! ### Reading an image -/

/-- A 64-bit word of an image. -/
def imgWord (img : List Byte) (off : Nat) : W64 := BitVec.ofNat 64 (ofBytes ((img.drop off).take 8))

/-- A 16-bit number of an image. -/
def imgHalf (img : List Byte) (off : Nat) : Nat := ofBytes ((img.drop off).take 2)

/-- The header fields (R41). -/
def tplNodes (img : List Byte) : Nat := field (imgWord img 0) 12 0
def tplEdges (img : List Byte) : Nat := field (imgWord img 0) 31 16
def tplNodeOff (img : List Byte) : Nat := field (imgWord img 8) 31 0
def tplEdgeOff (img : List Byte) : Nat := field (imgWord img 16) 31 0
def tplArgOff (img : List Byte) : Nat := field (imgWord img 24) 31 0
def tplPlaceOff (img : List Byte) : Nat := field (imgWord img 32) 31 0
def tplSize (img : List Byte) : Nat := field (imgWord img 40) 31 0

/-- A node entry (R42). -/
structure Node where
  entry : Nat
  nx : Nat
  count : Nat
  place : Nat
  placeN : Nat
  efirst : Nat
  ecount : Nat
  row : Bool
  afirst : Nat
  acount : Nat
deriving DecidableEq, Repr

/-- Where node n's entry lies. -/
def nodeAt (img : List Byte) (n : Nat) : Nat := tplNodeOff img + 64 * n

/-- Node n. -/
def tplNode (img : List Byte) (n : Nat) : Node :=
  let o := nodeAt img n
  let w (k : Nat) : W64 := imgWord img (o + 8 * k)
  ⟨field (w 0) 31 0, field (w 1) 47 24, field (w 1) 23 0 + 1, field (w 2) 31 0, field (w 2) 43 32 + 1, field (w 3) 31 0, field (w 3) 47 32,
    (w 4).getLsbD 36, field (w 4) 31 0, field (w 4) 35 32⟩

/-- The core number of instance i of a node (R43). -/
def tplCore (img : List Byte) (d : Node) (i : Nat) : BitVec 16 :=
  BitVec.ofNat 16 (imgHalf img (tplPlaceOff img + d.place + 2 * (i % d.placeN)))

/-- An edge entry (R44). -/
structure Edge where
  kind : Nat
  prev : Bool
  src : Nat
  rx : Nat
  ry : Nat
  counter : Nat
  quota : Nat
deriving DecidableEq, Repr

/-- Where edge e's entry lies. -/
def edgeAt (img : List Byte) (e : Nat) : Nat := tplEdgeOff img + 16 * e

/-- Edge e. -/
def tplEdge (img : List Byte) (e : Nat) : Edge :=
  let w0 := imgWord img (edgeAt img e)
  let w1 := imgWord img (edgeAt img e + 8)
  ⟨field w0 3 0, w0.getLsbD 4, field w0 19 8, field w0 39 32, field w0 47 40, field w1 9 0, field w1 47 16⟩

/-- The edges of a node. -/
def nodeEdges (img : List Byte) (d : Node) : List Edge := (List.range d.ecount).map fun k => tplEdge img (d.efirst + k)

/-- The value of argument k (from 0) of a node for an instance at a step (R49, R50). -/
def tplArg (img : List Byte) (d : Node) (k inst step : Nat) : W64 :=
  if k < d.acount then
    let o := tplArgOff img + 32 * (d.afirst + k)
    let m := field (imgWord img (o + 24)) 20 0
    imgWord img o + BitVec.ofNat 64 inst * imgWord img (o + 8) + BitVec.ofNat 64 (if m = 0 then step else step % m) * imgWord img (o + 16)
  else 0

/-! ### The checks of R48 -/

/-- A field's byte offset when it offends. -/
def offends (ok : Bool) (off : Nat) : List Nat := if ok then [] else [off]

/-- The header's offending fields. -/
def headerErrs (img : List Byte) : List Nat :=
  let w (k : Nat) : W64 := imgWord img (8 * k)
  let size := tplSize img
  let z (k hi lo : Nat) := offends (decide (field (w k) hi lo = 0)) (8 * k + lo / 8)
  z 0 63 32 ++ z 0 15 13 ++ offends (decide (1 ≤ tplNodes img) && decide (tplNodes img ≤ 4096)) 0 ++
    offends (decide (tplNodeOff img % 64 = 0) && decide (tplNodeOff img + 64 * tplNodes img ≤ size)) 8 ++
    offends (decide (tplEdgeOff img % 16 = 0) && decide (tplEdgeOff img + 16 * tplEdges img ≤ size)) 16 ++
    offends (decide (tplArgOff img % 32 = 0) && decide (tplArgOff img ≤ size)) 24 ++
    offends (decide (tplPlaceOff img % 2 = 0) && decide (tplPlaceOff img ≤ size)) 32 ++
    offends (decide (64 ≤ size) && decide (size ≤ 2 ^ 20)) 40 ++
    z 1 63 32 ++ z 2 63 32 ++ z 3 63 32 ++ z 4 63 32 ++ z 5 63 32 ++ z 6 63 0 ++ z 7 63 0

/-- The offending fields of node n's entry. An index past its table offends also where the node names no entry with it (log entry 113). -/
def nodeErrs (img : List Byte) (n : Nat) : List Nat :=
  let o := nodeAt img n
  let d := tplNode img n
  let size := tplSize img
  let z (k hi lo : Nat) := offends (decide (field (imgWord img (o + 8 * k)) hi lo = 0)) (o + 8 * k + lo / 8)
  z 0 63 32 ++ z 1 63 48 ++ offends (decide (1 ≤ d.nx) && decide (d.nx ≤ d.count) && decide (d.count % max 1 d.nx = 0)) (o + 11) ++
    z 2 63 44 ++ offends (decide (tplPlaceOff img + d.place + 2 * d.placeN ≤ size)) (o + 16) ++
    z 3 63 48 ++ offends (decide (d.efirst + d.ecount ≤ tplEdges img)) (o + 24) ++
    z 4 63 37 ++ offends (decide (d.acount ≤ 8)) (o + 36) ++ offends (decide (tplArgOff img + 32 * (d.afirst + d.acount) ≤ size)) (o + 32) ++
    z 5 63 0 ++ z 6 63 0 ++ z 7 63 0

/-- The offending fields of edge e's entry. -/
def edgeErrs (img : List Byte) (e : Nat) : List Nat :=
  let o := edgeAt img e
  let x := tplEdge img e
  let z (k hi lo : Nat) := offends (decide (field (imgWord img (o + 8 * k)) hi lo = 0)) (o + 8 * k + lo / 8)
  z 0 63 48 ++ z 0 31 20 ++ z 0 7 5 ++ offends (decide (x.kind ≤ 3)) o ++ offends (decide (x.src < tplNodes img)) (o + 1) ++
    z 1 63 48 ++ z 1 15 10 ++
    (if x.kind = 3 then offends (decide (x.src = 0)) (o + 1) ++ offends (!x.prev) o ++ offends (decide (1 ≤ x.quota)) (o + 10) else [])

/-- SAME and HALO edges of node n that join nodes of other shapes. -/
def shapeErrs (img : List Byte) (n : Nat) : List Nat :=
  let d := tplNode img n
  (List.range d.ecount).flatMap fun k =>
    let x := tplEdge img (d.efirst + k)
    let s := tplNode img x.src
    let bad := (decide (x.kind = 0) && decide (s.count ≠ d.count)) || (decide (x.kind = 2) && (decide (s.count ≠ d.count) || decide (s.nx ≠ d.nx)))
    offends (!(decide (d.efirst + k < tplEdges img) && decide (x.src < tplNodes img) && bad)) (edgeAt img (d.efirst + k) + 1)

/-- The offending argument entries of node n. -/
def argErrs (img : List Byte) (n : Nat) : List Nat :=
  let d := tplNode img n
  (List.range d.acount).flatMap fun k =>
    let o := tplArgOff img + 32 * (d.afirst + k)
    let w := imgWord img (o + 24)
    offends (decide (field w 63 21 = 0)) (o + 26) ++ offends (decide (1 ≤ field w 20 0) && decide (field w 20 0 ≤ 2 ^ 20)) (o + 24)

/-- The offending placement entries of node n: another die's core, an absent one, a D-core for a row kernel (R18, R19, R42). -/
def placeErrs (s : State) (die : Bool) (img : List Byte) (n : Nat) : List Nat :=
  let d := tplNode img n
  (List.range d.placeN).flatMap fun i =>
    let c := tplCore img d i
    offends (s.corePresent c && (dieOf c == die) && (!d.row || isS c)) (tplPlaceOff img + d.place + 2 * i)

/-- The nodes that a node depends on in its own step. -/
def sameStepSrcs (img : List Byte) (n : Nat) : List Nat :=
  ((nodeEdges img (tplNode img n)).filter fun x => !x.prev && decide (x.kind ≤ 2)).map (·.src)

/-- Every node reached from a list along the dependencies, in at most `fuel` rounds. -/
def reachFrom (img : List Byte) : Nat → List Nat → List Nat
  | 0, l => l
  | fuel + 1, l => reachFrom img fuel (l ++ ((l.flatMap (sameStepSrcs img)).eraseDups.filter fun n => !l.contains n))

/-- The edges with prev = 0 that lie on a cycle. -/
def cycleErrs (img : List Byte) : List Nat :=
  (List.range (tplNodes img)).flatMap fun n =>
    let d := tplNode img n
    (List.range d.ecount).flatMap fun k =>
      let x := tplEdge img (d.efirst + k)
      offends (!(!x.prev && decide (x.kind ≤ 2) && (reachFrom img (tplNodes img) [x.src]).contains n)) (edgeAt img (d.efirst + k) + 1)

/-- The least of a list of offsets. -/
def leastOff : List Nat → Option Nat
  | [] => none
  | a :: r => some (r.foldl min a)

/-- The offending field of lowest offset: the header first, since the tables are found through it, then the entries, then the relations
between them (R48, R357). -/
def templateError (s : State) (die : Bool) (img : List Byte) : Option Nat :=
  match leastOff (headerErrs img) with
  | some o => some o
  | none =>
    let ns := List.range (tplNodes img)
    match leastOff (ns.flatMap (nodeErrs img) ++ (List.range (tplEdges img)).flatMap (edgeErrs img)) with
    | some o => some o
    | none => leastOff (ns.flatMap (shapeErrs img) ++ ns.flatMap (argErrs img) ++ ns.flatMap (placeErrs s die img) ++ cycleErrs img)

end Sys2Proof.Machine
end

