-- ==== Sys2Proof/Machine/Lathe.lean ====
section
/-! DEFINITION. Machine/Lathe.lean: the Lathe's step loop (R51, R52, R54), dependencies (R45, R46), dispatch (R53, R367, R368), the start and
end of tasks (R38 to R40, R50, R303), the end of a launch (R54, R332, R357, R359) and the watchdog (R369). -/

namespace Sys2Proof.Machine

/-! ### Completing a stream command (R357) -/

/-- A command's status word is written, if it names an address, and the stream is free for the next command. -/
def State.complete (s : State) (i : StreamId) (h : CmdHdr) (op status detail : Nat) : State :=
  let w := BitVec.ofNat 64 (h.tag.toNat + op * 2 ^ 16 + status * 2 ^ 24 + detail * 2 ^ 32)
  let s1 := if h.done = 0 then s else s.rawStoreWord (h.done.getLsbD 63) (field h.done 51 0) w
  s1.onStream i fun k => { k with busy := none, running := false, progressAt := s.chip }

/-! ### A launch and its template -/

/-- The image of a launch's template. -/
def State.imageOf (s : State) (l : Launch) : List Byte :=
  match SMap.get none (s.lathe l.stream.die).templates l.args.slot.toNat with
  | some t => t.image
  | none => []

/-- The step count and the table period. -/
def Launch.n (l : Launch) : Nat := l.args.nm1.toNat + 1
def Launch.p (l : Launch) : Nat := l.args.pm1.toNat + 1

/-- The key of a task in a step's maps. -/
def taskKey (node inst : Nat) : Nat := 2 ^ 24 * node + inst

/-- Whether a task of a step has ended; every task of a closed step has. -/
def Launch.ended (l : Launch) (step node inst : Nat) : Bool :=
  match l.steps.find? fun x => decide (x.n = step) with
  | some x => SMap.get false x.ended (taskKey node inst)
  | none => decide (step < l.next)

/-- Whether an edge of a node is satisfied for instance i at step n (R45). -/
def Launch.satisfied (l : Launch) (img : List Byte) (d : Node) (x : Edge) (i n : Nat) : Bool :=
  let src := tplNode img x.src
  let at_ (k : Nat) : Bool := l.ended (if x.prev then n - 1 else n) x.src k
  if x.kind = 3 then decide (x.quota * (n + 1) ≤ (SMap.get 0 l.counters x.counter).toNat)
  else if x.prev && decide (n = 0) then true
  else match x.kind with
    | 0 => at_ i
    | 1 => (List.range src.count).all at_
    | _ =>
      let px := i % d.nx
      let py := i / d.nx
      (List.range src.count).all fun k =>
        let qx := k % src.nx
        let qy := k / src.nx
        !(decide (px ≤ qx + x.rx) && decide (qx ≤ px + x.rx) && decide (py ≤ qy + x.ry) && decide (qy ≤ py + x.ry)) || at_ k

/-- Whether a task is ready: its edges, and the same instance at the previous step (R45, R46). -/
def Launch.ready (l : Launch) (img : List Byte) (node i n : Nat) : Bool :=
  let d := tplNode img node
  (nodeEdges img d).all (fun x => l.satisfied img d x i n) && (decide (n = 0) || l.ended (n - 1) node i)

/-- Whether every task of a step satisfies a condition. -/
def allTasks (img : List Byte) (p : Nat → Bool) : Bool :=
  (List.range (tplNodes img)).all fun n => (List.range (tplNode img n).count).all fun i => p (taskKey n i)

/-- Whether STOP lets a step's tasks be dispatched (R54). -/
def Launch.stopAllows (l : Launch) (n : Nat) : Bool :=
  match l.stop with
  | some k => decide (n ≤ k)
  | none => true

/-! ### Steps open and close (R52, R54) -/

/-- Whether a stream is neither halted nor pre-empted, and no pre-emption stops its steps (R56, R370). -/
def Stream.opens (k : Stream) : Bool := !k.halted && !k.preempted && match k.preempt with
  | some r => decide (r.gran = 0)
  | none => true

/-- Whether every task of step n - 1 has been dispatched. -/
def Launch.prevDone (l : Launch) (img : List Byte) : Bool :=
  match l.steps.find? fun x => decide (x.n + 1 = l.next) with
  | some x => allTasks img fun k => SMap.get false x.dispatched k
  | none => true

/-- The loop registers of step n: the step index and the row n mod P of the step table (R51, R52). -/
def State.stepRegs (s : State) (l : Launch) (n : Nat) : SMap W64 :=
  let row := l.args.steps.toNat + 128 * (n % l.p)
  (List.range 15).foldl (fun m k => SMap.set 0 m (k + 1) (s.rawWord false (row + 8 * (k + 1)))) (SMap.set 0 [] 0 (BitVec.ofNat 64 n))

/-- Whether a pending repair keeps a die's steps from opening (R408). -/
def Lathe.holds (l : Lathe) (now : Nat) : Bool := l.repwaitFrom.isSome && decide (l.openUntil ≤ now)

/-- Whether a launch's next step can open. -/
def State.canOpen (s : State) (l : Launch) : Bool :=
  decide (l.lost = 0) && decide (l.next < l.n) && l.prevDone (s.imageOf l) && decide (l.steps.length < 4) && l.stopAllows l.next && (s.stream l.stream).opens &&
    !(s.lathe l.stream.die).holds s.chip

/-- A step can close: every task of it has ended, or above STOP every one that has been dispatched, be it now returned (R52, R54, R57). -/
def Launch.closes (l : Launch) (img : List Byte) (x : StepState) : Bool :=
  if l.stopAllows x.n then allTasks img fun k => SMap.get false x.ended k
  else (x.dispatched ++ x.requeued).all fun e => SMap.get false x.ended e.1

/-- The steps that can close do. -/
def Launch.closeSteps (l : Launch) (img : List Byte) : Launch :=
  let gone := l.steps.filter (l.closes img)
  { l with
    steps := l.steps.filter fun x => !l.closes img x
    kept := l.kept || gone.any fun x => !allTasks img fun k => SMap.get false x.dispatched k }

/-- Whether a context runs a task of a launch; a Pre-empted one does not (R373, R381). -/
def State.runsLaunch (s : State) (die : Bool) (id : Nat) : Bool :=
  s.ctxs.any fun e => e.2.hasTask && decide (e.2.launch = id) && (dieOf (ctxOfKey e.1).core == die) && decide (e.2.st ≠ .lost) &&
    decide (e.2.st ≠ .preempted)

/-- Whether a run has ended: every open step closed and none to open, or, on a halted stream, no task of it running (R54, R381). -/
def State.runOver (s : State) (l : Launch) : Bool :=
  if 0 < l.lost then !s.runsLaunch l.stream.die l.id
  else l.steps.isEmpty && (decide (l.n ≤ l.next) || !l.stopAllows l.next)

/-- Two tables' states of one node as one report entry: the counts added, the lower disabled-from (R332, log entry 83). -/
def NodeState.merge (a b : NodeState) : NodeState :=
  ⟨match a.disabled, b.disabled with
    | some x, some y => some (min x y)
    | some x, none => some x
    | none, y => y, a.samples + b.samples, a.divergences + b.divergences⟩

/-- The node states of a launch, over the tables of all clusters and stacks (R287). -/
def Launch.nodeStates (l : Launch) : SMap NodeState :=
  l.nodes.foldl (fun m e => SMap.upd NodeState.init m (e.1 % 4096) fun n => n.merge e.2) []

/-- The reuse report of a launch (R332). -/
def State.writeReport (s : State) (l : Launch) : State :=
  if l.args.report = 0 then s
  else
    let ns := l.nodeStates.filter fun e => decide (e.2.samples ≠ 0)
    let sat (n : Nat) : Nat := min n (2 ^ 32 - 1)
    (List.range ns.length).foldl (fun s i =>
      match ns[i]? with
      | none => s
      | some e =>
        let d := e.2
        let w0 := e.1 + (if d.disabled.isSome then 2 ^ 12 else 0) + sat d.samples * 2 ^ 32
        let w1 := d.disabled.getD 0 % 2 ^ 20 + sat d.divergences * 2 ^ 32
        s.rawStoreWords false (l.args.report.toNat + 16 * i) [BitVec.ofNat 64 w0, BitVec.ofNat 64 w1]) s

/-- The end of a launch: the report, then LAUNCH's status (R54, R332, R359, R381). -/
def State.endLaunch (s : State) (l : Launch) : State :=
  let s1 := (s.writeReport l).onLathe l.stream.die fun x => { x with launches := x.launches.filter fun k => decide (k.id ≠ l.id) }
  if 0 < l.lost then s1.complete l.stream l.hdr 0x01 7 l.lost
  else s1.complete l.stream l.hdr 0x01 0 (l.highest + if l.kept || decide (l.next < l.n) then 2 ^ 20 else 0)

/-- Steps close and, when the run is over, the launch ends. -/
def State.advanceLaunch (s : State) (die : Bool) (id : Nat) : State :=
  match (s.lathe die).launch id with
  | none => s
  | some l =>
    let l1 := l.closeSteps (s.imageOf l)
    let s1 := s.onLaunch die id fun _ => l1
    if s1.runOver l1 then s1.endLaunch l1 else s1

/-- The launch that runs on a stream (R359). -/
def State.streamLaunch (s : State) (i : StreamId) : Option Launch := (s.lathe i.die).launches.find? fun l => decide (l.stream = i)

/-- The next step of a stream's launch opens, if it can; a run that is over ends (R52, R54). -/
def execStepOpen (i : StreamId) (s : State) : Out :=
  .next (match s.streamLaunch i with
    | none => s
    | some l =>
      if s.runOver l then s.endLaunch l
      else if s.canOpen l then
        s.onLaunch i.die l.id fun l => { l with next := l.next + 1, steps := l.steps ++ [⟨l.next, s.stepRegs l l.next, [], [], []⟩] }
      else s)

/-! ### Dispatch (R53, R367, R368) -/

/-- The contexts of a core that are bound to a stream. -/
def State.boundTo (s : State) (core : BitVec 16) (i : StreamId) : List CtxId :=
  ([0, 1, 2, 3].map fun k => (⟨core, BitVec.ofNat 2 k⟩ : CtxId)).filter fun c =>
    decide ((s.ctx c).st ≠ .unbound) && decide ((s.ctx c).stream = i.n) && (dieOf core == i.die)

/-- Whether a core's queue accepts a task of a launch (R368). -/
def State.accepts (s : State) (core : BitVec 16) (l : Launch) : Bool :=
  let q := (s.core core).tasks
  decide (q.length < 8) && decide ((q.filter fun t => decide (t.launch = l.id)).length < 2 * (s.boundTo core l.stream).length)

/-- A task that can be dispatched: step, node, instance. -/
structure TaskId where
  step : Nat
  node : Nat
  inst : Nat
deriving DecidableEq, Repr

/-- The first ready task of an open step whose queue has room, in ascending step, node and instance (R53). Above STOP only tasks that have been
dispatched before and were returned are left (R54, R57; log entry 81). -/
def State.candidate (s : State) (l : Launch) : Option TaskId :=
  let img := s.imageOf l
  l.steps.findSome? fun x =>
    (List.range (tplNodes img)).findSome? fun node =>
      let d := tplNode img node
      ((List.range d.count).find? fun i =>
        (l.stopAllows x.n || SMap.get false x.requeued (taskKey node i)) && !SMap.get false x.dispatched (taskKey node i) && l.ready img node i x.n && s.accepts (tplCore img d i) l).map fun i => ⟨x.n, node, i⟩

/-- Whether a stream's launch is dispatched from: enabled, not pre-empted, not halted, and no pre-emption of granularity task or bundle
under way (R57, R367, R370). -/
def Stream.dispatches (k : Stream) : Bool :=
  k.ctl.getLsbD 0 && !k.preempted && !k.halted && match k.preempt with
    | some r => decide (r.gran ≤ 1)
    | none => true

/-- A launch with its candidate. -/
structure Offer where
  launch : Launch
  task : TaskId
deriving DecidableEq, Repr

/-- The launches of a die that have a candidate; one that has lost a context dispatches no further task (R381). -/
def State.offers (s : State) (die : Bool) : List Offer :=
  (s.lathe die).launches.filterMap fun l =>
    if (s.stream l.stream).dispatches && decide (l.lost = 0) then (s.candidate l).map fun t => ⟨l, t⟩ else none

/-- The priority of a stream. -/
def Stream.prio (k : Stream) : Nat := field k.ctl 2 1

/-- The place of a stream in the turn of its priority: the first after the last one served (R367). -/
def Lathe.turn (l : Lathe) (prio : Nat) (n : BitVec 6) : Nat := (n.toNat + 63 - SMap.get 63 l.lastServed prio) % 64

/-- The offer that is served: a starved one, the first in the list of launches (log entry 118), else by priority and turn. -/
def State.pickOffer (s : State) (die : Bool) (os : List Offer) : Option Offer :=
  match os.find? fun o => decide (4096 ≤ o.launch.starve) with
  | some o => some o
  | none =>
    let key (o : Offer) : Nat := (3 - (s.stream o.launch.stream).prio) * 64 + (s.lathe die).turn (s.stream o.launch.stream).prio o.launch.stream.n
    os.foldl (fun b o => match b with
      | none => some o
      | some x => if key o < key x then some o else some x) none

/-- A task record (R37). -/
def taskWord (l : Launch) (t : TaskId) (requeued : Bool) : BitVec 128 :=
  BitVec.ofNat 128 (l.args.slot.toNat + t.node * 2 ^ 6 + t.inst * 2 ^ 18 + t.step * 2 ^ 42 + (if t.step = 0 then 2 ^ 64 else 0) +
    (if t.step + 1 = l.n then 2 ^ 65 else 0) + if requeued then 2 ^ 66 else 0)

/-- A task goes to the queue of its placement core. -/
def State.dispatch (s : State) (die : Bool) (o : Offer) : State :=
  let img := s.imageOf o.launch
  let core := tplCore img (tplNode img o.task.node) o.task.inst
  let key := taskKey o.task.node o.task.inst
  let again := match o.launch.steps.find? fun x => decide (x.n = o.task.step) with
    | some x => SMap.get false x.requeued key
    | none => false
  let s1 := s.onLaunch die o.launch.id fun l =>
    { l with
      highest := max l.highest o.task.step
      steps := l.steps.map fun x => if x.n = o.task.step then { x with dispatched := SMap.set false x.dispatched key true } else x }
  let s2 := s1.onCore core fun c => { c with tasks := c.tasks ++ [⟨o.launch.id, o.launch.stream.n, taskWord o.launch o.task again⟩] }
  (s2.onLathe die fun l => { l with lastServed := SMap.set 63 l.lastServed (s.stream o.launch.stream).prio o.launch.stream.n.toNat }).tally
    (0x648 + if die then 8 else 0) 1

/-- One dispatch cycle of a die's Lathe. -/
def execTaskDispatch (die : Bool) (s : State) : Out :=
  let os := s.offers die
  let s1 := s.onLathe die fun l => { l with launches := l.launches.map fun k =>
    { k with starve := if os.any fun o => decide (o.launch.id = k.id) then k.starve + 1 else 0 } }
  .next (match s.pickOffer die os with
    | none => s1
    | some o => (s1.onLaunch die o.launch.id fun l => { l with starve := 0 }).dispatch die o)

/-! ### Task start (R38, R40, R50, R379) -/

/-- Whether a context can take a queued task: blocked with no task, and bound to the stream of the task's launch (R40). -/
def State.takes (s : State) (c : CtxId) (t : TaskRec) : Bool :=
  decide ((s.ctx c).st = .blocked .noTask) && decide ((s.ctx c).stream = t.stream)

/-- The oldest task of a core's queue that a context takes, when it is the lowest-numbered one that can. -/
def State.taskFor (s : State) (c : CtxId) : Option TaskRec :=
  ((s.core c.core).tasks.find? fun t => (s.boundTo c.core ⟨dieOf c.core, t.stream⟩).any fun k => s.takes k t).bind fun t =>
    if ((s.boundTo c.core ⟨dieOf c.core, t.stream⟩).find? fun k => s.takes k t) = some c then some t else none

/-- The context as a task's start leaves it: task registers, arguments, loop registers, an empty landing queue and gate, every poison tag clear
(R204), and the shadow of a mark. A yield of the task before runs off in its own cycles (R304). -/
def Ctx.start (x : Ctx) (t : TaskRec) (lp : SMap W64) (args : List W64) (entry : Nat) : Ctx :=
  let r := x.regs
  let regs : RegSet := { r with
    s := (List.range 8).foldl (fun m k => SMap.set 0 m (k + 1) (args.getD k 0)) r.s
    sTag := 0, vTag := 0, mTag := 0
    rrb := 0, redirects := [], pc := entry, tick := 0, landing := [], pendTiles := [], flagQ := [], csrQ := [], dupQ := [] }
  { x with
    st := .ready, regs := regs, shadow := regs, lp := lp, gap := 0, gate := [], queue := [], fences := [], early := none, markSeq := x.seq
    xfer := .none, newRrb := none, task := t.word, hasTask := true, launch := t.launch, faultInfo := setBit x.faultInfo 12 false
    passed := 0, probed := false, wanted := 0 }

/-- A context takes the oldest queued task of its stream's launch and becomes Ready (R23, R38, R40). -/
def execTaskStart (c : CtxId) (s : State) : Out :=
  .next (match s.taskFor c with
    | none => s
    | some t =>
      let s1 := s.onCore c.core fun k => { k with tasks := k.tasks.erase t }
      match (s.lathe (dieOf c.core)).launch t.launch with
      | none => s1
      | some l =>
        let img := s.imageOf l
        let d := tplNode img (taskNode t.word).toNat
        let step := (taskStep t.word).toNat
        let args := (List.range 8).map fun k => tplArg img d k (taskInst t.word).toNat step
        let lp := match l.steps.find? fun x => decide (x.n = step) with
          | some x => x.lp
          | none => []
        (s1.onCtx c fun x => x.start t lp args d.entry).guardReady c)

/-! ### The end of a task (R39, R303) -/

/-- Whether a `tend` has drained: results landed, CSR writes governing, stores and accesses performed. -/
def State.tendDrained (s : State) (c : CtxId) : Bool :=
  let x := s.ctx c
  decide (x.st = .blocked .tend) && decide (x.drainWait = 0) && x.regs.landing.all (fun l => l.due.isNone) && x.regs.pendTiles.isEmpty && x.regs.csrQ.isEmpty &&
    x.regs.flagQ.isEmpty && x.gate.isEmpty && x.queue.all QAcc.isDone

/-- The Lathe notes that a task has ended. -/
def State.reportEnd (s : State) (c : CtxId) : State :=
  let x := s.ctx c
  let die := dieOf c.core
  let key := taskKey (taskNode x.task).toNat (taskInst x.task).toNat
  let step := (taskStep x.task).toNat
  ((s.onLaunch die x.launch fun l =>
    { l with steps := l.steps.map fun k => if k.n = step then { k with ended := SMap.set false k.ended key true } else k }).onStream
      (s.streamOf c) fun k => { k with progressAt := s.chip }).advanceLaunch die x.launch

/-- A drained `tend` reports its task ended; the context is blocked with no task (R39). -/
def execTendDrainDone (c : CtxId) (s : State) : Out :=
  .next (if s.tendDrained c then
      let s1 := (s.coreWrites c true).onCtx c fun x => { x with st := .blocked .noTask, hasTask := false, queue := [], regs := { x.regs with landing := [] } }
      if (s.ctx c).hasTask then s1.reportEnd c else s1
    else s)

/-! ### The watchdog (R369) -/

/-- The watchdog of a stream: its command has not completed and no task of its launch has ended for WDOG × 1,024 ns. -/
def execWatchdogExpire (i : StreamId) (s : State) : Out :=
  let k := s.stream i
  .next (if k.running && decide (k.wdog ≠ 0) && !k.watchdog && decide (k.progressAt + k.wdog.toNat * 1024 ≤ s.chip) then
      ((s.onStream i fun k => { k with watchdog := true }).emit (.msix 0)).tally 0x640 1
    else s)

end Sys2Proof.Machine
end

