-- ==== Sys2Proof/Machine/Streams.lean ====
section
/-! DEFINITION. Machine/Streams.lean: the command streams (R355 to R358, R418, R450), the work commands (R359 to R362), address spaces and
templates (R363, R364, R382), and what PREEMPT does to a stream up to its stop (R56 to R58, R370). -/

namespace Sys2Proof.Machine

/-! ### The checks that every command shares (R358, R418, R450) -/

/-- Whether an ASID names a sealed address space. -/
def State.sealedAsid (s : State) (asid : BitVec 11) : Bool :=
  match s.space asid with
  | some a => a.args.world
  | none => false

/-- Whether a slot holds a sealed context, or one of a sealed address space. -/
def State.sealedCtx (s : State) (c : CtxId) : Bool :=
  let x := s.ctx c
  decide (x.st ≠ .unbound) && (x.world || s.sealedAsid x.asid)

/-- What a command names: ASIDs, contexts, and whether it names a sealed world outright. -/
structure Names where
  asids : List (BitVec 11)
  ctxs : List CtxId
  world : Bool
deriving DecidableEq, Repr

/-- A command that names nothing. -/
def Names.none : Names := ⟨[], [], false⟩

/-- Whether a command names a sealed context or ASID. -/
def State.namesSealed (s : State) (n : Names) : Bool := n.world || n.asids.any s.sealedAsid || n.ctxs.any s.sealedCtx

/-- Whether a stream is a control stream, and in the sealed world. -/
def Stream.control (k : Stream) : Bool := k.ctl.getLsbD 3
def Stream.world (k : Stream) : Bool := k.ctl.getLsbD 4
def Stream.priv (k : Stream) : Bool := k.ctl.getLsbD 5

/-- Whether an opcode may stand on a stream of a kind (R358). -/
def kindFits (op : Nat) (control : Bool) : Bool :=
  match cmdKind op with
  | some (some c) => c == control
  | some none => true
  | none => false

/-- Checks 2 and 3 of R450: the status that a command completes with, if one of them fails. In recovery mode every command is REJECTED
(R418). -/
def State.refuses (s : State) (i : StreamId) (op : Nat) (n : Names) : Option Nat :=
  let k := s.stream i
  if s.power = .recovery || !kindFits op k.control then some 1
  else if k.control && !k.world && s.namesSealed n then some 6
  else none

/-- A command of the current stream: refused by the checks of R450, or performed. -/
def command (op : Nat) (h : CmdHdr) (n : Names) (eff : StreamId → State → State) (s : State) : Out :=
  .next (match s.refuses s.curStream op n with
    | some st => s.complete s.curStream h op st 0
    | none => eff s.curStream s)

/-- A command that completes with a status and detail, or performs and completes OK with a detail. -/
def State.answer (s : State) (i : StreamId) (h : CmdHdr) (op : Nat) (fails : List (Option (Nat × Nat))) (ok : State → State) (detail : Nat) : State :=
  match fails.findSome? id with
  | some f => s.complete i h op f.1 f.2
  | none => (ok s).complete i h op 0 detail

/-- A status with detail 0 when a condition holds. -/
def fails (b : Bool) (status : Nat) : Option (Nat × Nat) := if b then some (status, 0) else none

/-! ### Registers of a stream (R355, R356) -/

/-- STATUS. -/
def Stream.status (k : Stream) : W64 :=
  let b (v : Bool) (n : Nat) : Nat := if v then 2 ^ n else 0
  BitVec.ofNat 64 (b k.running 0 + b k.halted 1 + b k.preempted 2 + b k.watchdog 3 + b k.overrun 4 + k.curTag.toNat * 2 ^ 32)

/-- TAIL − HEAD modulo 2^32. -/
def Stream.pending (k : Stream) (tail : BitVec 32) : Nat := (tail - k.head).toNat

/-- Whether a stream starts commands: enabled, with a legal ring, and neither halted, pre-empted nor being pre-empted at a step, task or bundle
boundary (R356, R370). -/
def Stream.starts (k : Stream) : Bool :=
  k.ctl.getLsbD 0 && !k.running && k.opens && decide (4 ≤ k.size.toNat) && decide (k.size.toNat ≤ 16) && decide (k.head ≠ k.tail)

/-- The command that a stream starts next: of the control streams of a die the lowest-numbered one goes first (R358). -/
def State.nextStart (s : State) (i : StreamId) : Option StreamId :=
  if !(s.stream i).starts then none
  else if (s.stream i).control then
    (((List.range 64).map fun n => (⟨i.die, BitVec.ofNat 6 n⟩ : StreamId)).find? fun j => (s.stream j).control && (s.stream j).starts)
  else some i

/-- The 64 bytes of the command at HEAD. -/
def State.commandAt (s : State) (k : Stream) : BitVec 512 :=
  BitVec.ofNat 512 (ofBytes (s.rawBytes (k.base.getLsbD 63) (field k.base 51 0 + 64 * (k.head.toNat % 2 ^ k.size.toNat)) 64))

/-- What the words of a command name, before their ranges are checked (R450). The world bit of SET_AS and of BIND_CTX counts as naming a sealed
address space or context (R358), so it is looked at in check 3, before the cases of R365 (log entry 93). -/
def rawNames (b : BitVec 512) : Names :=
  let w1 : W64 := slice b 64 64
  let c : CtxId := ctxWord w1
  let masked := (List.range 4).filterMap fun k => if w1.getLsbD (16 + k) then some (⟨slice w1 0 16, BitVec.ofNat 2 k⟩ : CtxId) else none
  match field b 7 0 with
  | 0x10 =>
    let w5 : W64 := slice b 320 64
    ⟨[slice w1 0 11], if w5.getLsbD 0 then [⟨slice w5 16 16, slice w5 32 2⟩] else [], w1.getLsbD 16⟩
  | 0x11 => ⟨[slice w1 0 11], [], false⟩
  | 0x12 | 0x13 => ⟨[slice w1 16 11], [], false⟩
  | 0x14 => ⟨[slice w1 18 11], [], w1.getLsbD 30⟩
  | 0x15 | 0x16 => ⟨[], [c], false⟩
  | 0x18 | 0x19 => ⟨[], masked, false⟩
  | _ => Names.none

/-- What a command reads or writes in device memory by address: its status word (R357), the value of a WAIT_VALUE or SIGNAL (R360, R361), a descriptor
(R363), a template (R364), a binding block and an initial image (R365), and images (R371). -/
def Instr.rawSpans : Instr → List (Nat × Nat)
  | .waitValue _ a => if a.host then [] else [(a.addr.toNat, 8)]
  | .signalWrite _ a | .signalAdd _ a | .signalOr _ a => if a.host then [] else [(a.addr.toNat, 8)]
  | .setAs _ a => [(a.desc.toNat, 128)]
  | .placeTpl _ a => [(a.image.toNat, 2 ^ 20)]
  | .bindCtx _ a => (a.block.toNat, 64) :: if a.image = 0 then [] else [(a.image.toNat, 0x238000)]
  | .saveCtx _ a => [(a.base.toNat, 4 * 0x238000)]
  | .restoreCtx _ a => if a.base = 0 then [] else [(a.base.toNat, 4 * 0x238000)]
  | _ => []

/-- Whether n bytes from a device address touch a channel in handover (R451). -/
def State.spanHeld (s : State) (a n : Nat) : Bool := s.handover (.dev a) || s.handover (.dev (a + n - 1))

/-- Whether a handover holds the command at the head of a stream: the command itself, or what it names, lies in the channel (R451; log entry 88). -/
def State.commandHeld (s : State) (k : Stream) : Bool :=
  let b := s.commandAt k
  let done : W64 := slice b 384 64
  (!k.base.getLsbD 63 && s.spanHeld (field k.base 51 0 + 64 * (k.head.toNat % 2 ^ k.size.toNat)) 64) ||
    (!done.getLsbD 63 && s.spanHeld (field done 51 0) 8) || (match decodeCommand b with
      | .ok c => (Instr.rawSpans c).any fun x => s.spanHeld x.1 x.2
      | .error _ => false)

/-- A stream starts its next command (R356): HEAD advances, the tag shows in STATUS, and the command is read once. A bad completion address
rejects it without a status word; a field out of range rejects it (R357, R450). One that a handover holds starts when that has ended (R451). -/
def startCommand (run : Instr → State → Out) (i : StreamId) (s : State) : Out :=
  match s.nextStart i with
  | none => .next s
  | some j =>
    if s.commandHeld (s.stream j) then .next s
    else
      let b := s.commandAt (s.stream j)
      let h : CmdHdr := ⟨slice b 16 16, slice b 384 64⟩
      let op := field b 7 0
      let s1 : State := { (s.onStream j fun k => { k with head := k.head + 1, running := true, curTag := h.tag, progressAt := s.chip }) with curStream := j }
      match decodeCommand b with
      | .error .address => .next (s1.complete j { h with done := 0 } op 1 0)
      | .error .rejected => .next (s1.complete j h op ((s1.refuses j op (rawNames b)).getD 1) 0)
      | .ok c => run c s1

/-! ### NOP, LAUNCH (R359) -/

def execNop (h : CmdHdr) (s : State) : Out := command 0x00 h Names.none (fun i s => s.answer i h 0x00 [] id 0) s

/-- A template placed in a slot. -/
def State.template (s : State) (die : Bool) (slot : BitVec 6) : Option Template := SMap.get none (s.lathe die).templates slot.toNat

/-- Whether some placement core of a template has no context bound to a stream with an ASID. -/
def State.noContext (s : State) (i : StreamId) (asid : BitVec 11) (img : List Byte) : Bool :=
  (List.range (tplNodes img)).any fun n =>
    let d := tplNode img n
    (List.range d.placeN).any fun k => !(s.boundTo (tplCore img d k) i).any fun c => decide ((s.ctx c).asid = asid)

/-- The checks of LAUNCH. -/
def State.launchFails (s : State) (i : StreamId) (a : LaunchArgs) : List (Option (Nat × Nat)) :=
  match s.template i.die a.slot with
  | none => [some (1, 0)]
  | some t => [fails (decide (t.asid ≠ a.asid)) 1, fails (s.noContext i a.asid t.image) 3]

/-- Step 0 of a launch, or its next step, opens if it can (R52). -/
def State.openStep (s : State) (die : Bool) (id : Nat) : State :=
  match (s.lathe die).launch id with
  | none => s
  | some l =>
    if s.canOpen l then
      s.onLaunch die id fun l => { l with next := l.next + 1, steps := l.steps ++ [⟨l.next, s.stepRegs l l.next, [], [], []⟩] }
    else s

/-- A launch with its counters, reuse states and STOP clear. -/
def newLaunch (id : Nat) (i : StreamId) (h : CmdHdr) (a : LaunchArgs) : Launch :=
  ⟨id, i, h, a, 0, [], none, false, 0, [], [], 0, false, 0⟩

def execLaunch (h : CmdHdr) (a : LaunchArgs) (s : State) : Out :=
  command 0x01 h Names.none (fun i s =>
    match (s.launchFails i a).findSome? id with
    | some f => s.complete i h 0x01 f.1 f.2
    | none =>
      let f := s.fresh
      ((f.2.onLathe i.die fun l => { l with launches := l.launches ++ [newLaunch f.1 i h a] }).onStream i fun k =>
        { k with busy := some (.launch h f.1) }).openStep i.die f.1) s

/-! ### WAIT_VALUE, SIGNAL, PREEMPT_POINT (R360 to R362) -/

/-- Whether the memory value meets the condition. -/
def State.waitMet (s : State) (a : WaitArgs) : Bool :=
  let n := if a.wide then 8 else 4
  let x := BitVec.ofNat 64 (ofBytes (s.rawBytes a.host a.addr.toNat n)) &&& a.mask
  match a.cond.toNat with
  | 0 => decide (x = a.value)
  | 1 => decide (x ≠ a.value)
  | 2 => decide (a.value.toNat ≤ x.toNat)
  | _ => decide (x.toNat < a.value.toNat)

/-- A read of WAIT_VALUE: it completes, or reads again 256 ns later. -/
def State.waitRead (s : State) (i : StreamId) (h : CmdHdr) (a : WaitArgs) : State :=
  if s.waitMet a then s.complete i h 0x02 0 0 else s.onStream i fun k => { k with busy := some (.wait h a (s.chip + 256)) }

def execWaitValue (h : CmdHdr) (a : WaitArgs) (s : State) : Out := command 0x02 h Names.none (fun i s => s.waitRead i h a) s

/-- A later read of a WAIT_VALUE in progress, once its 256 ns have passed and no handover holds its location (R360, R451); one that a pre-emption has
abandoned reads nothing (R370), and one on a stream that is halted reads nothing either until RESUME_STREAM (log entry 111). -/
def execWaitValuePoll (i : StreamId) (s : State) : Out :=
  .next (match (s.stream i).busy with
    | some (.wait h a t) =>
      if decide (t ≤ s.chip) && (s.stream i).opens && (a.host || !s.spanHeld a.addr.toNat 8) then s.waitRead i h a else s
    | _ => s)

/-- The value at a SIGNAL's location becomes `f` of it and the command's value, in its width; while a handover holds the location the command does not start
(`startCommand`). -/
def State.signalWith (s : State) (a : SignalArgs) (f : Nat → Nat → Nat) : State :=
  let n := if a.wide then 8 else 4
  s.rawStore a.host a.addr.toNat (toBytes n (f (ofBytes (s.rawBytes a.host a.addr.toNat n)) a.value.toNat))

def execSignalWrite (h : CmdHdr) (a : SignalArgs) (s : State) : Out :=
  command 0x03 h Names.none (fun i s => s.answer i h 0x03 [] (fun s => s.signalWith a fun _ v => v) 0) s

def execSignalAdd (h : CmdHdr) (a : SignalArgs) (s : State) : Out :=
  command 0x03 h Names.none (fun i s => s.answer i h 0x03 [] (fun s => s.signalWith a fun x v => x + v) 0) s

def execSignalOr (h : CmdHdr) (a : SignalArgs) (s : State) : Out :=
  command 0x03 h Names.none (fun i s => s.answer i h 0x03 [] (fun s => s.signalWith a fun x v => x ||| v) 0) s

/-! ### The stop of a stream (R370) -/

/-- A PREEMPT ends: the stream is pre-empted, and the command completes with the number of contexts snapshotted. -/
def State.stopStream (s : State) (t : StreamId) (r : PreemptReq) : State :=
  (s.onStream t fun k => { k with preempted := true, preempt := none }).complete r.by_ r.hdr 0x17 0 r.counted.length

/-- Whether a command other than a launch or an abandoned wait is in progress. -/
def Stream.otherCommand (k : Stream) : Bool :=
  match k.busy with
  | some (.preempt _ _) => true
  | _ => false

/-- The contexts bound to a stream that hold a task. -/
def State.taskCtxs (s : State) (i : StreamId) : List CtxId :=
  (s.ctxs.filter fun e => e.2.hasTask && decide (e.2.st ≠ .unbound) && decide (e.2.stream = i.n) && (dieOf (ctxOfKey e.1).core == i.die)).map
    fun e => ctxOfKey e.1

/-- Whether a context still has to be snapshotted: Ready, Running, Stalled, or Blocked. -/
def CtxState.toSnap : CtxState → Bool
  | .ready | .running | .stalled _ => true
  | .blocked b => decide (b ≠ .noTask)
  | _ => false

/-- Whether a context's snapshot can be taken (R58): no `tend` drains, its gap ticks are over unless it is Blocked, its accesses have performed,
and no `mma` or `mmr` of it is in flight. -/
def State.canSnap (s : State) (c : CtxId) : Bool :=
  let x := s.ctx c
  x.st.toSnap && decide (x.st ≠ .blocked .tend) && x.queue.all QAcc.isDone &&
    x.tileBusy.all (fun e => decide (e.2 ≤ (s.core c.core).cycles)) &&
    (match x.st with
      | .blocked _ => true
      | _ => decide (x.gap = 0))

/-- A snapshot goes to the latch bank. -/
def State.snapshot (s : State) (c : CtxId) : State := s.onCtx c fun x => { x with snap := x.st, st := .preempted }

/-- The snapshots that can be taken are taken and counted, a context that a RESTORE_CTX has brought back meanwhile once (R58, R370). -/
def State.takeSnapshots (s : State) (t : StreamId) : State :=
  let cs := (s.taskCtxs t).filter s.canSnap
  (cs.foldl State.snapshot s).onStream t fun k => { k with preempt := k.preempt.map fun r =>
    { r with counted := (r.counted ++ cs.map fun c => (c, (s.ctx c).bid)).eraseDups } }

/-- A stream with a pending PREEMPT stops, if its granularity's condition holds. -/
def State.tryStop (s : State) (t : StreamId) : State :=
  let k := s.stream t
  match k.preempt with
  | none => s
  | some r =>
    if r.gran = 0 then if !k.running && decide (k.head = k.tail) then s.stopStream t r else s
    else if k.otherCommand then s
    else if r.gran = 1 then
      if (match s.streamLaunch t with
        | some l => l.steps.isEmpty
        | none => true) then s.stopStream t r else s
    else if (if r.gran = 2 then (match s.streamLaunch t with
        | some l => s.runsLaunch t.die l.id
        | none => false) else (s.taskCtxs t).any fun c => (s.ctx c).st.toSnap) then s
    else
      (match s.streamLaunch t with
        | some l => s.advanceLaunch t.die l.id
        | none => s).stopStream t r

/-- PREEMPT_POINT completes; a PREEMPT of granularity point that is pending for its stream stops the stream there (R362, R370). -/
def execPreemptPoint (h : CmdHdr) (s : State) : Out :=
  command 0x04 h Names.none (fun i s =>
    let s1 := s.answer i h 0x04 [] id 0
    match (s.stream i).preempt with
    | some r => if r.gran = 0 then s1.stopStream i r else s1
    | none => s1) s

/-- Queued tasks of a stream's launch go back to the Lathe (R57). R54 dispatches no task of a step above the STOP that "has not yet been dispatched",
and lets those already dispatched run to their ends; a returned task has been dispatched, and none is lost: it is dispatched again (log entry 81). -/
def State.requeue (s : State) (i : StreamId) : State :=
  match s.streamLaunch i with
  | none => s
  | some l =>
    let gone := s.cores.flatMap fun e => e.2.tasks.filter fun t => decide (t.launch = l.id) && (dieOf (BitVec.ofNat 16 e.1) == i.die)
    let s1 := { s with cores := s.cores.filterMap fun e =>
      let k := { e.2 with tasks := e.2.tasks.filter fun t => !gone.contains t }
      if k = Core.init then none else some (e.1, k) }
    gone.foldl (fun s t =>
      let key := taskKey (taskNode t.word).toNat (taskInst t.word).toNat
      s.onLaunch i.die l.id fun l => { l with steps := l.steps.map fun x =>
        if x.n = (taskStep t.word).toNat then
          { x with dispatched := SMap.set false x.dispatched key false, requeued := SMap.set false x.requeued key true }
        else x }) s1

/-- PREEMPT of a granularity (R370): at once for a stream already pre-empted; BUSY while another PREEMPT of it is pending (log entry 32). -/
def preemptWith (gran : Nat) (h : CmdHdr) (t : StreamId) (s : State) : Out :=
  command 0x17 h Names.none (fun i s =>
    let k := s.stream t
    if k.preempted then s.complete i h 0x17 0 0
    else if k.preempt.isSome then s.complete i h 0x17 4 0
    else
      let s1 := (s.onStream i fun k => { k with busy := some (.preempt h t) }).onStream t fun k => { k with preempt := some ⟨gran, i, h, []⟩ }
      let s2 := if 2 ≤ gran then s1.requeue t else s1
      let s3 := if gran = 3 then s2.takeSnapshots t else s2
      s3.tryStop t) s

def execPreemptAtPoint (h : CmdHdr) (t : StreamId) (s : State) : Out := preemptWith 0 h t s
def execPreemptStep (h : CmdHdr) (t : StreamId) (s : State) : Out := preemptWith 1 h t s
def execPreemptTask (h : CmdHdr) (t : StreamId) (s : State) : Out := preemptWith 2 h t s
def execPreemptBundle (h : CmdHdr) (t : StreamId) (s : State) : Out := preemptWith 3 h t s

/-- A pending PREEMPT goes on: snapshots are taken, and the stream stops once its condition holds. -/
def execPreemptDone (t : StreamId) (s : State) : Out :=
  .next (match (s.stream t).preempt with
    | some r => (if r.gran = 3 then s.takeSnapshots t else s).tryStop t
    | none => s)

/-- A launch that a loss has ended completes LOST, once no task of it runs (R381). -/
def State.endLost (s : State) (t : StreamId) : State :=
  match s.streamLaunch t with
  | some l => if 0 < l.lost && s.runOver l then s.endLaunch l else s
  | none => s

/-- Whether a loss has ended a stream's launch and tasks of it still run. -/
def State.losing (s : State) (t : StreamId) : Bool :=
  match s.streamLaunch t with
  | some l => decide (0 < l.lost)
  | none => false

/-- RESUME_STREAM (R372): a launch that remains needs its contexts; an abandoned WAIT_VALUE starts again. While tasks of a lost launch still run
the stream is not yet one that the command accepts: a halted stream has no launch left (log entry 85). -/
def execResumeStream (h : CmdHdr) (t : StreamId) (s : State) : Out :=
  command 0x1A h Names.none (fun i s0 =>
    let s := s0.endLost t
    let k := s.stream t
    let lacks := match s.streamLaunch t with
      | some l => s.noContext t l.args.asid (s.imageOf l)
      | none => false
    s.answer i h 0x1A [fails ((!k.preempted && !k.halted) || s.losing t) 4, fails lacks 3]
      (fun s => s.onStream t fun k =>
        { k with preempted := false, halted := false, busy := match k.busy with
            | some (.wait h a _) => some (.wait h a s.chip)
            | b => b }) 0) s

/-! ### Address spaces (R363, R382, R383, R427) -/

/-- Whether the words of a descriptor keep R382. -/
def descOk (ws : List W64) : Bool :=
  let w (k : Nat) : W64 := ws.getD k 0
  let low (k : Nat) : Nat := field (w k) 51 0
  ((List.range 11).all fun k => decide (field (w k) 63 52 = 0)) && ((List.range 5).all fun k => decide (w (11 + k) = 0)) &&
    decide (low 0 % 64 = 0) && decide (1 ≤ low 1) && decide (low 1 ≤ 65536) && decide (low 2 % 128 = 0) && decide (low 3 % 128 = 0) &&
    decide (low 4 % 64 = 0) && decide (low 5 % 512 = 0) && decide (low 6 % 64 = 0) && decide (low 7 < 2 ^ 32) && decide (low 8 % 4096 = 0) &&
    decide (low 9 % 4096 = 0) && decide (low 9 ≤ 2 ^ 48) && decide (low 10 % 256 = 0)

/-- Whether an ASID is in use: a bound context, a placed template or a launch has it. -/
def State.asidBusy (s : State) (asid : BitVec 11) : Bool :=
  (s.ctxs.any fun e => decide (e.2.st ≠ .unbound) && decide (e.2.asid = asid)) ||
    [s.lathe0, s.lathe1].any fun l =>
      (l.templates.any fun e => match e.2 with
        | some t => decide (t.asid = asid)
        | none => false) || l.launches.any fun k => decide (k.args.asid = asid)

/-- SET_AS: the descriptor is read once. -/
def execSetAs (h : CmdHdr) (a : SetAsArgs) (s : State) : Out :=
  command 0x10 h ⟨[a.asid], if a.ring then [⟨a.core, a.slot⟩] else [], a.world⟩ (fun i s =>
    let ws := s.rawWords false a.desc.toNat 16
    s.answer i h 0x10 [fails (s.asidBusy a.asid) 4, fails (s.space a.asid).isSome 1, fails (!descOk ws) 1]
      (fun s => { s with spaces := SMap.set none s.spaces a.asid.toNat (some ⟨a, ws, 0, 0, []⟩) }) 0) s

def execClearAs (h : CmdHdr) (asid : BitVec 11) (s : State) : Out :=
  command 0x11 h ⟨[asid], [], false⟩ (fun i s =>
    s.answer i h 0x11 [fails (s.asidBusy asid) 4, fails (s.space asid).isNone 1]
      (fun s => { s with spaces := SMap.set none s.spaces asid.toNat none }) 0) s

/-! ### Templates (R48, R364) -/

/-- Whether a launch that is running or pre-empted uses a template slot. -/
def State.slotUsed (s : State) (die : Bool) (slot : BitVec 6) : Bool := (s.lathe die).launches.any fun l => decide (l.args.slot = slot)

/-- The image that PLACE_TPL copies: as many bytes as its header says, within 64 bytes and 1 MiB. -/
def State.imageAt (s : State) (a : Nat) : List Byte :=
  s.rawBytes false a (min (max (field (s.rawWord false (a + 40)) 31 0) 64) (2 ^ 20))

def execPlaceTpl (h : CmdHdr) (a : TplArgs) (s : State) : Out :=
  command 0x12 h ⟨[a.asid], [], false⟩ (fun i s =>
    let img := s.imageAt a.image.toNat
    s.answer i h 0x12
      [(templateError s a.die img).map fun o => (2, o), fails (s.slotUsed a.die a.slot) 4, fails (s.space a.asid).isNone 1]
      (fun s => s.onLathe a.die fun l => { l with templates := SMap.set none l.templates a.slot.toNat (some ⟨a.asid, img⟩) }) 0) s

def execDropTpl (h : CmdHdr) (a : TplArgs) (s : State) : Out :=
  command 0x13 h ⟨[a.asid], [], false⟩ (fun i s =>
    let mine := match s.template a.die a.slot with
      | some t => decide (t.asid = a.asid)
      | none => false
    s.answer i h 0x13 [fails (s.slotUsed a.die a.slot) 4, fails (s.space a.asid).isNone 1, fails (!mine) 1]
      (fun s => s.onLathe a.die fun l => { l with templates := SMap.set none l.templates a.slot.toNat none }) 0) s

end Sys2Proof.Machine
end

