-- ==== Sys2Proof/Machine/Bind.lean ====
section
/-! DEFINITION. Machine/Bind.lean: binding, unbinding and resuming contexts (R365, R366), and saving and restoring them (R58, R59, R371). -/

namespace Sys2Proof.Machine

/-! ### The binding block (R322, R344, R365) -/

/-- The specification of ring n, and of window n. -/
def State.ringSpec (s : State) (block n : Nat) : Nat := ofBytes (s.rawBytes false (block + 2 * n) 2)
def State.winSpec (s : State) (block n : Nat) : Nat := ofBytes (s.rawBytes false (block + 32 + 2 * n) 2)

/-- Whether another context of the core, bound with the ASID, can be a source. -/
def State.sourceOk (s : State) (a : BindArgs) (slot : Nat) : Bool :=
  let x := s.ctx ⟨a.ctx.core, BitVec.ofNat 2 slot⟩
  decide (slot ≠ a.ctx.slot.toNat) && decide (x.st ≠ .unbound) && decide (x.asid = a.asid)

/-- Whether a ring specification is legal: [3:0] j, [4] bound, [5] shared, [7:6] source slot, [11:8] source ring. -/
def State.ringSpecOk (s : State) (a : BindArgs) (v : Nat) : Bool :=
  let bound := v.testBit 4
  let shared := v.testBit 5
  let src := v / 64 % 4
  if !bound then decide (v = 0)
  else if 4096 ≤ v then false
  else if shared then s.sourceOk a src && decide ((s.ctx ⟨a.ctx.core, BitVec.ofNat 2 src⟩).ringId (v / 256 % 16) ≠ 0)
  else decide (v % 16 ≤ 8)

/-- Whether a window specification is legal: [0] shared, [2:1] source slot, [6:4] source window. -/
def State.winSpecOk (s : State) (a : BindArgs) (v : Nat) : Bool :=
  if v.testBit 0 then decide (v < 128) && !v.testBit 3 && s.sourceOk a (v / 2 % 4) else decide (v = 0)

/-- Whether the binding block is legal. -/
def State.blockOk (s : State) (a : BindArgs) : Bool :=
  let b := a.block.toNat
  ((List.range 16).all fun n => s.ringSpecOk a (s.ringSpec b n)) && ((List.range 8).all fun n => s.winSpecOk a (s.winSpec b n)) &&
    (s.rawBytes false (b + 48) 16).all fun x => decide (x = 0)

/-- Ring n is bound: to a new ring with every slot FREE, or to the source's. -/
def State.bindRing (s : State) (a : BindArgs) (n : Nat) : State :=
  let v := s.ringSpec a.block.toNat n
  if !v.testBit 4 then s
  else if v.testBit 5 then
    let src := v / 64 % 4
    let id := (s.ctx ⟨a.ctx.core, BitVec.ofNat 2 src⟩).ringId (v / 256 % 16)
    s.onCtx a.ctx fun x => { x with
      ringLink := SMap.set 0 x.ringLink n id
      ringSrc := SMap.set 0 x.ringSrc n (1 + 16 * src + v / 256 % 16) }
  else
    let f := s.fresh
    (f.2.onRing f.1 fun _ => { Ring.init with j := v % 16 }).onCtx a.ctx fun x => { x with ringLink := SMap.set 0 x.ringLink n f.1 }

/-- Window n of a context names an object from now on, a fresh unbound one if it named none. -/
def State.linkWindow (s : State) (c : CtxId) (n : Nat) : Nat × State :=
  let id := SMap.get 0 (s.ctx c).winLink n
  if id ≠ 0 then (id, s)
  else
    let f := s.fresh
    (f.1, f.2.onCtx c fun x => { x with winLink := SMap.set 0 x.winLink n f.1 })

/-- Window n is linked to its source's window object, where it is shared. -/
def State.bindWindow (s : State) (a : BindArgs) (n : Nat) : State :=
  let v := s.winSpec a.block.toNat n
  if !v.testBit 0 then s
  else
    let src := v / 2 % 4
    let l := s.linkWindow ⟨a.ctx.core, BitVec.ofNat 2 src⟩ (v / 16 % 8)
    l.2.onCtx a.ctx fun x => { x with
      winLink := SMap.set 0 x.winLink n l.1
      winSrc := SMap.set 0 x.winSrc n (1 + 8 * src + v / 16 % 8) }

/-! ### BIND_CTX (R365, R419) -/

/-- The world of a core's cluster or stack (R419, R420). -/
def State.coreWorld (s : State) (core : BitVec 16) : Bool := s.worldmap.getLsbD (groupOf core)

/-- Whether world or privilege forbids a binding. -/
def State.bindForbidden (s : State) (i : StreamId) (a : BindArgs) : Bool :=
  let k := s.stream i
  let w := s.stream ⟨dieOf a.ctx.core, a.stream⟩
  (a.priv && !(k.priv && w.priv)) || (a.world && !(k.world && w.world)) || (a.world != s.coreWorld a.ctx.core)

/-- A newly bound context: Blocked with no task, with the initial image's registers. -/
def State.boundCtx (s : State) (a : BindArgs) : Ctx :=
  { Ctx.init with
    st := .blocked .noTask, asid := a.asid, priv := a.priv, world := a.world, stream := a.stream, prio := a.prio
    mono := SMap.get 0 (s.core a.ctx.core).left a.ctx.slot.toNat
    regs := if a.image = 0 then RegSet.zero else s.loadRegs a.ctx.core a.image.toNat RegSet.zero }

def execBindCtx (h : CmdHdr) (a : BindArgs) (s : State) : Out :=
  command 0x14 h ⟨[a.asid], [], a.world⟩ (fun i s =>
    s.answer i h 0x14
      [ fails (decide ((s.ctx a.ctx).st ≠ .unbound)) 4
      , fails (!s.corePresent a.ctx.core || (s.space a.asid).isNone || !s.blockOk a) 1
      , fails (s.bindForbidden i a) 6 ]
      (fun s =>
        let f := s.fresh
        let s1 := f.2.setCtx a.ctx { f.2.boundCtx a with bid := f.1 }
        (List.range 8).foldl (fun s n => s.bindWindow a n) ((List.range 16).foldl (fun s n => s.bindRing a n) s1)) 0) s

/-! ### UNBIND_CTX, RESUME_CTX (R320, R366) -/

/-- Whether a context can be unbound. -/
def CtxState.unbinds : CtxState → Bool
  | .suspended | .lost => true
  | .blocked b => decide (b = .noTask)
  | _ => false

/-- Drops the stopped engine commands of a context (R320, R366); a collective of a lost context is on its way to FAILED (R381). -/
def State.dropStopped (s : State) (c : CtxId) : State :=
  { s with cmds := s.cmds.filter fun k => !(k.of c (s.ctx c).bid && decide (k.st = .stopped) && (match k.job with
      | .coll _ => false
      | _ => true)) }

/-- A context leaves its slot. -/
def State.vacate (s : State) (c : CtxId) : State :=
  (s.onCore c.core fun k => { k with left := SMap.set 0 k.left c.slot.toNat (s.ctx c).mono }).setCtx c Ctx.init

def execUnbindCtx (h : CmdHdr) (c : CtxId) (s : State) : Out :=
  command 0x15 h ⟨[], [c], false⟩ (fun i s =>
    s.answer i h 0x15 [fails (!s.corePresent c.core) 1, fails (!(s.ctx c).st.unbinds) 4]
      (fun s => (((s.leave c (s.ctx c).seq).leaveWrites c).dropStopped c).vacate c) 0) s

/-- RESUME_CTX of either kind. -/
def resumeWith (retry : Bool) (h : CmdHdr) (c : CtxId) (s : State) : Out :=
  command 0x16 h ⟨[], [c], false⟩ (fun i s =>
    s.answer i h 0x16 [fails (!s.corePresent c.core) 1, fails (decide ((s.ctx c).st ≠ .suspended)) 4]
      (fun s => (s.returnFrom c retry).guardReady c) 0) s

def execResumeCtx (h : CmdHdr) (c : CtxId) (s : State) : Out := resumeWith false h c s
def execResumeCtxRetry (h : CmdHdr) (c : CtxId) (s : State) : Out := resumeWith true h c s

/-! ### SAVE_CTX (R371) -/

/-- The contexts of a slot mask, lowest first. -/
def maskCtxs (a : ImageArgs) : List CtxId :=
  (List.range 4).filterMap fun k => if a.mask.getLsbD k then some ⟨a.core, BitVec.ofNat 2 k⟩ else none

/-- The contexts of the mask with their image addresses. -/
def maskImages (a : ImageArgs) : List (CtxId × Nat) := (maskCtxs a).zipIdx.map fun e => (e.1, a.base.toNat + imageSize * e.2)

/-- Whether two contexts share a ring or a window. -/
def Ctx.shares (x y : Ctx) : Bool :=
  (x.ringLink.any fun e => y.ringLink.any fun f => decide (e.2 = f.2)) || x.winLink.any fun e => y.winLink.any fun f => decide (e.2 = f.2)

/-- Whether a ring or window of a masked context has a sharer outside the mask. -/
def State.sharedOutside (s : State) (a : ImageArgs) : Bool :=
  let out := (ctxsOf a.core).filter fun c => !(maskCtxs a).contains c
  (maskCtxs a).any fun c => out.any fun o => (s.ctx c).shares (s.ctx o)

/-- The shadow as it stands once the ticks up to its own have passed. While the context is still at its mark, what it waits for can yet change
that. -/
def State.settleShadow (s : State) (c : CtxId) : State :=
  let x := s.ctx c
  if x.atMark then s
  else
    let y := ((s.setCtx c { x with regs := x.shadow.orderDue }).govern c).ctx c
    s.setCtx c { x with shadow := y.landDue.regs }

/-- A context's image is written and its slot vacated. Its core-store writes that wait for their ticks are visible to the others from now on, and
land for the context itself when it reaches those ticks again (R163, R263); what its commands fork from has happened. -/
def State.saveOne (s : State) (c : CtxId) (base : Nat) : State :=
  let s1 := ((s.publish c (s.ctx c).seq).onCtx c fun x => { x with gate := x.gate.filter fun e => !e.gone }).settleShadow c
  let x := s1.ctx c
  ({ s1.rawStore false base (s1.contextImage c) with
    cmds := s1.cmds.map fun (k : Cmd) => if k.of c x.bid then { k with after := 0 } else k
    saved := ⟨c, x, base, s1.links.moved, (s1.core c.core).cycles⟩ :: s1.saved } : State).vacate c

def execSaveCtx (h : CmdHdr) (a : ImageArgs) (s : State) : Out :=
  command 0x18 h ⟨[], (maskCtxs a), false⟩ (fun i s =>
    s.answer i h 0x18
      [ fails (!s.corePresent a.core) 1, fails (!(maskCtxs a).all fun c => decide ((s.ctx c).st = .preempted)) 4, fails (s.sharedOutside a) 5 ]
      (fun s => (maskImages a).foldl (fun s e => s.saveOne e.1 e.2) s) 0) s

/-! ### RESTORE_CTX (R58, R59, R299, R306, R371) -/

/-- A context returns to the state of its snapshot: Ready ones meet the refresh guard, and a wait at a barrier whose phase has ended is over. -/
def State.resumeSnap (s : State) (c : CtxId) : State :=
  let x := s.ctx c
  match x.snap with
  | .ready | .running => (s.onCtx c fun x => { x with st := .ready }).guardReady c
  | .blocked (.bar k p) =>
    if (s.barrier k).any fun g => decide (g.id = p) then s.onCtx c fun x => { x with st := x.snap } else s.wake c
  | _ => s.onCtx c fun x => { x with st := x.snap }

/-- The ASID of an image's header. -/
def State.imgAsid (s : State) (base : Nat) : BitVec 11 := slice (s.hdrWord base 0) 34 11

/-- The saved context that an image belongs to: the one whose header the image has, or else the last one saved there. -/
def State.savedOf (s : State) (c : CtxId) (base : Nat) : Option Saved :=
  let ws := (List.range 128).map (s.hdrWord base)
  let l := s.saved.filter fun v => decide (v.ctx = c)
  ((l.filter fun v => decide (v.base = base)) ++ l).find? (fun v => decide (headerWords c v.x v.x.regs = ws)) |>.or
    (l.find? fun v => decide (v.base = base) && decide (v.x.asid = s.imgAsid base))

/-- The checks of an image's header. -/
def State.headerOk (s : State) (c : CtxId) (base : Nat) : Bool :=
  let w := s.hdrWord base 0
  decide (field w 15 0 = 1) && decide (slice w 16 16 = c.core) && decide (slice w 32 2 = c.slot) && (s.space (s.imgAsid base)).isSome &&
    decide (field w 49 47 ≤ 3)

/-- Whether an image shares a ring or window with a slot outside the mask, or with a context saved in another image. -/
def State.imageShares (s : State) (a : ImageArgs) (c : CtxId) (base : Nat) : Bool :=
  let mine := (maskImages a).filterMap fun e => s.savedOf e.1 e.2
  (match s.savedOf c base with
    | some v => s.saved.any fun w => decide (w.ctx.core = c.core) && !mine.contains w && v.x.shares w.x
    | none => false) ||
  ((List.range 16).any fun n => let w := s.ringWord base n; w.getLsbD 0 && w.getLsbD 1 && !a.mask.getLsbD (field w 3 2)) ||
    (List.range 8).any fun n => let w := s.winWord base n; w.getLsbD 1 && !a.mask.getLsbD (field w 3 2)

/-- The group of a barrier at which a context of an image waits: one of its ASID, of the core's barrier of that number or else of its cluster's. -/
def State.imageBar (s : State) (core : BitVec 16) (asid : BitVec 11) (id : Nat) : Option Block :=
  [barKey core false id, barKey core true id].findSome? fun k =>
    ((s.barrier k).find? fun g => decide (g.asid = asid)).map fun g => .bar k g.id

/-- The state that an image's header gives. -/
def State.imageState (s : State) (core : BitVec 16) (base : Nat) : CtxState :=
  let w := s.hdrWord base 12
  match field (s.hdrWord base 0) 49 47 with
  | 3 => .suspended
  | 1 => match field w 2 0 with
    | 1 => .blocked (.awaitf (field w 11 8) 0)
    | 2 => .blocked (.waitr (slice w 16 5) 128 (field (s.hdrWord base 2) 31 0))
    | 3 => match s.imageBar core (s.imgAsid base) (field w 11 8) with
      | some b => .blocked b
      | none => .ready
    | 4 => .blocked (.wtime (s.hdrWord base 13).toNat)
    | 5 => .blocked (.rels (field w 11 8))
    | _ => .ready
  | _ => .ready

/-- The state held at the snapshot: that of the header, with what the header has no field for from the saved state where the two agree. -/
def CtxState.refine (code : Nat) (img old : CtxState) : CtxState :=
  if code ≠ old.imageCode then img
  else match img, old with
    | .blocked (.waitr m n b), .blocked (.waitr k _ c) => .blocked (.waitr m n (if m = k then c else b))
    | .blocked (.wtime d), .blocked (.wtime e) => .blocked (.wtime (wider 64 e d))
    | .blocked (.bar k p), .blocked (.bar j q) => .blocked (if j % 16 = k % 16 then .bar j q else .bar k p)
    | .ready, .blocked (.bar j q) => .blocked (.bar j q)
    | .ready, .stalled w => .stalled w
    | i, _ => i

/-- The stream that a launch of the image's template and ASID runs on, for an image that no saved context belongs to (log entry 31). -/
def State.streamFor (s : State) (core : BitVec 16) (asid : BitVec 11) (task : BitVec 128) : BitVec 6 :=
  match (s.lathe (dieOf core)).launches.find? fun l => decide (l.args.asid = asid) && decide (l.args.slot = slice task 0 6) with
  | some l => l.stream.n
  | none => 0

/-- The ASID of the context that an image restores. Where the header's own sector cannot be read, it is the saved context's (log entry 78). -/
def State.restoreAsid (s : State) (c : CtxId) (base : Nat) : BitVec 11 :=
  if s.headerBad base then
    match s.saved.find? fun v => decide (v.ctx = c) && decide (v.base = base) with
    | some v => v.x.asid
    | none => s.imgAsid base
  else s.imgAsid base

/-- The accesses of the variable results of a landing queue, those of the saved context in their places. -/
def restoredQueue (l : List Landing) (old : List (Option QAcc)) : List QAcc :=
  l.zipIdx.filterMap fun e => e.1.restored ((old[e.2]?).join)

/-- The context of an image, without its rings and windows. A yield has run off in the cycles of its core that have passed since SAVE_CTX (R304). Of an
image that cannot be read the words are taken as they stand: words 4 and 5 of its RESTORE_POISON record hold them (R59; log entry 78). -/
def State.loadCtx (s : State) (c : CtxId) (base : Nat) : Ctx :=
  let asid := s.restoreAsid c base
  let task : BitVec 128 := s.hdrWord base 15 ++ s.hdrWord base 14
  let img := s.imageState c.core base
  let moved := ((s.savedOf c base).map fun v => s.links.moved - v.moved).getD 0
  let passed := ((s.savedOf c base).map fun v => (s.core c.core).cycles - v.cycles).getD 0
  let old := ((s.savedOf c base).map (·.x)).getD { Ctx.init with
    stream := s.streamFor c.core asid task
    launch := match (s.lathe (dieOf c.core)).launches.find? fun l => decide (l.args.asid = asid) && decide (l.args.slot = slice task 0 6) with
      | some l => l.id
      | none => 0
    snap := img }
  let now := (s.hdrWord base 1).toNat
  let awaiting := decide (field (s.hdrWord base 12) 2 0 = 1)
  let atMark := decide (now ≤ (s.hdrWord (base + regSetSize) 1).toNat)
  let regs := s.loadSet c.core base 0 awaiting now old.regs
  let shadow := s.loadSet c.core (base + regSetSize) 64 (awaiting && atMark) now old.shadow
  let w0 := s.hdrWord base 0
  let w6 := s.hdrWord base 6
  { old with
    st := .preempted, snap := (img.refine (field (s.hdrWord base 0) 49 47) old.snap).shift moved, asid := asid, priv := w0.getLsbD 45, world := w0.getLsbD 46
    prio := slice w6 8 2, vbank := slice w6 16 8, fpstat := slice w6 32 6
    regs := regs, shadow := shadow, lp := SMap.ofFn 0 16 fun k => s.hdrWord base (56 + k)
    gate := s.loadGate (groupOf c.core) base regs.h old.gate
    queue := restoredQueue regs.landing (old.regs.landing.map old.accessOf) ++ restoredQueue shadow.landing (old.shadow.landing.map old.accessOf)
    mono := max old.mono (SMap.get 0 (s.core c.core).left c.slot.toNat)
    seq := 128, markSeq := 128, fences := [], early := none, tileBusy := [], repower := [], task := task, hasTask := true
    ringLink := [], winLink := [], ringSrc := [], winSrc := [], passed := 0, yieldLeft := old.yieldLeft - passed, wanted := 0, probed := false }

/-- A context whose rings and windows are being restored: its image, and the saved context that it belongs to. -/
structure Restored where
  ctx : CtxId
  base : Nat
  old : Option Ctx
deriving DecidableEq, Repr

/-- The source of ring n, or of window n, of an image, as `ringSrc` and `winSrc` hold it. -/
def State.ringSource (s : State) (base n : Nat) : Nat :=
  let w := s.ringWord base n
  if w.getLsbD 1 then 1 + 16 * field w 3 2 + field w 7 4 else 0
def State.winSource (s : State) (base n : Nat) : Nat :=
  let w := s.winWord base n
  if w.getLsbD 1 then 1 + 8 * field w 3 2 + field w 6 4 else 0

/-- Links ring n, and window n. -/
def State.linkRing (s : State) (r : Restored) (n id : Nat) : State :=
  s.onCtx r.ctx fun x => { x with ringLink := SMap.set 0 x.ringLink n id, ringSrc := SMap.set 0 x.ringSrc n (s.ringSource r.base n) }
def State.linkWin (s : State) (r : Restored) (n id : Nat) : State :=
  s.onCtx r.ctx fun x => { x with winLink := SMap.set 0 x.winLink n id, winSrc := SMap.set 0 x.winSrc n (s.winSource r.base n) }

/-- The first links: to the object that a saved context had, or, unless it is shared, to one that the image holds. -/
def State.restoreOwn (s : State) (r : Restored) : State :=
  let s1 := (List.range 16).foldl (fun s n =>
    if !(s.ringWord r.base n).getLsbD 0 then s
    else match r.old with
      | some x => s.linkRing r n (x.ringId n)
      | none => if s.ringSource r.base n ≠ 0 then s
        else let f := s.fresh; (f.2.onRing f.1 fun _ => s.loadRing r.base n).linkRing r n f.1) s
  (List.range 8).foldl (fun s n =>
    let w := s.winWord r.base n
    match r.old with
      | some x => s.linkWin r n (SMap.get 0 x.winLink n)
      | none => if !w.getLsbD 0 && !w.getLsbD 1 then s
        else if s.winSource r.base n ≠ 0 then s
        else let f := s.fresh; (f.2.onWindow f.1 fun _ => s.loadWindow (s.imgAsid r.base) r.base n).linkWin r n f.1) s1

/-- Shared rings and windows that are not linked yet take their source's objects; with `make`, a source without one gets that of the image. -/
def State.restoreShared (make : Bool) (s : State) (r : Restored) : State :=
  let from_ (src b : Nat) : CtxId := ⟨r.ctx.core, BitVec.ofNat 2 ((src - 1) / 2 ^ b)⟩
  let s1 := (List.range 16).foldl (fun s n =>
    let src := s.ringSource r.base n
    if src = 0 || (s.ctx r.ctx).ringId n ≠ 0 then s
    else
      let id := (s.ctx (from_ src 4)).ringId ((src - 1) % 16)
      if id ≠ 0 then s.linkRing r n id
      else if make then let f := s.fresh; (f.2.onRing f.1 fun _ => s.loadRing r.base n).linkRing r n f.1
      else s) s
  (List.range 8).foldl (fun s n =>
    let src := s.winSource r.base n
    if src = 0 || SMap.get 0 (s.ctx r.ctx).winLink n ≠ 0 then s
    else
      let id := SMap.get 0 (s.ctx (from_ src 3)).winLink ((src - 1) % 8)
      if id ≠ 0 then s.linkWin r n id
      else if make then let l := s.linkWindow (from_ src 3) ((src - 1) % 8); l.2.linkWin r n l.1
      else s) s1

/-- The contexts of a list of images, each before its slot holds one. -/
def State.toRestore (s : State) (l : List (CtxId × Nat)) : List Restored :=
  (l.filter fun e => !s.imageBad e.2).map fun e => ⟨e.1, e.2, (s.savedOf e.1 e.2).map (·.x)⟩

/-- A slot takes the context of an image, Pre-empted as yet, under the binding that it was saved with; one whose image cannot be read becomes Lost
with RESTORE_POISON (R59, R371, R380). -/
def State.placeImage (s : State) (c : CtxId) (base : Nat) : State :=
  let v := s.savedOf c base
  let x := s.loadCtx c base
  let f := if v.isSome then (x.bid, s) else s.fresh
  let s1 := f.2.setCtx c { x with bid := f.1 }
  let s2 : State := { s1 with saved := s.saved.filter fun w => decide (some w ≠ v) }
  if s.imageBad base then (s2.noteReads ((List.range (imageSize / 32)).map fun k => .dev (base + 32 * k))).lose c 33 0xFFFFFFFF 0 none else s2

/-- The contexts of a list of images are restored: their state, their rings and windows, and then each goes on from its snapshot. -/
def State.restoreAll (s : State) (l : List (CtxId × Nat)) : State :=
  let rs := s.toRestore l
  let s1 := l.foldl (fun s e => s.placeImage e.1 e.2) s
  let s2 := rs.foldl State.restoreOwn s1
  let s3 := [false, false, false, true].foldl (fun s m => rs.foldl (State.restoreShared m) s) s2
  rs.foldl (fun s r => s.resumeSnap r.ctx) s3

/-- Whether an image names a sealed context or ASID (log entry 33). -/
def State.imageSealed (s : State) (base : Nat) : Bool := (s.hdrWord base 0).getLsbD 46 || s.sealedAsid (s.imgAsid base)

/-- RESTORE_CTX: with base 0 the contexts of the latch bank, else those of the images. -/
def execRestoreCtx (h : CmdHdr) (a : ImageArgs) (s : State) : Out :=
  command 0x19 h ⟨[], (maskCtxs a), decide (a.base ≠ 0) && (maskImages a).any fun e => s.imageSealed e.2⟩ (fun i s =>
    if a.base = 0 then
      s.answer i h 0x19
        [fails (!s.corePresent a.core) 1, fails (!(maskCtxs a).all fun c => decide ((s.ctx c).st = .preempted)) 4, fails (s.sharedOutside a) 5]
        (fun s => (maskCtxs a).foldl State.resumeSnap s) 0
    else
      s.answer i h 0x19
        [ fails (!s.corePresent a.core) 1, fails (!(maskCtxs a).all fun c => decide ((s.ctx c).st = .unbound)) 4
        , fails (!(maskImages a).all fun e => s.headerBad e.2 || s.headerOk e.1 e.2) 1
        , fails ((maskImages a).any fun e => !s.imageBad e.2 && s.imageShares a e.1 e.2) 5 ]
        (fun s => s.restoreAll (maskImages a)) 0) s

end Sys2Proof.Machine
end

