-- ==== Sys2Proof/Machine/EngineEvents.lean ====
section
/-! DEFINITION. Machine/EngineEvents.lean: what the engines do after a command is accepted: chunks of copies and their re-probe (R276, R320),
window rows (R146, R277, R279), deck blocks (R150, R280, R281, R404) and signals (R286). -/

namespace Sys2Proof.Machine

/-! ### Copies (R275, R276, R320) -/

/-- What an open chunk has yet to write. -/
def CopyJob.pending (j : CopyJob) (c : Nat) : Option (List PendWrite) := (j.opened.find? fun e => decide (e.chunk = c)).map (·.left)

/-- The sectors that a chunk reads and those that it writes. -/
def State.chunkSectors (s : State) (r : Reach) (j : CopyJob) (c : Nat) : List Loc × List Loc :=
  let ws := s.chunkWrites r j c
  let reads := if j.kind = 0 then ws.flatMap fun w => w.pieces.filterMap fun p => p.src.map (·.sec)
    else (j.chunkElems c).flatMap fun x => (s.sourceUnits r j x).map (·.sec)
  (reads.eraseDups, ws.map (·.loc))

/-- Whether chunk c may be read before an earlier one without a mark is written: neither touches what the other writes (R276). -/
def State.apart (s : State) (r : Reach) (j : CopyJob) (c e : Nat) : Bool :=
  let a := s.chunkSectors r j c
  let b := s.chunkSectors r j e
  !(b.2.any fun l => a.1.contains l || a.2.contains l) && !(b.1.any fun l => a.2.contains l)

/-- Whether chunk c may progress now: it is open, or may be read before every earlier chunk without a mark. -/
def State.canOpenChunk (s : State) (r : Reach) (j : CopyJob) (c : Nat) : Bool :=
  let f := firstUnmarked j.marked j.chunks
  decide (c = f) || (!SMap.get false j.marked c &&
    ((j.pending c).isSome || (((List.range (c - f)).map (f + ·)).filter fun e => !SMap.get false j.marked e).all fun e => s.apart r j c e))

/-- The chunk that progresses: a free choice among those from the first without a mark to the 127th after it (R276, R319, R380; log entry 8). -/
def State.copyTurn (s : State) (r : Reach) (j : CopyJob) : Nat × State :=
  let f := firstUnmarked j.marked j.chunks
  let p := s.pick (List.range (min 128 (j.chunks - f)))
  let c := f + p.1.getD 0
  (if s.canOpenChunk r j c then c else f, p.2)

/-- Whether a chunk must wait: for a `dpset` (R197), or for a handover on a channel that it touches (R451). -/
def State.chunkHeld (s : State) (k : Cmd) (j : CopyJob) (c : Nat) : Bool :=
  let deck := (decide (j.src.space = 1) || decide (j.dst.space = 1)) && s.deckHeld (groupOf k.ctx.core) j.part
  deck || match j.pending c with
    | some ws => ws.any fun w => s.handover w.loc.place
    | none => let q := s.chunkSectors k.reach j c; (q.1 ++ q.2).any fun l => s.handover l.place

/-- Whether a chunk touches a channel that is leased since a handover ended (R398, R451; log entry 88). -/
def State.chunkLeased (s : State) (k : Cmd) (j : CopyJob) (c : Nat) : Bool :=
  match j.pending c with
  | some ws => ws.any fun w => s.leasedNow w.loc.place
  | none => let q := s.chunkSectors k.reach j c; (q.1 ++ q.2).any fun l => s.leasedNow l.place

/-- The uncorrectable errors of cells that a chunk's reads meet: of its sources, and of the sectors that it writes in part (R160, R407). -/
def State.noteChunk (s : State) (k : Cmd) (j : CopyJob) (c : Nat) (ws : List PendWrite) : State :=
  if s.noErrors then s
  else
    let src := match j.pending c with
      | some _ => []
      | none => (s.chunkSectors k.reach j c).1.map (·.place)
    s.noteAccess (dieOf k.ctx.core) (src ++ (ws.filter fun w => w.carry.isNone && decide (w.units.length * j.grain ≠ 256)).map (·.loc.place))

/-- A copy's last writes go ahead of its completion, or for other parties than the contexts of its core follow it (R169, R276, R337; log entry 13). -/
def State.trailing (s : State) (k : Cmd) (j : CopyJob) : Bool × State :=
  if j.dst.isTensor && decide (k.ringId ≠ 0) then let p := s.pick [false, true]; (p.1.getD false, p.2) else (false, s)

/-- The job after writes of chunk c, those to the sectors `bad` with poison, of which `left` remain: with the last one its mark is set, and the chunk's
poisoned sectors count, one that another chunk has written with poison too only once (R275, R320). -/
def CopyJob.wrote (j : CopyJob) (c : Nat) (bad : List Loc) (left : List PendWrite) : CopyJob × Nat :=
  let others := j.opened.filter fun e => decide (e.chunk ≠ c)
  let all := ((j.opened.find? fun e => decide (e.chunk = c)).map (·.bad)).getD [] ++ bad
  let new := all.eraseDups.filter fun l => !j.soft.contains l
  if left.isEmpty then ({ j with marked := SMap.set false j.marked c true, opened := others, soft := j.soft ++ new }, new.length)
  else ({ j with opened := others ++ [⟨c, all, left⟩] }, 0)

/-- Whether the context that issued a command is still bound as it was then, or held in an image (R22, R320). -/
def State.kept (s : State) (k : Cmd) : Bool := s.owns k || s.saved.any fun v => k.of v.ctx v.x.bid

/-- A changed owner tag stops a command, which keeps its entry; that of a context that has been unbound is dropped (R320). -/
def State.stopAt (s : State) (k : Cmd) (job : Job) : State :=
  if s.kept k then s.onCmd k.id fun k => { k with st := .stopped, job := job } else s.dropCmd k.id

/-- A copy goes on: a chunk is read wholly, or one already read writes some or all of its sectors; its mark is set when every byte has been
written, and after the last mark the copy completes with the count of destination sectors written with poison (R275, R276, R320), before or after the
other parties see its last writes. A changed owner tag stops the command, and what it has yet to write is discarded (R157, R320); so does a lease that
has come over a channel of the chunk (R398, R451; log entry 88). -/
def execCopyChunkDone (cmd : Nat) (s : State) : Out :=
  .next (match s.cmd cmd with
    | none => s
    | some k =>
      match k.job with
      | .copy j =>
        let t := (s.atFork k).copyTurn k.reach j
        if !s.forked k || decide (k.st ≠ .running) || s.chunkHeld k j t.1 then s
        else if s.chunkLeased k j t.1 then t.2.stopAt k (.copy { j with opened := [] })
        else
          let p := t.2.portion ((j.pending t.1).getD (t.2.readChunk k.reach j t.1))
          let u := p.2.noteChunk k j t.1 p.1.1
          let q := u.writePending k.reach j.computing true j.grain p.1.1
          if !q.2.1 then q.1.stopAt k (.copy { j with opened := [] })
          else
            let w := j.wrote t.1 q.2.2 p.1.2
            let n := k.count + w.2
            let code := if n = 0 then 0 else 1
            if countMarked w.1.marked j.chunks = j.chunks then
              let v := q.1.trailing k j
              if v.1 then { u.finish k code n with free := v.2.free, trails := u.trails ++ [⟨k.ctx.core, j.computing, j.grain, p.1.1, none⟩] }
              else v.2.finish k code n
            else q.1.onCmd cmd fun k => { k with count := n, job := .copy w.1 }
      | _ => s)

/-- The destination elements of the chunks without marks. -/
def CopyJob.leftElems (j : CopyJob) : List (List Nat) :=
  (((List.range j.chunks).filter fun c => !SMap.get false j.marked c).flatMap j.chunkElems).eraseDups

/-- DECK_RANGE of a place outside the partition in force (R130). -/
def State.placeRange (s : State) : Place → Option Exn
  | .deck g off => when (decide ((s.group g).dpart.toNat * 2 ^ 23 ≤ off)) (Exn.mk .deckRange off (s.group g).dpart.toNat)
  | _ => none

/-- The re-probe of the chunks without marks (R320): their translations, the banks that they read and write, and the deck's range anew. -/
def State.copyReprobe (s : State) (k : Cmd) (j : CopyJob) : Probe :=
  let w := k.who
  let xs := j.leftElems
  let src := if 2 ≤ j.kind then (xs.flatMap fun x => (liveTaps j x).map (·.2)).eraseDups else xs
  let side (expand : Nat) (sd : Side) (need : Need) (xs : List (List Nat)) (tr : List CachedEntry) : Probe :=
    if sd.isTensor then s.probeTensorSide w 0 expand sd need xs tr else .ok tr
  match side j.expand j.src .read src [] with
  | .error e => .error e
  | .ok t1 =>
    match side 0 j.dst .write xs t1 with
    | .error e => .error e
    | .ok t2 =>
      let r : Reach := ⟨w, t2⟩
      let units := xs.flatMap fun x => s.sourceUnits r j x ++ s.sideUnits r j.dst x
      match firstOf [worldMix t2, (units.map (·.sec.place)).eraseDups.findSome? fun pl =>
          firstOf [when (!s.mayWrite w pl) (Exn.xlate .owner 0 0 8 (pl.bank)), s.placeRange pl]] with
      | some e => .error e
      | none => .ok t2

/-- The re-probe of the rows of a fill that are not done. -/
def State.fillReprobe (s : State) (k : Cmd) (win first total done : Nat) (soft : List Nat) : Probe :=
  let w := k.who
  let x := s.window win
  let rows := ((List.range (total - done)).map fun i => first + done + i).filter fun i => !soft.contains i
  match s.tensor w.asid (winTensor x.desc) with
  | none => .error (Exn.coord (winTensor x.desc) 0 8 (winTensor x.desc))
  | some t =>
    match probeAll (fun i tr => s.probeRow w x.desc t i tr) rows [⟨w.asid, winTensor x.desc, none, s.tensorWords w.asid (winTensor x.desc)⟩] with
    | .error e => .error e
    | .ok tr =>
      match firstOf (worldMix tr :: rows.map fun i => s.ownerFault w k.ctx.core 8 (x.byteAt i 0) x.stride) with
      | some e => .error e
      | none => .ok tr

/-- Whether the issuing context lets a stopped command be re-probed (R320): a Pre-empted or Suspended one makes it wait. -/
def CtxState.reprobes : CtxState → Bool
  | .ready | .running | .stalled _ | .blocked _ => true
  | _ => false

/-- The re-probe of a stopped command: it resumes from its first unmarked chunk or row, or ends FAILED with the count of those marked. -/
def execCopyReprobe (cmd : Nat) (s : State) : Out :=
  .next (match s.cmd cmd with
    | none => s
    | some k =>
      if decide (k.st ≠ .stopped) || !(s.ctx k.ctx).st.reprobes || !s.owns k then s
      else
        let go (p : Probe) (marked : Nat) : State :=
          match p with
          | .ok tr => s.onCmd cmd fun k => { k with st := .running, trans := tr }
          | .error _ => s.finish k 5 marked
        match k.job with
        | .copy j => go (s.copyReprobe k j) (countMarked j.marked j.chunks)
        | .fill win first total done _ soft => go (s.fillReprobe k win first total done soft) done
        | _ => s)

/-! ### Window rows (R146, R277, R279) -/

/-- The sector writes of row i of a window: its data, then zeros up to the stride. -/
def State.rowWrites (s : State) (k : Cmd) (x : Window) (i : Nat) : List SecWrite :=
  let r := k.reach
  match Tensor.ofWords (transWords r.tr (winTensor x.desc) none) with
  | none => []
  | some t =>
    let b := t.bits
    let g := unitBits b
    let per := b / g
    let n := winElems x.desc * per
    let dataUnits := (winElems x.desc * b + 7) / 8 * 8 / g
    (List.range (x.stride * 8 / g)).foldl (fun acc m =>
      let bit := m * g
      let d := (⟨.core k.ctx.core.toNat (x.byteAt i (bit / 8)), none⟩ : Loc).unit (bit % 8)
      let p : Piece :=
        if m < n then
          let u := s.tensorUnit r (winTensor x.desc) (winCoords x.desc i (m / per)) (g * (m % per))
          ⟨d.pos, d.sh, s.unitsVal r.die g [u], some u, false⟩
        else ⟨d.pos, d.sh, if m < dataUnits then Config.rowTail bit % 2 ^ g else 0, none, false⟩
      addPiece acc d.sec p) []

/-- Whether an older fill of the window still has the slot of a row to fill (R279). -/
def State.slotBusy (s : State) (k : Cmd) (win row : Nat) : Bool :=
  let l := winRows (s.window win).desc
  s.cmds.any fun o => decide (o.id < k.id) && match o.job with
    | .fill w first total done _ _ => decide (w = win) && (List.range (total - done)).any fun i => decide ((first + done + i) % l = row % l)
    | _ => false

/-- A row is done: FILLED, unless a newer fill has taken the slot (R146, R279). -/
def Window.fillSlot (w : Window) (i : Nat) : Window :=
  let sl := w.slot i
  if decide (sl.tag.toNat = i % 2 ^ 16) && decide (sl.st = .filling) then
    { w with slots := SMap.set ⟨0, .empty⟩ w.slots (i % winRows w.desc) ⟨sl.tag, .filled⟩ }
  else w

/-- The bits of a fill's units. -/
def Window.grain (x : Window) (k : Cmd) : Nat := unitBits (match Tensor.ofWords (transWords k.trans (winTensor x.desc) none) with
  | some t => t.bits
  | none => 8)

/-- Whether a fill must wait with its next row: for what it forks from, for an older fill of the slot (R279), for a handover on a channel that the
row lies in (R451), or for the tick after its issue, at which the row is still FILLING (R307). -/
def State.rowHeld (s : State) (k : Cmd) (win row : Nat) : Bool :=
  let x := s.ctx k.ctx
  !s.forked k || s.slotBusy k win row || (decide (x.mono ≤ k.iss + 1) && x.st.onDuty) ||
    (s.rowWrites k (s.window win) row).any fun w => w.pieces.any fun p => match p.src with
      | some u => s.handover u.sec.place
      | none => false

/-- The sectors that the next row of a fill reads. -/
def State.rowSources (s : State) (k : Cmd) (win row : Nat) : List Place :=
  (s.rowWrites k (s.window win) row).flatMap fun w => w.pieces.filterMap fun p => p.src.map (·.sec.place)

/-- The next row of a window fill is written, or is POISONED; after the last the command completes with the count of POISONED rows and of sectors
written with poison (R160, R277; log entry 84). -/
def execWindowRowFilled (cmd : Nat) (s : State) : Out :=
  .next (match s.cmd cmd with
    | none => s
    | some k =>
      match k.job with
      | .fill win first total done bad soft =>
        let x := s.window win
        let i := first + done
        let poisoned := soft.contains i
        if decide (k.st ≠ .running) || s.rowHeld k win i then s
        else if !poisoned && (s.rowSources k win i).any s.leasedNow then s.stopAt k k.job
        else
          let q := if poisoned then (s, true, [])
            else
              let u := s.atFork k
              let f := if s.noErrors then u else u.noteAccess (dieOf k.ctx.core) (s.rowSources k win i)
              f.writePending k.reach false false (x.grain k) ((f.rowWrites k x i).map (f.capture (dieOf k.ctx.core) (x.grain k)))
          if !q.2.1 then q.1.stopAt k k.job
          else
            let s1 := q.1.onWindow win fun w => w.fillSlot i
            let n := bad + (if poisoned then 1 else 0)
            let c := k.count + q.2.2.length
            if total ≤ done + 1 then s1.finish k (if n + c = 0 then 0 else 1) (n + c)
            else s1.onCmd cmd fun k => { k with count := c, job := .fill win first total (done + 1) n soft }
      | _ => s)

/-! ### Deck blocks (R150, R280, R281, R425) -/

/-- The device address of a line of a tile, with the tile's key slot, from the translations of a command. -/
def State.lineAddr (s : State) (k : Cmd) (tensor tile line : Nat) : Nat × Option Nat :=
  let u := s.tileUnit k.reach tensor tile (line * 128 * 8)
  (u.sec.place.addr, u.sec.key)

/-- Whether a tile may be held in a block (R280): home HBM or far, not constant, nocache 0. -/
def tileCached (w0 : W64) : Bool := decide (field w0 2 1 ≤ 1) && !w0.getLsbD 6 && !w0.getLsbD 20

/-- Lines of one way of the deck: 8 MiB. -/
def wayLines : Nat := 65536

/-- The lowest free run of n lines in a way (R425). -/
def freeRun (bs : List DeckBlock) (n : Nat) : Option Nat :=
  let starts := (0 :: bs.map fun b => b.line + b.count)
  let fits (l : Nat) : Bool := decide (l + n ≤ wayLines) && bs.all fun b => decide (l + n ≤ b.line) || decide (b.line + b.count ≤ l)
  (starts.filter fits).foldl (fun m l => match m with
    | none => some l
    | some k => some (min k l)) none

/-- The way and line that a new block takes: the lowest way of the block cache, from way `p` on, with a free run. -/
def Group.room (g : Group) (p n : Nat) : Option (Nat × Nat) :=
  ((List.range 16).filter fun w => decide (p ≤ w)).findSome? fun w =>
    (freeRun (g.blocks.filter fun b => decide (b.way = w)) n).map fun l => (w, l)

/-- The partition of a command issued after `part` `dpset` of its cluster (R197): the old one while the next of them has not finished. -/
def State.partFor (s : State) (g part : Nat) : Nat :=
  let olds := s.cmds.filterMap fun k => match k.job with
    | .dpset h old _ i => if decide (h = g) && decide (part ≤ i) then some (i, old) else none
    | _ => none
  match (sortBy (·.1) olds).head? with
  | some e => e.2
  | none => (s.group g).dpart.toNat

/-- Evicts blocks, oldest first, until there is room from way `p` on (R150). -/
def State.makeRoom (s : State) (g p n : Nat) : Nat → Nat × State
  | 0 => (0, s)
  | fuel + 1 =>
    match (s.group g).room p n, (s.group g).blocks with
    | none, b :: _ => let q := (s.evict g b).makeRoom g p n fuel; (q.1 + b.dirty.length, q.2)
    | _, _ => (0, s)

/-- A new block is allocated and filled from home (R280). -/
def State.fillBlock (s : State) (k : Cmd) (g tensor tile first count : Nat) (way line : Nat) : State :=
  let a := s.lineAddr k tensor tile first
  let data := (List.range (4 * count)).foldl (fun m i => m.setSector (a.1 + 32 * i) (s.atHome ⟨.dev (a.1 + 32 * i), a.2⟩)) Memory.empty
  let f := (s.noteReads ((List.range (4 * count)).map fun i => .dev (a.1 + 32 * i))).fresh
  f.2.onGroup g fun x => { x with blocks := x.blocks ++ [⟨k.asid, tensor, tile, first, count, a.1, a.2, way, line, data, [], f.1⟩] }

/-- Whether a block command must wait: for what it forks from, for a `dpset` (R197) or for a handover on a channel of its lines (R451). -/
def State.blockHeld (s : State) (k : Cmd) (g part tensor tile first count : Nat) : Bool :=
  !s.forked k || s.deckHeld g part ||
    (List.range count).any fun i => s.handover (.dev ((s.lineAddr k tensor tile first).1 + 128 * i))

/-- Whether a tile's lines lie in a channel that is leased since a handover ended (R398, R451; log entry 88). -/
def State.linesLeased (s : State) (k : Cmd) (tensor tile first count : Nat) : Bool :=
  (List.range count).any fun i => s.leasedNow (.dev ((s.lineAddr k tensor tile first).1 + 128 * i))

/-- Whether an `lb` allocates a block: its tile may be cached, its cluster has a block cache, and no identical block is resident (R280). -/
def State.allocates (s : State) (k : Cmd) (g part tensor tile first count : Nat) : Bool :=
  let a := (s.lineAddr k tensor tile first).1
  tileCached ((transWords k.trans tensor (some tile)).getD 0 0) && !isS k.ctx.core && decide (s.partFor g part ≠ 16) &&
    !((clustersOf (dieOf k.ctx.core)).any fun h => (s.group h).blocks.any fun b => decide (b.addr = a) && decide (b.count = count))

/-- `lb` finishes (R280); DONE_POISON when a write-back of it met an uncorrectable tag error (R404). -/
def execBlockFillDone (cmd : Nat) (s : State) : Out :=
  .next (match s.cmd cmd with
    | none => s
    | some k =>
      match k.job with
      | .block g part tensor tile first count =>
        let die := dieOf k.ctx.core
        let w0 := (transWords k.trans tensor (some tile)).getD 0 0
        let a := (s.lineAddr k tensor tile first).1
        if s.blockHeld k g part tensor tile first count then s
        else if s.linesLeased k tensor tile first count then s.finish k 5 0
        else if !tileCached w0 || isS k.ctx.core || decide (s.partFor g part = 16) then s.finish k 3 0
        else if (clustersOf die).any fun h => (s.group h).blocks.any fun b => decide (b.addr = a) && decide (b.count = count) then s.finish k 0 0
        else
          let e1 := (s.atFork k).evictDie die fun b => decide (b.addr < a + 128 * count) && decide (a < b.addr + 128 * b.count)
          let p := s.partFor g part
          let e2 := e1.2.makeRoom g p count ((e1.2.group g).blocks.length + 1)
          if s.evictWaits e2.2 then s
          else match (e2.2.group g).room p count with
          | some p => (e2.2.fillBlock k g tensor tile first count p.1 p.2).finish k (if k.count = 0 then 0 else 1) (e1.1 + e2.1)
          | none => e2.2.finish k 3 0
      | _ => s)

/-- `lbe` finishes (R281); DONE_POISON when its write-back met an uncorrectable tag error (R404). -/
def execLbeWritebackDone (cmd : Nat) (s : State) : Out :=
  .next (match s.cmd cmd with
    | none => s
    | some k =>
      match k.job with
      | .evict g part tensor tile first =>
        if s.blockHeld k g part tensor tile first 1 then s
        else if s.linesLeased k tensor tile first 1 then s.finish k 5 0
        else
          let a := (s.lineAddr k tensor tile first).1
          let w0 := (transWords k.trans tensor (some tile)).getD 0 0
          let e := if tileCached w0 then s.evictDie (dieOf k.ctx.core) fun b => decide (b.addr = a) else (0, s)
          if s.evictWaits e.2 then s else e.2.finish k (if k.count = 0 then 0 else 1) e.1
      | _ => s)

/-! ### Signals (R47, R286) -/

/-- The launch that runs on a stream. -/
def State.launchOn (s : State) (st : StreamId) : Option Launch := (s.lathe st.die).launches.find? fun l => decide (l.stream = st)

/-- Whether a target of a world takes a signal: one from an open issuer never reaches a sealed target. -/
def worldTakes (sealed : Bool) (g : Signal) : Bool := g.issuerSealed || !sealed

/-- A signal arrives (R286): it adds one to a counter of the running launch, or posts to a ring; otherwise it is dropped and counted. The answer
is whether it is dropped. -/
def State.deliver (g : Signal) (s : State) : Bool × State :=
  if g.ring then
    let c : CtxId := ⟨slice g.target 0 16, slice g.target 16 2⟩
    let x := s.ctx c
    let id := x.ringId (field g.target 21 18)
    if decide (x.st ≠ .unbound) && decide (x.asid = g.asid) && decide (id ≠ 0) && worldTakes x.world g then
      (false, s.post id (statusWord g.tag 0x08 0 g.count.toNat) none)
    else (true, s.tally 0x620 1)
  else
    let st : StreamId := ⟨g.target.getLsbD 8, slice g.target 9 6⟩
    match s.launchOn st with
    | some l =>
      if decide (l.args.asid = g.asid) && worldTakes ((s.stream st).ctl.getLsbD 4) g then
        (false, s.onLaunch st.die l.id fun l => { l with counters := SMap.upd 0 l.counters g.counter.toNat (· + 1) })
      else (true, s.tally 0x620 1)
    | none => (true, s.tally 0x620 1)

/-- A signal is taken: one of this package's own once it has been sent, and each at most once (R286). -/
def State.takeSignal (g : Signal) (s : State) : State :=
  if s.links.selfValid && decide (g.src = s.links.self) then
    match s.cmds.find? fun k => match k.job with
      | .csig h _ true none => decide (h = g)
      | _ => false with
    | some k =>
      let r := s.deliver g
      r.2.onCmd k.id fun k => match k.job with
        | .csig h ack sent _ => { k with job := .csig h ack sent (some r.1) }
        | _ => k
    | none => s
  else if s.taken.contains (g.src, g.num) then s
  else
    let r := s.deliver g
    { r.2 with taken := r.2.taken ++ [(g.src, g.num)] }

/-- A signal reaches this package: from another one it needs a LIVE port (R431). -/
def execCsigDeliver (g : Signal) (s : State) : Out :=
  .next (if (s.links.selfValid && decide (g.src = s.links.self)) || s.onPod then s.takeSignal g else s)

/-- A `csig` ends: with `.ack` its completion is posted, else it only leaves (R270, R286). -/
def State.endSignal (s : State) (k : Cmd) (ack : Bool) (code : Nat) : State := if ack then s.finish k code 0 else s.dropCmd k.id

/-- The acceptance of a signal returns: what this package's own target has done, or what another package answers over a LIVE port (R431). -/
def execCsigAck (cmd : Nat) (dropped : Bool) (s : State) : Out :=
  .next (match s.cmd cmd with
    | some k => match k.job with
      | .csig g ack true r =>
        if sigPackage g.ring g.target = s.links.self.toNat then
          match r with
          | some d => s.endSignal k ack (if d then 6 else 0)
          | none => s
        else if s.reaches (sigPackage g.ring g.target) then s.endSignal k ack (if dropped then 6 else 0)
        else s
      | _ => s
    | none => s)

/-- A signal to another package fails in flight, once every live link to it is lost (R286). -/
def execCsigFail (cmd : Nat) (s : State) : Out :=
  .next (match s.cmd cmd with
    | some k => match k.job with
      | .csig g ack _ _ => if s.reaches (sigPackage g.ring g.target) then s else (s.tally 0x620 1).endSignal k ack 5
      | _ => s
    | none => s)

end Sys2Proof.Machine
end

