-- ==== Sys2Proof/Machine/Fabric.lean ====
section
/-! DEFINITION. Machine/Fabric.lean: Mivis ports (R429 to R431), link registers and the live link table (R432 to R434), and chip time across
the pod (R435, R436). -/

namespace Sys2Proof.Machine

/-! ### Ports and change records (R431, R433) -/

/-- Applies a function to the link state. -/
def State.onLinks (s : State) (f : Links → Links) : State := { s with links := f s.links }

/-- Applies a function to port n. -/
def State.onPort (s : State) (n : Nat) (f : Port → Port) : State :=
  s.onLinks fun l => { l with ports := SMap.set Port.init l.ports n (f (SMap.get Port.init l.ports n)) }

/-- Whether some port is LIVE. -/
def Links.anyLive (l : Links) : Bool := l.ports.any fun e => decide (e.2.state = 3)

/-- The keeper of a table: its lowest-numbered present package, or this package while it shows none (R433). -/
def Links.lowest (l : Links) (table : SMap (BitVec 36)) : BitVec 8 :=
  match (List.range 256).find? fun p => decide (SMap.get 0 table p ≠ 0) with
  | some p => BitVec.ofNat 8 p
  | none => l.self

/-- The table with one change. -/
def applyChange (m : SMap (BitVec 36)) (r : LinkChange) : SMap (BitVec 36) :=
  SMap.set 0 m r.pkg.toNat (setBit (SMap.get 0 m r.pkg.toNat) r.port.toNat r.live)

/-- Whether this package is the keeper: it is the lowest package of its table (R433). One that has lost every port and has a LIVE port again is not,
until it takes the keeper's table, unless its table shows no other package or a record of another one has come to it (log entry 56). -/
def Links.keeps (l : Links) : Bool :=
  decide (l.keeper = l.self) && (!l.alone || (l.anyLive &&
    ((l.live.all fun e => decide (e.1 = l.self.toNat) || decide (e.2 = 0)) || (l.batch ++ l.later.map (·.1)).any fun r => decide (r.pkg ≠ l.self))))

/-- A record that arrives at a chip time enters the keeper's batch within 10 µs of the batch's first, else the next batch. -/
def Links.take (l : Links) (r : LinkChange) (now : Nat) : Links :=
  match l.batchFrom with
  | none => { l with batch := l.batch ++ [r], batchFrom := some now }
  | some t => if now ≤ t + 10000 then { l with batch := l.batch ++ [r] } else { l with later := l.later ++ [(r, now)] }

/-- The table that the gathered records lead to. -/
def Links.ahead (l : Links) : SMap (BitVec 36) := (l.batch ++ l.later.map (·.1)).foldl applyChange l.live

/-- Where the gathered records leave the keeper absent, the lowest package that they leave present is the keeper (R433). A package that has not yet
taken another's table follows what it has gathered (log entry 56). -/
def Links.follow (l : Links) : Links :=
  if !l.joined || SMap.get 0 l.ahead l.keeper.toNat = 0 then { l with keeper := l.lowest l.ahead } else l

/-- Records are gathered. -/
def State.gatherAll (s : State) (rs : List LinkChange) : State := s.onLinks fun l => (rs.foldl (fun l r => l.take r s.chip) l).follow

/-- A record is gathered. -/
def State.gather (s : State) (r : LinkChange) : State := s.gatherAll [r]

/-- Records go to the keeper, which may be this package. A package that has not yet taken another's table, or has lost every port and not taken it
since, sends them out as well. -/
def State.toKeeper (s : State) (l : List LinkChange) : State :=
  let s1 := if s.links.keeps then s.gatherAll l else s
  if s.links.anyLive && !(s.links.keeps && s.links.joined && !s.links.alone) then l.foldl (fun s r => s.emit (.change r)) s1 else s1

/-- A change record goes to the keeper and stays unacknowledged until a batch holds it. A package that has lost every port sends all that is not
acknowledged with its first LIVE port (R433). -/
def State.sendChange (s : State) (r : LinkChange) : State :=
  let s1 := s.onLinks fun l => { l with unacked := l.unacked ++ [r] }
  s1.toKeeper (if s.links.alone then s1.links.unacked.filter fun r => !s.links.batch.contains r else [r])

/-- A port that was LIVE leaves it: counted, recorded, and with the last one the package leaves lock, keeps its table and gathers no more (R433,
R435, R440). -/
def State.leaveLive (s : State) (n : Nat) : State :=
  let s1 := (s.tally (0x308 + 16 * n) 1).onLinks fun l =>
    if l.anyLive then l else { l with locked := false, good := 0, bad := 0, alone := true, batch := [], batchFrom := none, later := [] }
  s1.sendChange ⟨s.links.self, BitVec.ofNat 6 n, false⟩

/-- Whether some port has trained. -/
def Links.anyTrained (l : Links) : Bool := l.ports.any fun e => decide (2 ≤ e.2.state.toNat)

/-- A package with no trained port has no pod number (R429). -/
def State.forget (s : State) : State := s.onLinks fun l => if l.anyTrained then l else { l with selfValid := false }

/-- A port enters DOWN. -/
def State.portDown (s : State) (n : Nat) : State :=
  let live := decide ((s.port n).state = 3)
  let s1 := s.onPort n fun p => { p with state := 0, since := s.chip, replays := [] }
  (if live then s1.leaveLive n else s1).forget

/-- A package has the Mivis ports 0 to 35 (R2): what names another does nothing. -/
def ifPort (port : BitVec 6) (s t : State) : Out := .next (if port.toNat < 36 then t else s)

/-- A lane is lost, or training fails. -/
def execLinkDown (port : BitVec 6) (s : State) : Out := ifPort port s (s.portDown port.toNat)

/-- DOWN becomes TRAINING once 100 ms have passed and admin-down is 0. -/
def execLinkDownTimeout (port : BitVec 6) (s : State) : Out :=
  let p := s.port port.toNat
  ifPort port s (if p.state = 0 && !p.admin && decide (p.since + 100000000 ≤ s.chip) then
      s.onPort port.toNat fun p => { p with state := 1, since := s.chip }
    else s)

/-- All four lanes train: the port learns the package number that its switch reports (R429); a mismatched one is held DOWN, any other enters
HOLD. -/
def State.linkTrained (s : State) (n : Nat) (reported : BitVec 8) : State :=
  if (s.port n).state ≠ 1 then s
  else if s.links.selfValid && decide (s.links.self ≠ reported) then
    s.onPort n fun p => { p with state := 0, reported := reported, since := s.chip }
  else
    (s.onPort n fun p => { p with state := 2, reported := reported, since := s.chip }).onLinks fun l =>
      if l.selfValid then l else { l with self := reported, selfValid := true, keeper := if l.live = [] then reported else l.keeper }

def execLinkTrained (port : BitVec 6) (reported : BitVec 8) (s : State) : Out :=
  ifPort port s (s.linkTrained port.toNat reported)

/-- One second in HOLD without entering DOWN: LIVE, with a change record. -/
def execLinkHoldExpire (port : BitVec 6) (s : State) : Out :=
  let n := port.toNat
  let p := s.port n
  ifPort port s (if p.state = 2 && decide (p.since + 1000000000 ≤ s.chip) then
      (s.onPort n fun p => { p with state := 3, since := s.chip }).sendChange ⟨s.links.self, port, true⟩
    else s)

/-- A write of the admin bit of port n; 1 forces DOWN (R432). -/
def State.writeAdmin (s : State) (n : Nat) (v : W64) : State :=
  let s1 := s.onPort n fun p => { p with admin := v.getLsbD 63 }
  if v.getLsbD 63 && decide ((s.port n).state ≠ 0) then s1.portDown n else s1

def execLinkAdminWrite (port : BitVec 6) (v : W64) (s : State) : Out := ifPort port s (s.writeAdmin port.toNat v)

/-! ### Flits (R430, R138) -/

/-- The replays of the last millisecond, with one more now. -/
def Port.replay (p : Port) (now : Nat) : List Nat := (p.replays ++ [now]).filter fun t => decide (now < t + 1000000)

/-- A flit that fails its CRC is replayed and never delivered; more than 1,024 replays in any 1 ms bring the port down (R430, R431). -/
def State.replayFlit (s : State) (n : Nat) : State :=
  let l := (s.port n).replay s.chip
  let s1 := (((s.onPort n fun p => { p with replays := l }).tally (0x300 + 16 * n) 1).emit (.replay n))
  if 1024 < l.length then s1.portDown n else s1

/-- What a flit's body does here: a signal is delivered; a peer's write carries its sectors with their codes; a peer's `amo` performs at home and
its result goes back. Neither touches a channel that is leased or in handover (R398, R451). The time master answers a sync flit at the port of its arrival
(R435). -/
def State.takeBody (s : State) (port : Nat) : FlitBody → State
  | .sync t => if s.links.selfValid && decide (s.links.keeper = s.links.self) then s.emit (.syncAnswer port t s.chip s.chip) else s
  | .signal g => s.takeSignal g
  | .write a bs codes =>
    if s.handover (.dev a) || s.leasedNow (.dev a) then s
    else (List.range codes.length).foldl (fun s i =>
      s.putHome ⟨.dev (a + 32 * i), none⟩ ⟨(bs.drop (32 * i)).take 32, codes.getD i 0, false⟩) s
  | .amo a small op v e =>
    if s.handover (.dev a) then s
    else if s.leasedNow (.dev a) then s.emit (.amoReply a [] true)
    else
      let r := (s.noteReads [.dev a]).atomicHome ⟨.dev a, none⟩ op small v e
      r.2.2.emit (.amoReply a r.1 r.2.1)

/-- A flit arrives: only a LIVE port carries Dovetail traffic; the replays of a port in HOLD count as those of a LIVE one do (R431). -/
def execMivisFlit (port : BitVec 6) (crcOk : Bool) (body : FlitBody) (s : State) : Out :=
  let st := (s.port port.toNat).state
  ifPort port s (if crcOk then (if st = 3 then s.takeBody port.toNat body else s) else if 2 ≤ st.toNat then s.replayFlit port.toNat else s)

/-! ### Epochs (R433, R434) -/

/-- After a change of keeper, and on rejoining, the records not acknowledged are sent again. -/
def State.resend (s : State) : State :=
  if s.links.keeps then
    (s.links.unacked.filter fun r => !s.links.batch.contains r).foldl State.gather s
  else s.links.unacked.foldl (fun s r => s.emit (.change r)) s

/-- A change record arrives. It is gathered, by the keeper and by a package that may have to become it; where the keeper changes with it, or this package
becomes the keeper, the records not acknowledged are sent again. -/
def execChangeRecord (r : LinkChange) (s : State) : Out :=
  let t := s.gather r
  .next (if decide (t.links.keeper = s.links.keeper) && decide (t.links.keeps = s.links.keeps) then t else t.resend)

/-- The records that a batch holds are acknowledged, and gathered no longer. -/
def Links.acknowledge (l : Links) (b : LinkBatch) : Links :=
  let rest := l.batch.filter fun r => !b.changes.contains r
  (l.later.filter fun e => !b.changes.contains e.1).foldl (fun l e => l.take e.1 e.2)
    { l with
      unacked := l.unacked.filter fun r => !b.changes.contains r
      batch := rest, batchFrom := if rest.isEmpty then none else l.batchFrom, later := [] }

/-- A table takes effect with its epoch: the keeper, the acknowledgements, and the collectives whose trees lost a link. -/
def State.takeTable (s : State) (table : SMap (BitVec 36)) (b : LinkBatch) : State :=
  let l := s.links
  let s1 := s.onLinks fun l =>
    ({ l with
      past := (l.epoch, l.live) :: l.past, live := table, epoch := b.epoch, keeper := l.lowest table, alone := false } : Links).acknowledge b
  let s2 := if s1.links.keeper = l.keeper && !l.alone then s1 else s1.resend
  s2.cmds.foldl (fun s k => s.collTable b.epoch.toNat table k) s2

/-- The records of the ports that a table has otherwise than they stand are sent. -/
def State.resendPorts (s : State) : State :=
  (List.range 36).foldl (fun s n =>
    let r : LinkChange := ⟨s.links.self, BitVec.ofNat 6 n, decide ((s.port n).state = 3)⟩
    if (SMap.get 0 s.links.live s.links.self.toNat).getLsbD n = r.live || s.links.unacked.contains r then s else s.sendChange r) s

/-- The keeper's current table taken whole, on joining or rejoining (R433). What this package had gathered is dropped, but where it is the keeper then it
gathers its own records that are not acknowledged. -/
def State.takeWhole (s : State) (b : LinkBatch) : State :=
  let s1 := s.onLinks fun l => { l with waiting := [], batch := [], batchFrom := none, later := [] }
  let s2 := (s1.takeTable (b.changes.foldl applyChange []) b).onLinks fun l => { l with joined := true }
  (if s2.links.keeps then s2.resend else s2).resendPorts

/-- A batch is applied in its order (R433). -/
def State.applyBatch (s : State) (b : LinkBatch) : State := s.takeTable (b.changes.foldl applyChange s.links.live) b

/-- Applies the waiting batches that are next in order. -/
def State.applyWaiting (s : State) : Nat → State
  | 0 => s
  | n + 1 =>
    match s.links.waiting.find? fun b => decide (b.epoch = s.links.epoch + 1) with
    | none => s
    | some b => ((s.onLinks fun l => { l with waiting := l.waiting.erase b }).applyBatch b).applyWaiting n

/-- The records that make up a table. -/
def tableRecords (table : SMap (BitVec 36)) : List LinkChange :=
  table.flatMap fun e => ((List.range 36).filter fun i => e.2.getLsbD i).map fun i => ⟨BitVec.ofNat 8 e.1, BitVec.ofNat 6 i, true⟩

/-- The batch that the keeper numbers: the records gathered. -/
def Links.numbered (l : Links) : LinkBatch := ⟨l.epoch + 1, l.batch, false⟩

/-- The keeper's table at the epoch of that batch, whole. -/
def Links.tableWhole (l : Links) : LinkBatch := ⟨l.epoch + 1, tableRecords (l.batch.foldl applyChange l.live), true⟩

/-- Whether some other package joins or rejoins with the records gathered: it is present after all of them and was not at some point before (R433). -/
def Links.admits (l : Links) : Bool :=
  (l.batch.foldl applyChange l.live).any fun e => decide (e.1 ≠ l.self.toNat) &&
    (List.range (l.batch.length + 1)).any fun n => decide (SMap.get 0 ((l.batch.take n).foldl applyChange l.live) e.1 = 0)

/-- What the keeper floods: the batch, and its table whole behind it for packages that join or rejoin, also while it may still have to join itself or has
lost every port (R433; log entry 56). -/
def Links.flood (l : Links) : List LinkBatch := l.numbered :: if l.admits || !l.joined || l.alone then [l.tableWhole] else []

/-- The keeper's window ends: it numbers the batch, floods it and applies it; the records that arrived later begin the next batch. -/
def execKeeperBatch (s : State) : Out :=
  .next (match s.links.batchFrom with
    | none => s
    | some t =>
      if s.links.keeps && decide (t + 10000 ≤ s.chip) then
        let s1 := s.onLinks fun l => l.later.foldl (fun l r => l.take r.1 r.2) { l with batch := [], batchFrom := none, later := [] }
        (s.links.flood.foldl (fun s b => s.emit (.batch b)) s1).applyBatch s.links.numbered
      else s)

/-- Whether a package takes a table whole: one that has lost every port, once a port is LIVE; one that has not yet taken another's, where it names a
lower-numbered package or has a later epoch; and a keeper, where another one has gone further meanwhile (R433; log entry 56). -/
def Links.joins (l : Links) (b : LinkBatch) : Bool :=
  let later := decide (l.epoch.toNat < b.epoch.toNat)
  if l.alone then l.anyLive
  else if !l.joined then (b.changes.any fun r => r.live && decide (r.pkg.toNat < l.self.toNat)) || later
  else decide (l.keeper = l.self) && later

/-- A batch or a table arrives. A package that joins or rejoins takes the table whole, and no batch before it; at any other the next batch is applied with
those that waited for it, a later one waits, and an earlier one is ignored (R433; log entry 56). -/
def execEpochBatchApply (b : LinkBatch) (s : State) : Out :=
  .next (if b.whole then (if s.links.joins b then s.takeWhole b else s)
    else if s.links.alone || !s.links.joined then s
    else if b.epoch = s.links.epoch + 1 then (s.applyBatch b).applyWaiting (s.links.waiting.length + 1)
    else if s.links.epoch.toNat < b.epoch.toNat then s.onLinks fun l => { l with waiting := l.waiting ++ [b] }
    else s)

/-! ### Chip time (R435, R436) -/

/-- The step forward to the master's value: once, at the first lock after a module start, and only while no context is bound. -/
def State.stepTime (s : State) (offset : Int) : State :=
  if s.links.everLocked || (s.ctxs.any fun e => decide (e.2.st ≠ .unbound)) then s else s.moveTime (max 0 (-offset))

/-- The offset that an exchange measures, this package's chip time less the master's, from the four times of a symmetric round trip (R435). -/
def syncOffset (t : SyncTimes) (got : Nat) : Int := (((t.sent : Int) - t.masterIn) + ((got : Int) - t.masterOut)) / 2

/-- The correction that slewing has to make until the offset is within bound (R436). -/
def slewFor (offset : Int) : Int := if 20 < offset then 20 - offset else if offset < -20 then -20 - offset else 0

/-- One exchange with the time master, every 100 µs (R435): the lock follows ten exchanges within 20 ns or three beyond, and the slew what the offset
asks for (R436). -/
def State.sync (s : State) (offset : Int) : State :=
  let within := decide (offset.natAbs ≤ 20)
  let good := if within then s.links.good + 1 else 0
  let bad := if within then 0 else s.links.bad + 1
  let locks := !s.links.locked && decide (10 ≤ good)
  let s1 := if locks then s.stepTime offset else s
  s1.onLinks fun l =>
    { l with
      offset := offset, good := good, bad := bad
      locked := if locks then true else l.locked && decide (bad < 3)
      everLocked := l.everLocked || locks
      slew := if s1.chip = s.chip then slewFor offset else 0
      syncAt := s1.chip }

/-- The lowest-numbered LIVE port. -/
def State.firstLive (s : State) : Option Nat := (List.range 36).find? fun n => decide ((s.port n).state = 3)

/-- An exchange with the time master over the lowest-numbered LIVE port. The master's own offset is zero (R435, log entry 57). -/
def execTimeSync (times : SyncTimes) (s : State) : Out :=
  .next (match s.firstLive with
    | none => s.onLinks fun l => { l with locked := false, good := 0, bad := 0, slew := 0 }
    | some p =>
      if s.chip < s.links.syncAt + 100000 then s
      else if s.links.keeper = s.links.self then s.sync 0
      else (s.emit (.sync p times.sent)).sync (syncOffset times s.chip))

end Sys2Proof.Machine
end

