-- ==== Sys2Proof/Machine/HostRegs.lean ====
section
/-! DEFINITION. Machine/HostRegs.lean: the registers of BAR0 as the host writes and reads them (R355, R356, R369, R385, R394, R396, R402, R405,
R408, R415, R420, R421, R432, R437, R440), and the host's own accesses to device memory (R160, R161). -/

namespace Sys2Proof.Machine

/-! ### Stream registers (R355, R356, R369) -/

/-- A doorbell: TAIL takes the value, unless it runs more than a ring ahead of HEAD. -/
def State.ringDoorbell (s : State) (i : StreamId) (tail : BitVec 32) : State :=
  s.onStream i fun k => if 2 ^ k.size.toNat < k.pending tail then { k with overrun := true } else { k with tail := tail }

def execDoorbell (i : StreamId) (tail : BitVec 32) (s : State) : Out := .next (s.ringDoorbell i tail)

/-- A write of STATUS: a 1 in bit 3 clears watchdog. -/
def State.clearWatchdog (s : State) (i : StreamId) (v : W64) : State :=
  s.onStream i fun k => if v.getLsbD 3 then { k with watchdog := false } else k

def execWatchdogClear (i : StreamId) (v : W64) (s : State) : Out := .next (s.clearWatchdog i v)

/-- The bits of CTL that a write leaves alone: world and priv unless Folkai writes, kind while a command runs. -/
def Stream.ctlKept (k : Stream) (folkai : Bool) : BitVec 6 := (if folkai then 0 else 0x30) ||| (if k.running then 8 else 0)

/-- A write of a stream register by its offset in the block. -/
def State.writeStream (s : State) (i : StreamId) (off : Nat) (folkai : Bool) (v : W64) : State :=
  match off with
  | 0x00 => s.onStream i fun k => if k.running then k else { k with base := v &&& 0x800FFFFFFFFFF000 }
  | 0x08 => s.onStream i fun k => if k.running then k else { k with size := slice v 0 5 }
  | 0x18 => s.ringDoorbell i (slice v 0 32)
  | 0x20 => s.onStream i fun k =>
      let m := k.ctlKept folkai
      { k with ctl := (slice v 0 6 &&& ~~~m) ||| (k.ctl &&& m) }
  | 0x28 => s.clearWatchdog i v
  | 0x30 => s.onStream i fun k => { k with wdog := slice v 0 32 }
  | _ => s

/-- A stream register. -/
def Stream.readReg (k : Stream) (off : Nat) : W64 :=
  match off with
  | 0x00 => k.base
  | 0x08 => k.size.setWidth 64
  | 0x10 => k.head.setWidth 64
  | 0x18 => k.tail.setWidth 64
  | 0x20 => k.ctl.setWidth 64
  | 0x28 => k.status
  | 0x30 => k.wdog.setWidth 64
  | _ => 0

/-- The stream of an offset in the stream blocks. -/
def streamAt (off : Nat) : StreamId := ⟨decide (0x1000 ≤ off), BitVec.ofNat 6 (off % 0x1000 / 0x40)⟩

/-! ### Leases, mode registers, TSNAP -/

/-- A write of a lease register starts a handover (R397, R451). -/
def State.writeLease (s : State) (st ch : Nat) (v : W64) : State :=
  s.onChannel st ch fun k => { k with handover := some (s.leaseValue st ch v) }

/-- The lease register with its busy bit (R396). -/
def Channel.leaseReg (k : Channel) : W64 := setBit k.lease 63 k.handover.isSome

/-- A bank's mode register (R405). -/
def BankMode.reg (b : BankMode) : W64 :=
  BitVec.ofNat 64 (b.ce + b.ue * 2 ^ 32 + b.rows * 2 ^ 44 + (if b.pending.isEmpty then 0 else 2 ^ 51) + (if b.degraded then 2 ^ 52 else 0) +
    b.cols * 2 ^ 53)

/-- A write of 1 to TSNAP copies every counter to the shadow block (R440). -/
def State.snapTelemetry (s : State) (v : W64) : State := if v = 1 then { s with shadowTel := s.telemetry, tsnap := s.chip } else s

def execTsnap (v : W64) (s : State) : Out := .next (s.snapTelemetry v)

/-! ### Key slots (R394, R395) -/

/-- A write of a key slot: slots from 256 on take Folkai's writes only. -/
def execKeySlotWrite (slot : BitVec 9) (folkai : Bool) (dataKey tweakKey : BitVec 256) (valid : Bool) (s : State) : Out :=
  .next (if slot.toNat < 256 || folkai then
      { s with keys := SMap.set KeySlot.init s.keys slot.toNat ⟨dataKey, tweakKey, valid⟩ }
    else s)

/-- A key slot with the 8 bytes at an offset of it replaced: the keys, then bit 0 of byte 64 (R394). -/
def KeySlot.put (k : KeySlot) (off : Nat) (v : W64) : KeySlot :=
  let part (x : BitVec 256) (i : Nat) : BitVec 256 := (x &&& ~~~(((BitVec.allOnes 64).setWidth 256) <<< (64 * i))) ||| (v.setWidth 256 <<< (64 * i))
  let d := if off < 32 then part k.dataKey (off / 8) else k.dataKey
  let t := if 32 ≤ off && off < 64 then part k.tweakKey (off / 8 - 4) else k.tweakKey
  ⟨d, t, if off = 64 then v.getLsbD 0 else k.valid⟩

/-- A write of 8 bytes of the key slots: slots from 256 on take Folkai's writes only. -/
def State.writeKey (s : State) (off : Nat) (folkai : Bool) (v : W64) : State :=
  let n := off / 0x80
  if n < 256 || folkai then { s with keys := SMap.upd KeySlot.init s.keys n fun k => k.put (off % 0x80) v } else s

/-! ### Register writes by offset -/

/-- A write of a BAR0 register by its offset: the registers whose writes only hold a value, and those above. A write of any other offset, of a
read-only register, or of a register that Folkai alone writes, is ignored (R13; log entry 35). -/
def execRegisterWrite (off : Nat) (folkai : Bool) (v : W64) (s : State) : Out :=
  .next (
    if off % 8 ≠ 0 then s
    else if 0x100000 ≤ off && off < 0x102000 then s.writeStream (streamAt (off - 0x100000)) (off % 0x40) folkai v
    else if 0x180000 ≤ off && off < 0x190000 then s.writeKey (off - 0x180000) folkai v
    else if off = 0x190040 then { s with log := { s.log with base := v &&& 0x800FFFFFFFFFFFFF } }
    else if off = 0x190048 then { s with log := { s.log with size := v &&& 0x1F } }
    else if off = 0x190080 then { s with repwait := slice v 0 32 }
    else if 0x1C1000 ≤ off && off < 0x1C1240 && off % 16 = 0 then s.writeAdmin ((off - 0x1C1000) / 16) v
    else if off = 0x1D0000 then s.snapTelemetry v
    else if 0x200000 ≤ off && off < 0x201000 then s.writeLease ((off - 0x200000) / 0x100) (off % 0x100 / 8) v
    else if 0x300000 ≤ off && off < 0x310000 then
      s.onBank ((off - 0x300000) / 0x1000) (off % 0x1000 / 0x80) (off % 0x80 / 8) fun b => { b with ue := 0, ce := 0 }
    else s)

/-! ### Register reads -/

/-- RESMAP by offset (R415). -/
def Resmap.reg (r : Resmap) (off : Nat) : W64 :=
  if off = 0 then BitVec.ofNat 64 (r.clusters.toNat + r.stackMask.toNat * 2 ^ 16 + r.cxl.toNat * 2 ^ 32)
  else if off = 8 then r.ports.setWidth 64
  else if 0x40 ≤ off && off < 0x80 then slice r.dcores (8 * (off - 0x40)) 64
  else if 0x80 ≤ off && off < 0xA0 then slice r.scores (8 * (off - 0x80)) 64
  else 0

/-- A region-table entry (R421). -/
def Region.reg (r : Region) (second : Bool) : W64 :=
  if second then (0 : BitVec 12) ++ r.limit ++ (0 : BitVec 12)
  else (0 : BitVec 12) ++ r.base ++ (0 : BitVec 10) ++ BitVec.ofBool r.world ++ BitVec.ofBool r.valid

/-- The link block by offset (R432). -/
def Links.reg (l : Links) (off : Nat) : W64 :=
  if off = 0 then BitVec.ofNat 64 (l.epoch.toNat + l.keeper.toNat * 2 ^ 32)
  else if off = 8 then BitVec.ofNat 64 (l.self.toNat + if l.selfValid then 2 ^ 8 else 0)
  else if off = 0x10 then
    BitVec.ofInt 32 l.offset ++ (0 : BitVec 16) ++ l.keeper ++
      ((0 : BitVec 6) ++ BitVec.ofBool (l.selfValid && decide (l.self = l.keeper)) ++ BitVec.ofBool l.locked)
  else if 0x100 ≤ off && off < 0x900 then
    let m := SMap.get 0 l.live ((off - 0x100) / 8)
    BitVec.ofNat 64 (m.toNat + if m = 0 then 0 else 2 ^ 36)
  else if 0x1000 ≤ off && off < 0x1240 && off % 16 = 0 then
    let p := SMap.get Port.init l.ports ((off - 0x1000) / 16)
    BitVec.ofNat 64 (p.state.toNat + p.reported.toNat * 4 + if p.admin then 2 ^ 63 else 0)
  else 0

/-- Island i. -/
def State.island (s : State) (i : Nat) : Island := SMap.get Island.init s.islands i

/-- Applies a function to island i. -/
def State.onIsland (s : State) (i : Nat) (f : Island → Island) : State := { s with islands := SMap.set Island.init s.islands i (f (s.island i)) }

/-- An island's voltage at its frequency, under the limits that the blob gives (R412, R437). -/
def State.setVolt (s : State) (i : Nat) : State :=
  s.onIsland i fun k => { k with volt := (Config.coreVoltage (SMap.get [] s.boot.loaded 5) i k.freq).toNat }

/-- An island's register pair (R437). -/
def Island.reg (i : Island) (second : Bool) : W64 :=
  BitVec.ofNat 64 (
    if second then i.power + i.temp * 2 ^ 16 + i.dramtemp * 2 ^ 32
    else i.freq + i.cap * 2 ^ 16 + i.volt * 2 ^ 32 + (if i.throttled then 2 ^ 48 else 0) + if i.derated then 2 ^ 49 else 0)

/-- An entry of the boot journal as words (R416). -/
def JournalEntry.words (e : JournalEntry) : List W64 := [e.w0, e.w1, e.w2, e.w3]

/-- What the host reads of an aligned 8-byte register. In recovery mode RESMAP reads zero (R418). -/
def State.barRead (s : State) (off : Nat) : W64 :=
  if 0x100000 ≤ off && off < 0x102000 then (s.stream (streamAt (off - 0x100000))).readReg (off % 0x40)
  else if 0x180000 ≤ off && off < 0x190000 then
    if off % 0x80 = 64 && (SMap.get KeySlot.init s.keys ((off - 0x180000) / 0x80)).valid then 1 else 0
  else if off = 0x190000 || off = 0x190008 then BitVec.ofNat 64 (SMap.get 0 s.farCap (off % 0x10 / 8))
  else if off = 0x190040 then s.log.base
  else if off = 0x190048 then s.log.size
  else if off = 0x190080 then s.repwait.setWidth 64
  else if 0x190100 ≤ off && off < 0x1901A0 then if s.power = .up then s.resmap.reg (off - 0x190100) else 0
  else if 0x1A0000 ≤ off && off < 0x1A1000 then
    (SMap.get ⟨false, false, 0, 0⟩ s.regions ((off - 0x1A0000) / 16)).reg (decide (off % 16 = 8))
  else if off = 0x1A1000 then s.worldmap.setWidth 64
  else if 0x1B0000 ≤ off && off < 0x1B0800 then
    (SMap.get JournalEntry.init s.boot.journal ((off - 0x1B0000) / 32)).words.getD (off % 32 / 8) 0
  else if 0x1C0000 ≤ off && off < 0x1C2000 then s.links.reg (off - 0x1C0000)
  else if off = 0x1D0000 then BitVec.ofNat 64 s.tsnap
  else if 0x1D0000 < off && off < 0x1D1000 then BitVec.ofNat 64 (SMap.get 0 s.telemetry (off - 0x1D0000))
  else if 0x1D1000 ≤ off && off < 0x1D2000 then BitVec.ofNat 64 (SMap.get 0 s.shadowTel (off - 0x1D1000))
  else if 0x1E0000 ≤ off && off < 0x1E0200 then (SMap.get Island.init s.islands ((off - 0x1E0000) / 16)).reg (decide (off % 16 = 8))
  else if 0x200000 ≤ off && off < 0x201000 then (s.channel ((off - 0x200000) / 0x100) (off % 0x100 / 8)).leaseReg
  else if 0x300000 ≤ off && off < 0x310000 then
    ((s.stack ((off - 0x300000) / 0x1000)).bank (off % 0x1000 / 0x80) (off % 0x80 / 8)).reg
  else 0

/-! ### The host's accesses to device memory (R151, R160, R161, R384, R385) -/

/-- Whether a device byte exists: in a present stack, or below a far port's capacity. -/
def State.devExists (s : State) (a : Nat) : Bool := (decide (a < cxlBase) && s.stackPresent (hbmStack a)) || s.farOk a

/-- The sectors that n bytes from an address touch, ascending. -/
def sectorsOf (a n : Nat) : List Nat := if n = 0 then [] else (List.range ((a + n - 1) / 32 - a / 32 + 1)).map fun i => sectorOf a + 32 * i

/-- Whether an access of the host can perform now: every sector exists and no handover holds it. -/
def State.hostMay (s : State) (a n : Nat) : Bool := (sectorsOf a n).all fun x => s.devExists x && !s.handover (.dev x)

/-- The bytes of a host write that fall into a sector: their place in it, and they. -/
def writtenPart (a : Nat) (bs : List Byte) (x : Nat) : Nat × List Byte := if x < a then (a - x, bs.take (32 - (a - x))) else (0, (bs.drop (x - a)).take 32)

/-- One sector of a host write: a whole one takes a new code, another merges at its home. -/
def State.hostSector (s : State) (a : Nat) (bs : List Byte) (x : Nat) : State :=
  let p := writtenPart a bs x
  let l : Loc := ⟨.dev x, none⟩
  if p.2.length = 32 then s.putHome l (Sector.good p.2) else (s.noteReads [.dev x]).putHome l ((s.atHome l).merge p.1 p.2)

/-- The host writes device memory: the host interface generates codes. -/
def execHostDataWrite (addr : Nat) (bytes : List Byte) (s : State) : Out :=
  .next (if s.hostMay addr bytes.length then (sectorsOf addr bytes.length).foldl (fun s x => s.hostSector addr bytes x) s else s)

/-- The host reads device memory: the TLP has EP set when a sector of it has a bad code or poison. -/
def execHostDataRead (addr len : Nat) (s : State) : Out :=
  .next (if s.hostMay addr len then
      let xs := sectorsOf addr len
      let secs := xs.map fun x => s.atHome ⟨.dev x, none⟩
      (s.noteReads (xs.map Place.dev)).emit (.hostTlp addr (((secs.flatMap (·.bytes)).drop (addr % 32)).take len) (secs.any Sector.faulty))
    else s)

end Sys2Proof.Machine
end

