-- ==== Sys2Proof/Machine/Boot.lean ====
section
/-! DEFINITION. Machine/Boot.lean: module flash and signed images (R410, R411), the configuration blob (R412), the twelve boot steps with
their journal (R413 to R418), worlds (R419 to R422), evidence (R423) and the update session (R442, R443). -/

namespace Sys2Proof.Machine

/-- Applies a function to the boot state. -/
def State.onBoot (s : State) (f : Boot → Boot) : State := { s with boot := f s.boot }

/-! ### Flash and images (R410, R411) -/

/-- The flash offset of slot A or B of an image kind. -/
def slotBase (kind : Nat) (b : Bool) : Nat :=
  match kind with
  | 1 => if b then 0x1000000 else 0
  | 2 => if b then 0x2100000 else 0x2000000
  | _ => if b then 0x3200000 else 0x2200000

/-- The size of a slot. -/
def slotSize (kind : Nat) : Nat := if kind = 2 then 2 ^ 20 else 2 ^ 24

/-- The flash offsets of the boot journal, the identity helper data and the device certificate. -/
def journalBase : Nat := 0x4200000
def helperBase : Nat := 0x4201000
def certBase : Nat := 0x4202000

/-- Journal slot k. -/
def Boot.entry (b : Boot) (k : Nat) : JournalEntry := SMap.get JournalEntry.init b.journal k

/-- The 32 bytes of an entry. -/
def JournalEntry.bytes (e : JournalEntry) : List Byte := e.words.flatMap fun w => toBytes 8 w.toNat

/-- The 2,048 bytes of the journal. -/
def Boot.journalBytes (b : Boot) : List Byte := (List.range 64).flatMap fun k => (b.entry k).bytes

/-- Bytes of module flash: the journal at its offset; elsewhere erased flash reads 0 (log entry 38). -/
def Boot.bytesAt (b : Boot) (a n : Nat) : List Byte :=
  let l := SMap.getList 0 b.flash a n
  if a + n ≤ journalBase || journalBase + 2048 ≤ a then l
  else
    let j := b.journalBytes
    (List.range n).map fun i => if journalBase ≤ a + i && a + i < journalBase + 2048 then j.getD (a + i - journalBase) 0 else l.getD i 0

/-- The identity helper data, and the device certificate that binds the identity public key to the module's serial number (R413). -/
def Boot.helperData (b : Boot) : List Byte := b.bytesAt helperBase 4096
def Boot.certificate (b : Boot) : List Byte := b.bytesAt certBase 8192

/-- A list of n bytes. -/
def fit (n : Nat) (l : List Byte) : List Byte := (l ++ List.replicate n 0).take n

/-- SHAKE256 with 64 bytes of output. -/
def shake (m : List Byte) : List Byte := fit 64 (Config.shake256 m)

/-- A 64-bit word of module flash. -/
def Boot.word (b : Boot) (a : Nat) : W64 := BitVec.ofNat 64 (ofBytes (b.bytesAt a 8))

/-- Erases n bytes of flash. -/
def Boot.erase (b : Boot) (a n : Nat) : Boot := { b with flash := b.flash.filter fun e => !(decide (a ≤ e.1) && decide (e.1 < a + n)) }

/-- The header fields and the length of the signed part of the image in a slot. -/
def Boot.imageKind (b : Boot) (kind : Nat) (slot : Bool) : Nat := field (b.word (slotBase kind slot)) 15 0
def Boot.imageVersion (b : Boot) (kind : Nat) (slot : Bool) : BitVec 16 := slice (b.word (slotBase kind slot)) 16 16
def Boot.bodyLen (b : Boot) (kind : Nat) (slot : Bool) : Nat := field (b.word (slotBase kind slot)) 63 32
def Boot.counterOf (b : Boot) (kind : Nat) (slot : Bool) : W64 := b.word (slotBase kind slot + 8)

/-- The bytes of an image up to its body's end. -/
def Boot.signedPart (b : Boot) (kind : Nat) (slot : Bool) : List Byte := b.bytesAt (slotBase kind slot) (64 + b.bodyLen kind slot)

/-- The body. -/
def Boot.body (b : Boot) (kind : Nat) (slot : Bool) : List Byte := b.bytesAt (slotBase kind slot + 64) (b.bodyLen kind slot)

/-- Steps 1 to 3 of R411. -/
def Boot.imageGood (b : Boot) (kind : Nat) (slot : Bool) : Bool :=
  let end_ := slotBase kind slot + 64 + b.bodyLen kind slot
  decide (b.imageKind kind slot = kind) && decide (64 + b.bodyLen kind slot + 1952 + 3309 ≤ slotSize kind) &&
    (b.bytesAt (slotBase kind slot + 16) 48).all (fun x => decide (x = 0)) &&
    decide (shake (b.bytesAt end_ 1952) = Config.rootDigest) &&
    Config.verifies (b.bytesAt end_ 1952) (shake (b.signedPart kind slot)) (b.bytesAt (end_ + 1952) 3309)

/-- Step 4: the security counter is at least the stored one. -/
def Boot.counterGood (b : Boot) (kind : Nat) (slot : Bool) : Bool :=
  decide ((SMap.get 0 b.counters kind).toNat ≤ (b.counterOf kind slot).toNat)

/-- Whether the image of a slot verifies. -/
def Boot.verifies (b : Boot) (kind : Nat) (slot : Bool) : Bool := b.imageGood kind slot && b.counterGood kind slot

/-- The preferred slot of a kind; true is slot B. -/
def Boot.preferredSlot (b : Boot) (kind : Nat) : Bool := SMap.get false b.preferred kind

/-- The slot that an update of a kind writes: not the one that the current start uses, or, when it uses none, not the preferred one (R443;
log entry 38). -/
def Boot.target (b : Boot) (kind : Nat) : Bool :=
  match SMap.get 0 b.used kind with
  | 1 => true
  | 2 => false
  | _ => !b.preferredSlot kind

/-- Marks a slot verified or not. -/
def Boot.setVerified (b : Boot) (kind : Nat) (slot v : Bool) : Boot :=
  { b with verified := SMap.set false b.verified (2 * kind + if slot then 1 else 0) v }

def Boot.isVerified (b : Boot) (kind : Nat) (slot : Bool) : Bool := SMap.get false b.verified (2 * kind + if slot then 1 else 0)

/-! ### The blob (R412) -/

/-- The sections of a blob body: type and contents; none when a section is malformed or of an unknown type. -/
def sections : Nat → List Byte → Option (List (Nat × List Byte))
  | _, [] => some []
  | 0, _ => none
  | n + 1, bs =>
    let h := BitVec.ofNat 64 (ofBytes (bs.take 8))
    let ty := field h 15 0
    let len := field h 47 16
    if bs.length < len || len < 8 || field h 63 48 ≠ 0 || ty = 0 || 6 < ty then none
    else (sections n (bs.drop ((len + 7) / 8 * 8))).map fun r => (ty, (bs.take len).drop 8) :: r

/-- The contents of the first section of a type. -/
def sectionOf (l : List (Nat × List Byte)) (ty : Nat) : Option (List Byte) := (l.find? fun e => decide (e.1 = ty)).map (·.2)

/-- The sections of the blob in a slot, when it has both that a blob must have. -/
def Boot.blob (b : Boot) (slot : Bool) : Option (List (Nat × List Byte)) :=
  (sections (b.bodyLen 2 slot / 8 + 1) (b.body 2 slot)).filter fun l => (sectionOf l 1).isSome && (sectionOf l 6).isSome

/-- Bits of a list of bytes as a word of width n, from a byte offset. -/
def bitsAt (bs : List Byte) (off n : Nat) : BitVec n := BitVec.ofNat n (ofBytes ((bs.drop off).take ((n + 7) / 8)))

/-- RESMAP from its layout (R415). -/
def Resmap.ofBytes (bs : List Byte) : Resmap :=
  ⟨bitsAt bs 0 16, bitsAt bs 2 16, bitsAt bs 4 2, bitsAt bs 8 36, bitsAt bs 0x40 512, bitsAt bs 0x80 256⟩

/-- The bits of each of n groups of w cores, for the groups that are present. -/
def groupMask (n w : Nat) (present : Nat → Bool) : Nat :=
  (List.range n).foldl (fun x g => if present g then x + (2 ^ w - 1) * 2 ^ (w * g) else x) 0

/-- The cores of absent clusters and stacks are absent. -/
def Resmap.prune (r : Resmap) : Resmap :=
  { r with
    dcores := r.dcores &&& BitVec.ofNat 512 (groupMask 16 32 fun g => r.clusters.getLsbD g)
    scores := r.scores &&& BitVec.ofNat 256 (groupMask 16 16 fun g => r.stackMask.getLsbD g) }

/-- Nothing present. -/
def Resmap.none : Resmap := ⟨0, 0, 0, 0, 0, 0⟩

/-- The region table from a section of type 6, which holds it and WORLDMAP as the registers lie: the table at BAR0 0x1A0000, WORLDMAP 4,096 bytes on
(R412, R420, R421). -/
def regionsOf (bs : List Byte) : SMap Region :=
  (List.range 256).foldl (fun m i =>
    let w0 : W64 := bitsAt bs (16 * i) 64
    let w1 : W64 := bitsAt bs (16 * i + 8) 64
    SMap.set ⟨false, false, 0, 0⟩ m i ⟨w0.getLsbD 0, w0.getLsbD 1, slice w0 12 40, slice w1 12 40⟩) []

/-! ### The journal (R416, R417) -/

/-- Word 3 without the check. -/
def JournalEntry.low3 (e : JournalEntry) : W64 := e.w3 &&& 0x0000FFFFFFFFFFFF

/-- The check that belongs to an entry. -/
def JournalEntry.check (e : JournalEntry) : BitVec 16 := grain ({ e with w3 := e.low3 }).bytes

/-- An entry with its check. -/
def JournalEntry.sealed (e : JournalEntry) : JournalEntry := { e with w3 := e.low3 ||| (e.check.setWidth 64 <<< 48) }

/-- Whether its check matches. -/
def JournalEntry.ok (e : JournalEntry) : Bool := decide (slice e.w3 48 16 = e.check)

/-- Fields of an entry. -/
def JournalEntry.start (e : JournalEntry) : Nat := field e.w0 31 0
def JournalEntry.step (e : JournalEntry) : Nat := field e.w0 35 32
def JournalEntry.result (e : JournalEntry) : Nat := field e.w0 47 40
def JournalEntry.count (e : JournalEntry) : Nat := field e.w3 31 16

/-- An entry from its fields. -/
def mkEntry (no step result : Nat) (mode : Bool) (t0 t1 : BitVec 32) (res : W64) (code : BitVec 16) (count : Nat) : JournalEntry :=
  ({ w0 := BitVec.ofNat 64 (no % 2 ^ 32 + step * 2 ^ 32 + result * 2 ^ 40 + if mode then 2 ^ 48 else 0), w1 := t1 ++ t0, w2 := res
     w3 := BitVec.ofNat 64 (code.toNat + count % 2 ^ 16 * 2 ^ 16) } : JournalEntry).sealed

/-- The resources of a per-resource step: stacks, Mivis ports, CXL ports; none for a required step. -/
def stepMask (n : Nat) : W64 := if n = 4 || n = 5 then 0xFFFF else if n = 8 then 0xFFFFFFFFF else if n = 10 then 3 else 0

/-- The entries of a step, newest first. -/
def Boot.history (b : Boot) (step : Nat) : List JournalEntry :=
  ((List.range 64).map fun i => b.entry ((b.journalAt + 63 - i) % 64)).filter fun e => decide (e.step = step)

/-- What the entries of a step say: whether the last counts as FAILED, its resources, and its count of consecutive failed starts. An entry with
a bad check or result RUNNING counts as FAILED with every resource failed, and as one failed start more than the one before it. -/
structure Verdict where
  failed : Bool
  res : W64
  count : Nat
deriving DecidableEq, Repr

/-- The verdict of a step's entries. -/
def judge (step : Nat) : List JournalEntry → Verdict
  | [] => ⟨false, 0, 0⟩
  | e :: r =>
    if e.ok && decide (e.result ≠ 0) then ⟨decide (e.result = 2), e.w2, e.count⟩
    else ⟨true, stepMask step, (judge step r).count + 1⟩

def Boot.verdict (b : Boot) (step : Nat) : Verdict := judge step (b.history step)

/-- The marks that a per-resource step skips: those of its last entry, and for stacks those of step 4's and step 5's. -/
def Boot.marks (b : Boot) (step : Nat) : W64 :=
  stepMask step &&& if step = 4 || step = 5 then (b.verdict 4).res ||| (b.verdict 5).res else (b.verdict step).res

/-- Clears the absent marks: an entry of a per-resource step whose check does not match or that is RUNNING, which stands for every mark, becomes
a FAILED one without marks. -/
def Boot.clearMarks (b : Boot) : Boot :=
  { b with journal := (List.range 64).foldl (fun m k =>
      let e := b.entry k
      let e1 : JournalEntry :=
        if stepMask e.step = 0 then e
        else if e.ok && decide (e.result ≠ 0) then ({ e with w2 := 0 } : JournalEntry).sealed
        else ({ e with w0 := (e.w0 &&& 0xFFFF00FFFFFFFFFF) ||| 0x20000000000, w2 := 0 } : JournalEntry).sealed
      SMap.set JournalEntry.init m k e1) [] }

/-- An entry that counts as FAILED with every resource failed, written as such. -/
def JournalEntry.asFailed (e : JournalEntry) : JournalEntry :=
  if e.ok && decide (e.result ≠ 0) then e
  else ({ e with w0 := (e.w0 &&& 0xFFFF00FFFFFFFFFF) ||| 0x20000000000, w2 := stepMask e.step } : JournalEntry).sealed

/-- Clears the count of every required step; an entry that is RUNNING or whose check does not match stays one that failed (R417, R418). -/
def Boot.clearCounts (b : Boot) : Boot :=
  { b with journal := (List.range 64).foldl (fun m k =>
      let e := b.entry k
      SMap.set JournalEntry.init m k
        (if e.step = 0 || 12 < e.step || e.step = 8 || e.step = 10 then e
        else ({ e.asFailed with w3 := e.asFailed.w3 &&& 0xFFFFFFFF0000FFFF } : JournalEntry).sealed)) [] }

/-- Puts an entry into the next slot, or over the one just written. -/
def Boot.append (b : Boot) (e : JournalEntry) : Boot :=
  { b with journal := SMap.set JournalEntry.init b.journal b.journalAt e, journalAt := (b.journalAt + 1) % 64 }
def Boot.amend (b : Boot) (e : JournalEntry) : Boot := { b with journal := SMap.set JournalEntry.init b.journal ((b.journalAt + 63) % 64) e }

/-- The start number after the journal's highest. -/
def Boot.nextStart (b : Boot) : BitVec 32 :=
  BitVec.ofNat 32 ((List.range 64).foldl (fun x k => max x (b.entry k).start) 0 + 1)

/-! ### Identity (R413) -/

/-- The 32-byte ξ of the identity key pair: SHAKE256 of the seed and "KX-ID". -/
def Boot.xi (b : Boot) : List Byte := (shake (b.seed ++ [0x4B, 0x58, 0x2D, 0x49, 0x44])).take 32

/-- The identity public key, a signature by the identity key, and the device ID. -/
def Boot.identityKey (b : Boot) : List Byte := fit 1952 (Config.publicKey b.xi)
def Boot.sign (b : Boot) (m : List Byte) : List Byte := fit 3309 (Config.signature b.xi m)
def Boot.deviceId (b : Boot) : List Byte := (shake b.identityKey).take 16

/-! ### Evidence (R423) -/

/-- The digest of the image of a kind that ran, or zeros. -/
def Boot.digest (b : Boot) (kind : Nat) : List Byte :=
  match SMap.get 0 b.used kind with
  | 1 => shake (b.signedPart kind false ++ b.bytesAt (slotBase kind false + 64 + b.bodyLen kind false) 5261)
  | 2 => shake (b.signedPart kind true ++ b.bytesAt (slotBase kind true + 64 + b.bodyLen kind true) 5261)
  | _ => List.replicate 64 0

/-- n bytes of registers, 8 at a time. -/
def regBytes (f : Nat → W64) (n : Nat) : List Byte := (List.range (n / 8)).flatMap fun i => toBytes 8 (f (8 * i)).toNat

/-- The signed part of the evidence. -/
def State.evidenceBody (s : State) (nonce : List Byte) : List Byte :=
  let b := s.boot
  let rec_ := decide (s.power = .recovery)
  let zero (n : Nat) : List Byte := List.replicate n 0
  let table := (List.range 256).flatMap fun i =>
    let r := SMap.get ⟨false, false, 0, 0⟩ s.regions i
    toBytes 8 (r.reg false).toNat ++ toBytes 8 (r.reg true).toNat
  toBytes 8 (1 + 5773 * 2 ^ 16 + (if rec_ then 2 ^ 32 else 0) + b.differently.toNat * 2 ^ 33) ++ toBytes 8 b.startNo.toNat ++
    toBytes 8 s.chiptime.toNat ++ zero 40 ++ nonce ++ (b.deviceId ++ zero 16) ++
    (b.digest 1 ++ b.digest 2 ++ b.digest 3 ++ shake b.journalBytes) ++
    (if rec_ then zero 64 else regBytes s.resmap.reg 64) ++
    (if rec_ then zero 8 else toBytes 8 s.worldmap.toNat) ++ (shake table).take 56 ++ b.identityKey

/-- The evidence with its signature. -/
def State.evidenceOf (s : State) (nonce : List Byte) : List Byte :=
  let m := s.evidenceBody nonce
  m ++ s.boot.sign (shake m)

/-- The answer to a request for evidence. -/
def State.giveEvidence (s : State) (via : Transport) (nonce : List Byte) : State :=
  if nonce.length ≠ 32 then s.emit (.mctp via 4 []) else s.emit (.mctp via 0 (s.evidenceOf nonce))

/-- Whether one of Folkai's own slots verifies; where none does, the boot ROM alone runs (R418). -/
def Boot.folkaiGood (b : Boot) : Bool := b.verifies 1 false || b.verifies 1 true

/-- Whether requests on a path are served: those of R442 over I3C and PCIe, and in recovery mode the installation of images over the mailbox too;
without a Folkai image, images over I3C alone (R418). -/
def State.serves (s : State) (via : Transport) (image : Bool) : Bool :=
  match s.power with
  | .off => false
  | .up => decide (via ≠ .mailbox)
  | .recovery => if s.boot.folkaiGood then decide (via ≠ .mailbox) || image else decide (via = .i3c) && image

/-- Folkai answers a request that carries a 32-byte nonce, over MCTP or the host mailbox; one that arrives before step 12 has ended is answered after
it ends (R423). -/
def execEvidence (nonce : List Byte) (s : State) : Out :=
  let via := s.boot.via
  .next (match s.power with
    | .recovery => if s.boot.folkaiGood then s.giveEvidence via nonce else s
    | _ => if s.boot.step12 then s.giveEvidence via nonce
      else s.onBoot fun b => { b with requests := b.requests ++ [(via, nonce)] })

/-- The requests that waited for step 12 are answered. -/
def State.answerRequests (s : State) : State :=
  s.boot.requests.foldl (fun s r => s.giveEvidence r.1 r.2) (s.onBoot fun b => { b with requests := [] })

/-! ### The twelve steps (R414) -/

/-- The image kind that a step verifies. -/
def stepKind (n : Nat) : Option Nat := if n = 2 then some 1 else if n = 3 then some 2 else if n = 11 then some 3 else none

/-- The slot that the current start uses of a kind. -/
def Boot.usedSlot (b : Boot) (kind : Nat) : Bool := decide (SMap.get 0 b.used kind = 2)

/-- The first section of a type of the blob in use. -/
def Boot.useSection (b : Boot) (ty : Nat) : List Byte := ((b.blob (b.usedSlot 2)).bind fun l => sectionOf l ty).getD []

/-- The seed that the extractor recovers (R413). -/
def Boot.extract (b : Boot) (x : BootIn) : Option (List Byte) := (Config.extract (fit 8192 x.sram) b.helperData).map (fit 32)

/-- What a required step needs beside the physical part: a slot that verifies, for step 2 a seed that the extractor recovers, and for step 3 a
well-formed blob (R411 to R413). -/
def Boot.stepNeeds (b : Boot) (x : BootIn) (n : Nat) (mode : Bool) : Bool :=
  match stepKind n with
  | none => true
  | some k =>
    let slot := b.preferredSlot k != mode
    b.verifies k slot && (decide (n ≠ 2) || (b.extract x).isSome) && (decide (n ≠ 3) || (b.blob slot).isSome)

/-- A verified slot is the one that the start uses. -/
def Boot.use (b : Boot) (kind : Nat) (slot : Bool) : Boot :=
  ({ b with used := SMap.set 0 b.used kind (if slot then 2 else 1) }).setVerified kind slot true

/-- The blob section that a step reads (R412): the repair maps of the deck and of the cores, and the equalisation settings of the links. -/
def stepSection (n : Nat) : Option Nat := if n = 6 then some 2 else if n = 7 then some 3 else if n = 8 || n = 9 || n = 10 then some 4 else none

/-- A step reads its section of the blob in use. -/
def State.readSection (s : State) (n : Nat) : State :=
  match stepSection n with
  | some ty => s.onBoot fun b => { b with loaded := SMap.set [] b.loaded ty (b.useSection ty) }
  | none => s

/-- The blob's effect: RESMAP, the limits of the islands, which Folkai takes with their voltages, and a new version clears the marks. -/
def State.loadBlob (s : State) (slot : Bool) : State :=
  let s1 := s.onBoot fun b =>
    let v := b.imageVersion 2 slot
    let c := if v = b.blobVersion then b else b.clearMarks
    { c with blobVersion := v, loaded := SMap.set [] c.loaded 5 (c.useSection 5) }
  (List.range 32).foldl State.setVolt { s1 with resmap := (Resmap.ofBytes (s1.boot.useSection 1)).prune }

/-- Step 12 ends OK: the slots that ran are preferred, and the stored counters are raised (R411, R443). -/
def Boot.settleSlots (b : Boot) : Boot :=
  [1, 2, 3].foldl (fun b k =>
    let slot := b.usedSlot k
    { b with preferred := SMap.set false b.preferred k slot, counters := SMap.set 0 b.counters k (b.counterOf k slot) }) { b with step12 := true }

/-- The effect of a required step that completes. -/
def State.stepEffect (s : State) (x : BootIn) (n : Nat) (mode : Bool) : State :=
  let s1 := match stepKind n with
    | some k => s.onBoot fun b => b.use k (b.preferredSlot k != mode)
    | none => s
  match n with
  | 2 => s1.onBoot fun b => { b with seed := (b.extract x).getD [] }
  | 3 => s1.loadBlob (s1.boot.usedSlot 2)
  | 7 =>
    if mode then
      let m := Config.goodCores (SMap.get [] s1.boot.loaded 3)
      { s1 with resmap := { s1.resmap with dcores := s1.resmap.dcores &&& m.setWidth 512, scores := s1.resmap.scores &&& slice m 512 256 } }
    else s1
  | 11 => { s1 with worldmap := bitsAt (s1.boot.useSection 6) 4096 33, regions := regionsOf (s1.boot.useSection 6) }
  | _ => s1

/-- The largest multiple of 2 MiB that is at most 16/17 of an expander's capacity and at most 3.75 TiB (R385). -/
def farCapacity (n : Nat) : Nat := min (n * 16 / 17) 0x3C000000000 / 2 ^ 21 * 2 ^ 21

/-- The effect of a per-resource step: the resources failed or skipped are absent; ports that train enter HOLD, and CXL ports have their
capacity. -/
def State.resourceEffect (s : State) (x : BootIn) (n : Nat) (gone : W64) : State :=
  let r := s.resmap
  match n with
  | 8 =>
    let here := r.ports &&& ~~~(slice gone 0 36)
    (List.range 36).foldl (fun s k =>
      if here.getLsbD k then (s.onPort k fun p => { p with state := 1 }).linkTrained k (x.pkgPorts.getD k 0) else s)
      { s with resmap := { r with ports := here } }
  | 10 =>
    let here := r.cxl &&& ~~~(slice gone 0 2)
    { s with
      resmap := { r with cxl := here }
      farCap := (List.range 2).foldl (fun m k => SMap.set 0 m k (if here.getLsbD k then farCapacity (x.farCap.getD k 0) else 0)) [] }
  | _ => { s with resmap := ({ r with stackMask := r.stackMask &&& ~~~(slice gone 0 16) } : Resmap).prune }

/-- The resources that RESMAP still has for a per-resource step. -/
def Resmap.has (r : Resmap) (n : Nat) : W64 := if n = 8 then r.ports.setWidth 64 else if n = 10 then r.cxl.setWidth 64 else r.stackMask.setWidth 64

/-- Whether at least one stack attached to each die remains. -/
def Resmap.stacksEnough (r : Resmap) : Bool := decide (field r.stackMask 7 0 ≠ 0) && decide (field r.stackMask 15 8 ≠ 0)

/-- The start ends without the module running, or in recovery mode (R418), which enables nothing. -/
def State.startFails (s : State) : State := { s with power := .off }
def State.recover (s : State) : State :=
  { s with power := .recovery, resmap := Resmap.none, worldmap := 0, regions := [], farCap := [] }

/-- A start in progress: its state, and whether it goes on. -/
abbrev Start := State × Bool

/-- A required step that has run: FAILED ends the start. -/
def runRequired (s : State) (x : BootIn) (y : BootStepIn) (n : Nat) (j : Verdict) : Start :=
  let entry (result count : Nat) := mkEntry s.boot.startNo.toNat n result j.failed y.t0 y.t1 0 y.code count
  if y.ok && s.boot.stepNeeds x n j.failed then
    let s1 := (s.onBoot fun b => if j.failed then { b with differently := setBit b.differently (n - 1) true } else b).stepEffect x n j.failed
    let s2 := if n = 12 then s1.onBoot fun b => { b with lastEvidence := s1.evidenceOf (List.replicate 32 0) } else s1
    let s3 := s2.onBoot fun b => (if n = 12 then b.settleSlots else b).amend (entry 1 0)
    (if n = 12 then s3.answerRequests else s3, true)
  else ((s.onBoot fun b => b.amend (entry 2 (j.count + 1))).startFails, false)

/-- A per-resource step that has run: FAILED with new failures, SKIPPED when it only skips, else OK. Steps 4 and 5 end the start when a die has
no stack left. -/
def runResources (s : State) (x : BootIn) (y : BootStepIn) (n : Nat) (j : Verdict) (skip : W64) : Start :=
  let bad := y.failed &&& stepMask n &&& s.resmap.has n &&& ~~~skip
  let gone := skip ||| bad
  let s1 := s.resourceEffect x n gone
  let dead := (decide (n = 4) || decide (n = 5)) && !s1.resmap.stacksEnough
  let result := if dead || decide (bad ≠ 0) then 2 else if skip ≠ 0 then 3 else 1
  let count := if decide (bad ≠ 0) || dead then j.count + 1 else 0
  let s2 := s1.onBoot fun b => b.amend (mkEntry s.boot.startNo.toNat n result false y.t0 y.t1 gone y.code count)
  if dead then (s2.startFails, false) else (s2, true)

/-- Whether a step's failures count towards recovery mode: all but those of steps 8 and 10, which never fail as a whole, and for steps 4 and 5
those that left a die without a stack. -/
def Boot.halts (b : Boot) (r : Resmap) (n : Nat) (j : Verdict) : Bool :=
  decide (3 ≤ j.count) && j.failed &&
    (decide (stepMask n = 0) || ((decide (n = 4) || decide (n = 5)) && !({ r with stackMask := r.stackMask &&& ~~~(slice (b.marks n) 0 16) } : Resmap).stacksEnough))

/-- Step n of a start. A start whose description ends here is interrupted in this step: its entry stays RUNNING. -/
def bootStep (x : BootIn) (p : Start) (n : Nat) : Start :=
  if p.2 then
    let s := p.1.readSection n
    let j := s.boot.verdict n
    let differently := decide (stepMask n = 0) && j.failed
    let skip := s.boot.marks n
    if s.boot.halts s.resmap n j then (s.recover, false)
    else
      match x.steps[n - 1]? with
      | none => ((s.onBoot fun b => b.append (mkEntry s.boot.startNo.toNat n 0 differently x.cut 0 0 0 0)).startFails, false)
      | some y =>
        let s1 := s.onBoot fun b => b.append (mkEntry s.boot.startNo.toNat n 0 differently y.t0 0 0 0 0)
        if stepMask n = 0 then runRequired s1 x y n j else runResources s1 x y n j skip
  else p

/-- The state in which a start begins: everything but module flash, host memory and the other packages is as after power-on. -/
def State.powerOn (s : State) : State :=
  { State.reset with
    host := s.host, peers := s.peers, agenda := s.agenda, out := s.out, nextId := s.nextId, free := s.free
    boot :=
      let b := if s.boot.installed then s.boot.clearCounts else s.boot
      { b with
        startNo := b.nextStart, used := [], differently := 0, seed := [], session := none, staged := [], step12 := false, lastEvidence := [], installed := false, loaded := [] } }

/-- A module start (R414): the twelve steps in order. -/
def execModuleStart (x : BootIn) (s : State) : Out :=
  .next ((List.range 12).foldl (fun p k => bootStep x p (k + 1)) (s.powerOn, true)).1

/-! ### Worlds (R419 to R422) -/

/-- Whether a resident template places a node on a core of a group. -/
def Template.names (t : Template) (g : Nat) : Bool :=
  (List.range (tplNodes t.image)).any fun n =>
    let d := tplNode t.image n
    (List.range d.placeN).any fun i => decide (groupOf (tplCore t.image d i) = g)

/-- Whether a group has a bound context, or a resident template names it (and so does every launch on it). -/
def State.groupBusy (s : State) (g : Nat) : Bool :=
  (s.ctxs.any fun e => decide (e.2.st ≠ .unbound) && decide (groupOf (ctxOfKey e.1).core = g)) ||
  ([false, true].any fun d => (s.lathe d).templates.any fun e => match e.2 with
    | some t => t.names g
    | none => false)

/-- Whether a stream has a bound context or a launch. -/
def State.streamBusy (s : State) (i : StreamId) : Bool :=
  (s.ctxs.any fun e => decide (e.2.st ≠ .unbound) && decide (s.streamOf (ctxOfKey e.1) = i)) || (s.streamLaunch i).isSome

/-- Whether the Dovetail has a collective in flight. -/
def State.dovetailBusy (s : State) : Bool := s.cmds.any fun k => match k.job with
  | .coll _ => true
  | _ => false

/-- Zeros with good codes over a group's core stores and deck slice, and its blocks gone. -/
def State.wipeGroup (s : State) (g : Nat) : State :=
  let wipe (e : Nat × Core) : Option (Nat × Core) :=
    if groupOf (BitVec.ofNat 16 e.1) = g then
      let c : Core := { e.2 with store := Memory.empty, layers := [], writes := [] }
      if c = Core.init then none else some (e.1, c)
    else some e
  ({ s with cores := s.cores.filterMap wipe } : State).onGroup g fun k => { k with deck := Memory.empty, blocks := [] }

/-- Zeros with good codes over the device frames that a condition holds of. -/
def Memory.wipe (m : Memory) (p : Nat → Bool) : Memory :=
  { bytes := m.bytes.filter fun e => !p (e.1 / 4096), codeDiff := m.codeDiff.filter fun e => !p (e.1 / 128)
    poison := m.poison.filter fun e => !p (e.1 / 128) }

/-- A group's world changes, once what its contexts have left has performed: a passage from sealed to open wipes it first. -/
def State.groupWorld (s : State) (g : Nat) (w : Bool) : State :=
  if s.groupBusy g || s.orphans.any fun o => decide (groupOf o.ctx.core = g) then s
  else
    let s1 := if s.worldmap.getLsbD g && !w then s.wipeGroup g else s
    { s1 with worldmap := setBit s1.worldmap g w }

/-- A region changes: every layout unit drops its entries, as `ttinv.all` does, once no handover holds a line that this writes back (R451); and once
nothing that translated before is left to perform the change takes effect, with zeros in the frames that pass from sealed to open. -/
def State.regionWorld (s : State) (n : Nat) (r : Region) : State :=
  let s1 := s.dropScope fun _ _ _ => true
  if s.evictWaits s1 then s
  else if s1.usesScope fun _ _ _ => true then s1
  else
    let s2 := { s1 with regions := SMap.set ⟨false, false, 0, 0⟩ s1.regions n r }
    { s2 with dev := s2.dev.wipe fun f => s1.sealedFrame f && !s2.sealedFrame f }

/-- Folkai or the sealed runtime changes a world. -/
def execWorldChange (t : WorldTarget) (secured : Bool) (s : State) : Out :=
  .next (match t with
    | .cluster n => s.groupWorld n.toNat secured
    | .stack n => s.groupWorld (16 + n.toNat) secured
    | .dovetail => if s.dovetailBusy then s else { s with worldmap := setBit s.worldmap 32 secured }
    | .stream i => if s.streamBusy i then s else s.onStream i fun k => { k with ctl := setBit k.ctl 4 secured }
    | .region n valid base limit => s.regionWorld n.toNat ⟨valid, secured, base, limit⟩)

/-! ### Updates and health (R442, R443) -/

/-- Folkai's response. -/
def State.reply (s : State) (via : Transport) (status : Nat) : State := s.emit (.mctp via status [])

/-- The image that recovery mode has received, written to a slot that has been erased (R418). -/
def Boot.install (b : Boot) (k : Nat) : Boot :=
  let slot := b.target k
  let c := (b.erase (slotBase k slot) (slotSize k)).setVerified k slot false
  { c with flash := b.staged.foldl (fun m e => SMap.set 0 m (slotBase k slot + e.1) e.2) c.flash, staged := [] }

/-- UPDATE_BEGIN: one session at a time; the target slot is erased, but in recovery mode nothing is written before the image verifies (R418). -/
def execUpdateBegin (kind : BitVec 8) (len : BitVec 32) (s : State) : Out :=
  let via := s.boot.via
  let k := kind.toNat
  .next (if !s.serves via true then s
    else if s.boot.session.isSome then s.reply via 1
    else if k = 0 || 3 < k || slotSize k < len.toNat then s.reply via 4
    else (s.onBoot fun b =>
      let slot := b.target k
      if s.power = .recovery then { b with session := some (k, len.toNat), staged := [] }
      else { (b.erase (slotBase k slot) (slotSize k)).setVerified k slot false with session := some (k, len.toNat) }).reply via 0)

/-- UPDATE_DATA: 1 to 1,024 bytes within the length of the session, to the slot, or in recovery mode to what has been received. -/
def execUpdateData (off : BitVec 32) (bytes : List Byte) (s : State) : Out :=
  let via := s.boot.via
  .next (if !s.serves via true then s else match s.boot.session with
    | none => s.reply via 4
    | some (k, len) =>
      if bytes.length = 0 || 1024 < bytes.length || len < off.toNat + bytes.length then s.reply via 4
      else (s.onBoot fun b =>
        if s.power = .recovery then { b with staged := SMap.setList 0 b.staged off.toNat bytes }
        else { b with flash := SMap.setList 0 b.flash (slotBase k (b.target k) + off.toNat) bytes }).reply via 0)

/-- UPDATE_END: verifies the slot; on a failure its header is erased. In recovery mode it verifies what has been received, and writes the slot only when
that verifies (R418). -/
def execUpdateEnd (s : State) : Out :=
  let via := s.boot.via
  .next (if !s.serves via true then s else match s.boot.session with
    | none => s.reply via 4
    | some (k, _) =>
      let slot := s.boot.target k
      let recovering := decide (s.power = .recovery)
      let image := if recovering then s.boot.install k else s.boot
      let failed (b : Boot) : Boot := { (if recovering then b else b.erase (slotBase k slot) 64) with session := none, staged := [] }
      if !image.imageGood k slot then (s.onBoot failed).reply via 2
      else if !image.counterGood k slot then (s.onBoot failed).reply via 3
      else (s.onBoot fun b => { image.setVerified k slot true with session := none, installed := b.installed || recovering }).reply via 0)

/-- ACTIVATE: the verified slot that the current start does not use becomes preferred. -/
def execActivate (kind : BitVec 8) (s : State) : Out :=
  let via := s.boot.via
  let k := kind.toNat
  let slot := s.boot.target k
  .next (if !s.serves via false then s
    else if k = 0 || 3 < k || !s.boot.isVerified k slot then s.reply via 4
    else (s.onBoot fun b => { b with preferred := SMap.set false b.preferred k slot }).reply via 0)

/-- READ_JOURNAL. -/
def execReadJournal (s : State) : Out :=
  let via := s.boot.via
  .next (if s.serves via false then s.emit (.mctp via 0 s.boot.journalBytes) else s)

/-- CLEAR_MARKS. -/
def execClearMarks (s : State) : Out :=
  let via := s.boot.via
  .next (if s.serves via false then (s.onBoot Boot.clearMarks).reply via 0 else s)

end Sys2Proof.Machine
end

