-- ==== Sys2Proof/Machine/Power.lean ====
section
/-! DEFINITION. Machine/Power.lean: power and temperature samples, island frequencies, refresh derating and trips (R298, R299, R437 to R440),
and the loss of power (R417, R439). -/

namespace Sys2Proof.Machine

/-! ### Records -/

/-- An error-log record of causes 7 to 9 (R439). -/
def State.logEvent (s : State) (cause st word2 : Nat) : State :=
  let s1 := s.logRecord (s.logWords cause false st 0 0 0 word2 0 0)
  { s1 with log := { s1.log with seqNo := s1.log.seqNo + 1 } }

/-! ### Power off -/

/-- All work in flight is lost: what is left is module flash with the journal and the protected partition, host memory and the other packages
(R410, R417, R439). -/
def State.losePower (s : State) : State :=
  { State.reset with
    power := .off, host := s.host, peers := s.peers, agenda := s.agenda, out := s.out, nextId := s.nextId, free := s.free
    boot := { s.boot with session := none, staged := [], step12 := false, seed := [], loaded := [], requests := [] } }

/-- The module's supply is lost. -/
def execPowerLoss (s : State) : Out := .next s.losePower

/-! ### Samples (R437 to R440) -/

/-- The mean of a measure over samples. -/
def mean (l : List Sensors) (f : Sensors → Nat) : Nat := (l.map f).sum / max 1 l.length

/-- The averages of samples: entry by entry (R438). -/
def averages (l : List Sensors) : Sensors :=
  let each (n : Nat) (f : Sensors → List Nat) : List Nat := (List.range n).map fun i => mean l fun x => (f x).getD i 0
  ⟨mean l (·.modulePower), each 2 (·.diePower), each 2 (·.dieTemp), each 32 (·.islandPower), each 32 (·.islandTemp), each 16 (·.stackPower),
    each 16 (·.dramTemp)⟩

/-- The registers and counters of island i after a sample: power times 100 µs is energy, 10 mW times 100 µs being 1 µJ; a throttled island counts
100 µs; the power register shows the average over the last 1 ms. -/
def State.sampleIsland (s : State) (x : Sensors) (i : Nat) : State :=
  let p := x.islandPower.getD i 0
  let e := SMap.get 0 s.energy i + p
  let s1 := { s with energy := SMap.set 0 s.energy i e, telemetry := SMap.set 0 s.telemetry (0x100 + 8 * i) (e / 1000) }
  let s2 := if (s.island i).throttled then s1.tally (0x200 + 8 * i) 100 else s1
  s2.onIsland i fun k => { k with
    power := s.sample.islandPower.getD i 0 % 2 ^ 16, temp := x.islandTemp.getD i 0 % 2 ^ 16, dramtemp := if 16 ≤ i then x.dramTemp.getD (i - 16) 0 % 2 ^ 16 else 0 }

/-- TREFI of a stack changes: its deadlines are those of the new TREFI, and the guard refreshes at once every set that this brings into the past
(R299, R439). -/
def State.setTrefi (s : State) (st new : Nat) : State :=
  let old := (s.stack st).trefi
  let s1 := (s.onStack st fun k => { k with trefi := new }).onIsland (16 + st) fun k => { k with derated := decide (new = 1950) }
  let s2 := (List.range 32).foldl (fun s ch => s.onChannel st ch fun k =>
    { k with deadline := (List.range 4).foldl (fun m j => SMap.set 0 m j (SMap.get 0 k.deadline j + new - old)) [] }) s1
  let s3 := (List.range 32).foldl (fun t ch => (List.range 4).foldl (fun t j =>
    if SMap.get 0 (t.channel st ch).deadline j < t.chip && decide (s.chip ≤ SMap.get 0 (s.channel st ch).deadline j) then t.refreshSet st ch j
    else t) t) s2
  s3.logEvent 7 st new

/-- A stack whose DRAM is at or below 83.0 °C is so from its first such sample on (R439). -/
def Folkai.cool (f : Folkai) (x : Sensors) (st now : Nat) : Folkai :=
  let since := if x.dramTemp.getD st 0 ≤ 830 then (SMap.get none f.coolFrom st).or (some now) else none
  { f with coolFrom := SMap.set none f.coolFrom st since }

/-- Whether a stack's DRAM has been at or below 83.0 °C for 10 ms. -/
def Folkai.coolLong (f : Folkai) (st now : Nat) : Bool :=
  match SMap.get none f.coolFrom st with
  | some t => decide (t + 10000000 ≤ now)
  | none => false

/-- Refresh derating of a stack by its DRAM temperature (R439). -/
def State.derate (s : State) (x : Sensors) (st : Nat) : State :=
  let t := (s.stack st).trefi
  let s1 : State := { s with folkai := s.folkai.cool x st s.chip }
  if 850 < x.dramTemp.getD st 0 && decide (t ≠ 1950) then s1.setTrefi st 1950
  else if s1.folkai.coolLong st s.chip && decide (t = 1950) then s1.setTrefi st 3900
  else s1

/-- The stack that trips, or a compute die (R439). -/
def tripOf (x : Sensors) : Option Nat :=
  match (List.range 16).find? fun st => decide (1050 ≤ x.dramTemp.getD st 0) with
  | some st => some st
  | none => if x.dieTemp.any fun t => decide (1100 ≤ t) then some 0 else none

/-- A sample, every 100 µs (R438, R439): the averages of the last millisecond, island registers, energy, derating, and a trip, which writes its
record and removes every rail. -/
def State.takeSample (s : State) (x : Sensors) : State :=
  let l := (x :: s.folkai.samples).take 10
  let s0 : State := { s with sample := averages l, folkai := { s.folkai with samples := l, sampleAt := s.chip } }
  let s1 := (List.range 32).foldl (fun s i => s.sampleIsland x i) s0
  let s2 := (List.range 16).foldl (fun s st => s.derate x st) s1
  match tripOf x with
  | some st => (s2.logEvent 9 st 0).losePower
  | none => s2

def execPowerSample (x : Sensors) (s : State) : Out := .next (if s.chip < s.folkai.sampleAt + 100000 then s else s.takeSample x)

/-! ### Frequencies (R438) -/

/-- The measures of a domain with their limits: module, the island's compute die, or its stack. -/
def moduleRow (x : Sensors) : List (Nat × Nat) := [(x.modulePower, 330000)]
def islandRow (x : Sensors) (i : Nat) : List (Nat × Nat) :=
  if i < 16 then [(x.diePower.getD (i / 8) 0, 105000), (x.dieTemp.getD (i / 8) 0, 1000)]
  else [(x.stackPower.getD (i - 16) 0, 6000), (x.islandPower.getD i 0, 4000), (x.dramTemp.getD (i - 16) 0, 950)]

/-- A domain in excess, and one whose every measure is below 95% of its limit. -/
def inExcess (l : List (Nat × Nat)) : Bool := l.any fun e => decide (e.2 < e.1)
def wellBelow (l : List (Nat × Nat)) : Bool := l.all fun e => decide (100 * e.1 < 95 * e.2)

/-- The frequency that a row gives an island, in steps of 100 MHz (R437): one above its cap comes down too. -/
def rowFreq (rise : Bool) (k : Island) (l : List (Nat × Nat)) : Nat :=
  if rise then (if wellBelow l then max k.freq (min (k.freq + 100) k.cap) else k.freq)
  else if inExcess l || decide (k.cap < k.freq) then max 500 (k.freq - 100) else k.freq

/-- An island's next frequency: the lower of its two rows' results. -/
def nextFreq (rise : Bool) (x : Sensors) (i : Nat) (k : Island) : Nat := min (rowFreq rise k (moduleRow x)) (rowFreq rise k (islandRow x i))

/-- Whether the limits hold island i where it is: a domain of it is in excess, or not far enough below its limits to rise (R438). -/
def held95 (x : Sensors) (i : Nat) : Bool := !(wellBelow (moduleRow x) && wellBelow (islandRow x i))

/-- Island i at a boundary: throttled while below cap because of a limit (R437). -/
def Island.adjust (rise : Bool) (x : Sensors) (i : Nat) (k : Island) : Island :=
  let f := nextFreq rise x i k
  { k with freq := f, throttled := decide (f < k.cap) && (k.throttled || decide (f < k.freq) || held95 x i) }

/-- The records of changed throttled bits: one for the module when every island's changes, else one for each island (log entry 37). -/
def State.logThrottles (s : State) (l : List Nat) : State :=
  if l.length = 32 then s.logEvent 8 0 0xFF else l.foldl (fun s i => s.logEvent 8 (if 16 ≤ i then i - 16 else 0) i) s

/-- The islands whose throttled bits two states differ in. -/
def State.throttleChanges (s t : State) : List Nat := (List.range 32).filter fun i => (s.island i).throttled != (t.island i).throttled

/-- Every island takes its next frequency and its voltage. -/
def State.adjustAll (s : State) (rise : Bool) : State :=
  let s1 := (List.range 32).foldl (fun s i => (s.onIsland i (Island.adjust rise s.sample i)).setVolt i) s
  s1.logThrottles (s.throttleChanges s1)

/-- Whether a boundary of n nanoseconds of chip time has passed since a chip time. -/
def boundary (n now last : Nat) : Bool := decide (last / n < now / n)

/-- At each 1 ms Folkai lowers the domains in excess, at each 10 ms it raises those well below their limits (R438). -/
def execFrequencyAdjust (rise : Bool) (s : State) : Out :=
  let n := if rise then 10000000 else 1000000
  .next (if boundary n s.chip (if rise then s.folkai.riseAt else s.folkai.lowerAt) then
      ({ s with folkai := if rise then { s.folkai with riseAt := s.chip } else { s.folkai with lowerAt := s.chip } } : State).adjustAll rise
    else s)

/-- SET_CAP (R442): 500 to 2,000 in steps of 100, for islands 0 to 31. An island above its new cap comes down in steps of 100 MHz (R437); one that
is no longer below its cap is no longer throttled, and one that a limit holds below a raised cap is, which is recorded (R437, R439). -/
def State.setCap (s : State) (i m : Nat) : State :=
  let s1 := s.onIsland i fun k => { k with cap := m, throttled := decide (k.freq < m) && (k.throttled || held95 s.sample i) }
  s1.logThrottles (s.throttleChanges s1)

def execSetCap (island : BitVec 8) (mhz : BitVec 16) (s : State) : Out :=
  let via := s.boot.via
  let m := mhz.toNat
  .next (if !s.serves via false then s
    else if 32 ≤ island.toNat || m < 500 || 2000 < m || m % 100 ≠ 0 then s.emit (.mctp via 4 [])
    else (s.setCap island.toNat m).emit (.mctp via 0 []))

end Sys2Proof.Machine
end

