-- ==== Sys2Proof/Machine/Service.lean ====
section
/-! DEFINITION. Machine/Service.lean: records held behind full queues (R376, R402), deck tag errors (R154, R404), repair windows and the
REPWAIT cap (R408, R409). -/

namespace Sys2Proof.Machine

/-! ### Held records (R376, R402) -/

/-- Writes an address space's held records, oldest first, while its queue has room. -/
def State.flushFaults (s : State) (asid : BitVec 11) : Nat → State
  | 0 => s
  | n + 1 =>
    match s.space asid with
    | none => s
    | some a =>
      match a.held with
      | [] => s
      | (_, rec) :: rest =>
        match s.queueRecord a.args.fqHost a.args.fq.toNat a.args.fqLog.toNat a.produced rec with
        | none => s
        | some s1 =>
          (((s1.onSpace asid fun a => { a with produced := a.produced + 1, held := rest }).queueHeld a.args.fqHost a.args.fq.toNat
            rest.length).notify a (a.produced + 1)).flushFaults asid n

/-- The address space in whose queue a context's held record belongs. -/
def State.heldSpace (s : State) (c : CtxId) : Option (BitVec 11) :=
  s.spaces.findSome? fun e => match e.2 with
    | some a => if a.held.any fun h => decide (h.1 = c.key) then some (BitVec.ofNat 11 e.1) else none
    | none => none

/-- A context's held record re-reads the consumer count of its full queue (R376). -/
def execFaultQueueRetry (c : CtxId) (s : State) : Out :=
  .next (match s.heldSpace c with
    | none => s
    | some asid => s.flushFaults asid (match s.space asid with
      | some a => a.held.length
      | none => 0))

/-- Writes the held error-log records, oldest first, while the log has room. -/
def State.flushLog (s : State) : Nat → State
  | 0 => s
  | n + 1 =>
    match s.log.held with
    | [] => s
    | rec :: rest =>
      match s.tryLog rec with
      | none => s
      | some s1 => (({ s1 with log := { s1.log with held := rest } }).logHeld).flushLog n

/-- The held error-log records re-read the consumer count of the full log (R402). -/
def execErrorLogRetry (s : State) : Out := .next (s.flushLog s.log.held.length)

/-! ### Deck tag errors (R154, R404) -/

/-- The home sectors of a block's dirty lines are poisoned, and their frames retired with cause 2, each with one record that names the bank of its
lowest dirty line (R402, R404). -/
def State.poisonLines (s : State) (b : DeckBlock) : State :=
  let at_ (a : Nat) : Loc := ⟨.dev a, b.key⟩
  let addrs := sortBy id (b.dirty.flatMap fun n => (List.range 4).map fun i => b.addr + 128 * n + 32 * i)
  let s1 := addrs.foldl (fun s a => s.putHome (at_ a) { s.atHome (at_ a) with poison := true }) s
  let frames := (addrs.map (· / 4096)).eraseDups
  (frames.filterMap fun f => addrs.find? fun a => decide (a / 4096 = f)).foldl (fun s a => s.retire (at_ a) true 2 0) s1

/-- Whether a block command's write-back meets the error in a block: an `lbe` of it, or an `lb` that evicts it; one that allocates nothing evicts none
(R280). -/
def State.meets (s : State) (g : Nat) (b : DeckBlock) (k : Cmd) : Bool :=
  match k.job with
  | .evict h _ tensor tile first => decide (h / 8 = g / 8) && decide ((s.lineAddr k tensor tile first).1 = b.addr)
  | .block h part tensor tile first count =>
    let a := (s.lineAddr k tensor tile first).1
    let e := s.evictDie (decide (8 ≤ h)) fun x => decide (x.addr < a + 128 * count) && decide (a < x.addr + 128 * x.count)
    let r := e.2.makeRoom h (e.2.partFor h part) count ((e.2.group h).blocks.length + 1)
    decide (h / 8 = g / 8) && s.allocates k h part tensor tile first count && !(r.2.group g).blocks.any fun x => decide (x.order = b.order)
  | _ => false

/-- An error in the tag of a cluster's block, named by its number in allocation order: a correctable one is counted; an uncorrectable one drops
the block, and where it holds dirty lines poisons their home sectors and retires their frames. -/
def execDeckTagError (group block : Nat) (correctable : Bool) (s : State) : Out :=
  .next (match (s.group group).blocks.find? fun b => decide (b.order = block) with
    | none => s
    | some b =>
      if correctable then s.tally 0x628 1
      else
        let hit := if b.dirty.isEmpty then [] else (s.cmds.filter (s.meets group b)).map (·.id)
        let s1 := if b.dirty.isEmpty then s else s.poisonLines b
        let s2 := s1.onGroup group fun g => { g with blocks := g.blocks.filter fun x => decide (x.order ≠ block) }
        { s2 with cmds := s2.cmds.map fun k => if hit.contains k.id then { k with count := k.count + 1 } else k })

/-! ### Repair windows (R408, R409) -/

/-- A repair that waits: stack, channel, bank, whether it is of a row, and the row or column group. -/
structure Repair where
  st : Nat
  ch : Nat
  bank : Nat
  row : Bool
  n : Nat
deriving DecidableEq, Repr

/-- The stacks of a die. -/
def stacksOf (die : Bool) : List Nat := (List.range 8).map fun i => (if die then 8 else 0) + i

/-- The repairs pending on a die, in ascending stack, channel and bank. -/
def State.repairs (s : State) (die : Bool) : List Repair :=
  (stacksOf die).flatMap fun st => (List.range 32).flatMap fun ch => (List.range 16).flatMap fun b =>
    ((s.stack st).bank ch b).pending.map fun r => ⟨st, ch, b, r.1, r.2⟩

/-- Whether an error lies in what a repair replaces. -/
def Repair.covers (r : Repair) (e : CellError) : Bool :=
  decide (e.channel = r.ch) && decide (e.bank = r.bank) && if r.row then decide (e.row = r.n) else decide (e.column = r.n)

/-- The errors that a repair covers. -/
def State.repairErrors (s : State) (r : Repair) : List CellError := (s.stack r.st).errors.filter r.covers

/-- The sectors that ECC cannot recover take poison. -/
def State.poisonErrors (s : State) (st : Nat) (l : List CellError) : State :=
  (l.filter fun e => !e.correctable).foldl (fun s e =>
    let a := rowAddr st e.channel e.bank e.row + 32 * e.sector
    s.setHomeSector (.dev a) { s.homeSector (.dev a) with poison := true }) s

/-- The bank has a spare and a remap entry for a repair (R405, R409). -/
def BankMode.canRepair (b : BankMode) (row : Bool) : Bool :=
  decide (b.rows + b.cols < 32) && if row then decide (b.rows < 32) else decide (b.cols < 4)

/-- A bank after a repair, which is no longer pending: the errors met in what it replaces count no more (R407). -/
def BankMode.repaired (b : BankMode) (row : Bool) (n : Nat) : BankMode :=
  { b with
    pending := b.pending.filter fun r => decide (r ≠ (row, n))
    found := b.found.filter fun e => decide ((if row then e.1 else e.2) ≠ n)
    ueRows := if row then SMap.set false b.ueRows n false else b.ueRows
    lastFixed := if row then SMap.set false b.lastFixed n false else b.lastFixed }

/-- A repair into a spare: copied through ECC, remapped, and recorded with cause 5 or 6 and the sectors that took poison (R402, R408). -/
def State.repairInto (s : State) (r : Repair) : State :=
  let es := s.repairErrors r
  let s1 := s.poisonErrors r.st es
  let s2 := (s1.onStack r.st fun k => { k with errors := k.errors.filter fun e => !r.covers e }).onBank r.st r.ch r.bank fun b =>
    let b1 := b.repaired r.row r.n
    { b1 with rows := if r.row then b.rows + 1 else b.rows, cols := if r.row then b.cols else b.cols + 1 }
  let row := if r.row then r.n else 0
  let bad := ((es.filter fun e => !e.correctable).map fun e => (e.row, e.sector)).eraseDups.length
  let s3 := s2.logRecord (s2.logWords (if r.row then 5 else 6) false r.st r.ch r.bank (rowAddr r.st r.ch r.bank row / 4096 * 4096) row bad 0)
  { s3 with log := { s3.log with seqNo := s3.log.seqNo + 1 } }

/-- The rows whose frames a repair without a spare retires: the row, or of a column group every row of the bank, through all of which the column runs
(R409). -/
def Repair.rows (r : Repair) : List Nat := if r.row then [r.n] else List.range 65536

/-- A repair without a spare: the frames are retired with cause 3, the bank is DEGRADED and leaves its channel's lease (R409). -/
def State.degrade (s : State) (r : Repair) : State :=
  let s1 := s.poisonErrors r.st (s.repairErrors r)
  let s2 := r.rows.foldl (fun s row => s.retire ⟨.dev (rowAddr r.st r.ch r.bank row), none⟩ false 3 0) s1
  (s2.onBank r.st r.ch r.bank fun b =>
    { b with pending := b.pending.filter fun p => decide (p ≠ (r.row, r.n)), degraded := true }).onChannel r.st r.ch fun k =>
    { k with lease := setBit k.lease (14 + r.bank) false, handover := k.handover.map fun v => setBit v (14 + r.bank) false }

/-- One repair. -/
def State.repair (s : State) (r : Repair) : State :=
  if ((s.stack r.st).bank r.ch r.bank).canRepair r.row then s.repairInto r else s.degrade r

/-- Whether no step of a die is open and no task of it runs. -/
def State.idleDie (s : State) (die : Bool) : Bool :=
  (s.lathe die).launches.all (fun l => l.steps.isEmpty) &&
    s.ctxs.all fun e => !(e.2.hasTask && (dieOf (ctxOfKey e.1).core == die) && decide (e.2.st ≠ .lost) && decide (e.2.st ≠ .preempted))

/-- Every set of a die's stacks whose deadline falls within n nanoseconds is refreshed. -/
def State.refreshWithin (s : State) (die : Bool) (n : Nat) : State :=
  (stacksOf die).foldl (fun s st => (List.range 32).foldl (fun s ch => (List.range 4).foldl (fun s j =>
    if SMap.get 0 (s.channel st ch).deadline j ≤ s.chip + n then s.refreshSet st ch j else s) s) s) s

/-- THE REPAIR WINDOW of an idle die (R408): its repairs run, at most 4 µs each, and steps open again. -/
def execRepairWindow (die : Bool) (s : State) : Out :=
  .next (if (s.lathe die).holds s.chip && s.idleDie die then
      let rs := s.repairs die
      let s1 := (rs.foldl State.repair s).refreshWithin die (4000 * rs.length)
      s1.onLathe die fun l => { l with repwaitFrom := if (s1.repairs die).isEmpty then none else some s.chip, openUntil := 0 }
    else s)

/-- The REPWAIT cap expires: steps open again until another REPWAIT has passed (R408). -/
def execRepwaitExpire (die : Bool) (s : State) : Out :=
  let w := s.repwait.toNat * 1000
  .next (match (s.lathe die).repwaitFrom with
    | some t =>
      if (s.lathe die).holds s.chip && decide (t + w ≤ s.chip) then
        s.onLathe die fun l => { l with repwaitFrom := some (s.chip + w), openUntil := s.chip + w }
      else s
    | none => s)

end Sys2Proof.Machine
end

