-- ==== Sys2Proof/Machine/Dispatch.lean ====
section
/-! DEFINITION. Machine/Dispatch.lean: one arm per operation. -/

namespace Sys2Proof.Machine

/-- The meaning of every operation. -/
def exec (i : Instr) (s : State) : Host.Outcome State Fault Refusal :=
  match i with
  | .add o => Sys2Proof.Machine.execAdd o s
  | .addImm o => Sys2Proof.Machine.execAddImm o s
  | .sub o => Sys2Proof.Machine.execSub o s
  | .subImm o => Sys2Proof.Machine.execSubImm o s
  | .mul o => Sys2Proof.Machine.execMul o s
  | .mulImm o => Sys2Proof.Machine.execMulImm o s
  | .mulh o => Sys2Proof.Machine.execMulh o s
  | .mulhImm o => Sys2Proof.Machine.execMulhImm o s
  | .mulhu o => Sys2Proof.Machine.execMulhu o s
  | .mulhuImm o => Sys2Proof.Machine.execMulhuImm o s
  | .and o => Sys2Proof.Machine.execAnd o s
  | .andImm o => Sys2Proof.Machine.execAndImm o s
  | .or o => Sys2Proof.Machine.execOr o s
  | .orImm o => Sys2Proof.Machine.execOrImm o s
  | .xor o => Sys2Proof.Machine.execXor o s
  | .xorImm o => Sys2Proof.Machine.execXorImm o s
  | .andn o => Sys2Proof.Machine.execAndn o s
  | .andnImm o => Sys2Proof.Machine.execAndnImm o s
  | .shl o => Sys2Proof.Machine.execShl o s
  | .shlImm o n => Sys2Proof.Machine.execShlImm o n s
  | .shr o => Sys2Proof.Machine.execShr o s
  | .shrImm o n => Sys2Proof.Machine.execShrImm o n s
  | .sar o => Sys2Proof.Machine.execSar o s
  | .sarImm o n => Sys2Proof.Machine.execSarImm o n s
  | .rot o => Sys2Proof.Machine.execRot o s
  | .rotImm o n => Sys2Proof.Machine.execRotImm o n s
  | .min o => Sys2Proof.Machine.execMin o s
  | .minImm o => Sys2Proof.Machine.execMinImm o s
  | .max o => Sys2Proof.Machine.execMax o s
  | .maxImm o => Sys2Proof.Machine.execMaxImm o s
  | .minu o => Sys2Proof.Machine.execMinu o s
  | .minuImm o => Sys2Proof.Machine.execMinuImm o s
  | .maxu o => Sys2Proof.Machine.execMaxu o s
  | .maxuImm o => Sys2Proof.Machine.execMaxuImm o s
  | .clz o => Sys2Proof.Machine.execClz o s
  | .ctz o => Sys2Proof.Machine.execCtz o s
  | .popc o => Sys2Proof.Machine.execPopc o s
  | .bext o sgn pos len1 => Sys2Proof.Machine.execBext o sgn pos len1 s
  | .bins o pos len1 => Sys2Proof.Machine.execBins o pos len1 s
  | .sext o n1 => Sys2Proof.Machine.execSext o n1 s
  | .zext o n1 => Sys2Proof.Machine.execZext o n1 s
  | .abs o => Sys2Proof.Machine.execAbs o s
  | .sel o neg p => Sys2Proof.Machine.execSel o neg p s
  | .mov o => Sys2Proof.Machine.execMov o s
  | .li g d imm => Sys2Proof.Machine.execLi g d imm s
  | .lih o => Sys2Proof.Machine.execLih o s
  | .cmp g d a b cond => Sys2Proof.Machine.execCmp g d a b cond s
  | .cmpImm g d a imm cond => Sys2Proof.Machine.execCmpImm g d a imm cond s
  | .pand o => Sys2Proof.Machine.execPand o s
  | .por o => Sys2Proof.Machine.execPor o s
  | .pxor o => Sys2Proof.Machine.execPxor o s
  | .pnot g d a => Sys2Proof.Machine.execPnot g d a s
  | .pmov g d a => Sys2Proof.Machine.execPmov g d a s
  | .pset g d v => Sys2Proof.Machine.execPset g d v s
  | .br g c n disp => Sys2Proof.Machine.execBr g c n disp s
  | .jmp g disp => Sys2Proof.Machine.execJmp g disp s
  | .call g a disp => Sys2Proof.Machine.execCall g a disp s
  | .ret g a => Sys2Proof.Machine.execRet g a s
  | .jr o => Sys2Proof.Machine.execJr o s
  | .bsw g a n1 disp => Sys2Proof.Machine.execBsw g a n1 disp s
  | .chk g file a disp => Sys2Proof.Machine.execChk g file a disp s
  | .loop g lc1 disp => Sys2Proof.Machine.execLoop g lc1 disp s
  | .lea o sh => Sys2Proof.Machine.execLea o sh s
  | .leaImm o => Sys2Proof.Machine.execLeaImm o s
  | .madd o => Sys2Proof.Machine.execMadd o s
  | .maddImm o => Sys2Proof.Machine.execMaddImm o s
  | .cinc o k => Sys2Proof.Machine.execCinc o k s
  | .cincImm o k => Sys2Proof.Machine.execCincImm o k s
  | .rotinit g n => Sys2Proof.Machine.execRotinit g n s
  | .stg g a imm => Sys2Proof.Machine.execStg g a imm s
  | .lpr g d n => Sys2Proof.Machine.execLpr g d n s
  | .csrr g d csr => Sys2Proof.Machine.execCsrr g d csr s
  | .csrw o => Sys2Proof.Machine.execCsrw o s
  | .csrs o => Sys2Proof.Machine.execCsrs o s
  | .csrc o => Sys2Proof.Machine.execCsrc o s
  | .trap g code => Sys2Proof.Machine.execTrap g code s
  | .brk g code => Sys2Proof.Machine.execBrk g code s
  | .dpset g a ring => Sys2Proof.Machine.execDpset g a ring s
  | .ttinv g a b ring kind => Sys2Proof.Machine.execTtinv g a b ring kind s
  | .ownset g a b count1 => Sys2Proof.Machine.execOwnset g a b count1 s
  | .vAdd o => Sys2Proof.Machine.execVAdd o s
  | .vSub o => Sys2Proof.Machine.execVSub o s
  | .vMul o => Sys2Proof.Machine.execVMul o s
  | .vFma o => Sys2Proof.Machine.execVFma o s
  | .vFms o => Sys2Proof.Machine.execVFms o s
  | .vFnma o => Sys2Proof.Machine.execVFnma o s
  | .vMin o => Sys2Proof.Machine.execVMin o s
  | .vMax o => Sys2Proof.Machine.execVMax o s
  | .vAbs o => Sys2Proof.Machine.execVAbs o s
  | .vNeg o => Sys2Proof.Machine.execVNeg o s
  | .vDot4 o => Sys2Proof.Machine.execVDot4 o s
  | .vCmp o => Sys2Proof.Machine.execVCmp o s
  | .vSel o => Sys2Proof.Machine.execVSel o s
  | .vAnd o => Sys2Proof.Machine.execVAnd o s
  | .vOr o => Sys2Proof.Machine.execVOr o s
  | .vXor o => Sys2Proof.Machine.execVXor o s
  | .vNot o => Sys2Proof.Machine.execVNot o s
  | .vShl o => Sys2Proof.Machine.execVShl o s
  | .vShr o => Sys2Proof.Machine.execVShr o s
  | .vSar o => Sys2Proof.Machine.execVSar o s
  | .vCvt o => Sys2Proof.Machine.execVCvt o s
  | .vPack o => Sys2Proof.Machine.execVPack o s
  | .vUnpack o => Sys2Proof.Machine.execVUnpack o s
  | .vExp2 o => Sys2Proof.Machine.execVExp2 o s
  | .vLog2 o => Sys2Proof.Machine.execVLog2 o s
  | .vRcp o => Sys2Proof.Machine.execVRcp o s
  | .vRsqrt o => Sys2Proof.Machine.execVRsqrt o s
  | .vSqrt o => Sys2Proof.Machine.execVSqrt o s
  | .vTanh o => Sys2Proof.Machine.execVTanh o s
  | .vRadd o => Sys2Proof.Machine.execVRadd o s
  | .vRmax o => Sys2Proof.Machine.execVRmax o s
  | .vRmin o => Sys2Proof.Machine.execVRmin o s
  | .vSadd o => Sys2Proof.Machine.execVSadd o s
  | .vPerm o => Sys2Proof.Machine.execVPerm o s
  | .vShuf o => Sys2Proof.Machine.execVShuf o s
  | .vBcast o => Sys2Proof.Machine.execVBcast o s
  | .vSlide o => Sys2Proof.Machine.execVSlide o s
  | .vMov o => Sys2Proof.Machine.execVMov o s
  | .vMovi u m ty vd imm => Sys2Proof.Machine.execVMovi u m ty vd imm s
  | .vMand o => Sys2Proof.Machine.execVMand o s
  | .vMor o => Sys2Proof.Machine.execVMor o s
  | .vMxor o => Sys2Proof.Machine.execVMxor o s
  | .vMnot o => Sys2Proof.Machine.execVMnot o s
  | .dup => Sys2Proof.Machine.execDup s
  | .xs2v a vd all j => Sys2Proof.Machine.execXs2v a vd all j s
  | .xv2s d va j => Sys2Proof.Machine.execXv2s d va j s
  | .xm2s d m h => Sys2Proof.Machine.execXm2s d m h s
  | .xs2m a m h => Sys2Proof.Machine.execXs2m a m h s
  | .sld l va a => Sys2Proof.Machine.execSld l va a s
  | .szp l va a g => Sys2Proof.Machine.execSzp l va a g s
  | .sclr l a => Sys2Proof.Machine.execSclr l a s
  | .mma o => Sys2Proof.Machine.execMma o s
  | .mmr o => Sys2Proof.Machine.execMmr o s
  | .mzero g tile => Sys2Proof.Machine.execMzero g tile s
  | .mst o => Sys2Proof.Machine.execMst o s
  | .mld o => Sys2Proof.Machine.execMld o s
  | .mrd o => Sys2Proof.Machine.execMrd o s
  | .mwr o => Sys2Proof.Machine.execMwr o s
  | .ldc o => Sys2Proof.Machine.execLdc o s
  | .ldk o => Sys2Proof.Machine.execLdk o s
  | .ldd o => Sys2Proof.Machine.execLdd o s
  | .ldm o => Sys2Proof.Machine.execLdm o s
  | .ldf o => Sys2Proof.Machine.execLdf o s
  | .ldh o => Sys2Proof.Machine.execLdh o s
  | .ldw o => Sys2Proof.Machine.execLdw o s
  | .ldsw o => Sys2Proof.Machine.execLdsw o s
  | .ldsm o => Sys2Proof.Machine.execLdsm o s
  | .ldgc o => Sys2Proof.Machine.execLdgc o s
  | .stc o => Sys2Proof.Machine.execStc o s
  | .stk o => Sys2Proof.Machine.execStk o s
  | .std o => Sys2Proof.Machine.execStd o s
  | .stm o => Sys2Proof.Machine.execStm o s
  | .stf o => Sys2Proof.Machine.execStf o s
  | .sth o => Sys2Proof.Machine.execSth o s
  | .stsc o => Sys2Proof.Machine.execStsc o s
  | .amo o => Sys2Proof.Machine.execAmo o s
  | .cpy o => Sys2Proof.Machine.execCpy o s
  | .gx o => Sys2Proof.Machine.execGx o s
  | .wdef g w b n => Sys2Proof.Machine.execWdef g w b n s
  | .wadv g w n count1 => Sys2Proof.Machine.execWadv g w n count1 s
  | .lb g h b c ring count1 => Sys2Proof.Machine.execLb g h b c ring count1 s
  | .lbe g h b c ring => Sys2Proof.Machine.execLbe g h b c ring s
  | .coll o => Sys2Proof.Machine.execColl o s
  | .csig o => Sys2Proof.Machine.execCsig o s
  | .csigRing o => Sys2Proof.Machine.execCsigRing o s
  | .frp g a ty count1 => Sys2Proof.Machine.execFrp g a ty count1 s
  | .frt g pd sO sE lpT lpL lpS => Sys2Proof.Machine.execFrt g pd sO sE lpT lpL lpS s
  | .fru g sE sO => Sys2Proof.Machine.execFru g sE sO s
  | .fruSkip g sE => Sys2Proof.Machine.execFruSkip g sE s
  | .frs g sF sC sN ty lpS dis => Sys2Proof.Machine.execFrs g sF sC sN ty lpS dis s
  | .ract g ch bank a => Sys2Proof.Machine.execRact g ch bank a s
  | .rpre g ch all bank => Sys2Proof.Machine.execRpre g ch all bank s
  | .rld g rb ch bank => Sys2Proof.Machine.execRld g rb ch bank s
  | .rstw g rb ch bank => Sys2Proof.Machine.execRstw g rb ch bank s
  | .rref g ch set => Sys2Proof.Machine.execRref g ch set s
  | .awaitf d ring => Sys2Proof.Machine.execAwaitf d ring s
  | .rels ring => Sys2Proof.Machine.execRels ring s
  | .waitr spaces => Sys2Proof.Machine.execWaitr spaces s
  | .fence scope => Sys2Proof.Machine.execFence scope s
  | .bar cluster id count1 => Sys2Proof.Machine.execBar cluster id count1 s
  | .tend => Sys2Proof.Machine.execTend s
  | .yield n1 => Sys2Proof.Machine.execYield n1 s
  | .ckeq pred a b => Sys2Proof.Machine.execCkeq pred a b s
  | .wtime a rel => Sys2Proof.Machine.execWtime a rel s
  | .issueCycle core => Sys2Proof.Machine.execIssueCycle core s
  | .faultQueueRetry c => Sys2Proof.Machine.execFaultQueueRetry c s
  | .resultLand c => Sys2Proof.Machine.execResultLand c s
  | .tileFree c t => Sys2Proof.Machine.execTileFree c t s
  | .bankStallEnd c => Sys2Proof.Machine.execBankStallEnd c s
  | .engineProbeDone c => Sys2Proof.Machine.execEngineProbeDone c s
  | .translationWalkDone c => Sys2Proof.Machine.execTranslationWalkDone c s
  | .queuedAccessPerform c q => Sys2Proof.Machine.execQueuedAccessPerform c q s
  | .variableResultArrive c => Sys2Proof.Machine.execVariableResultArrive c s
  | .registerUe c => Sys2Proof.Machine.execRegisterUe c s
  | .awaitfWake c => Sys2Proof.Machine.execAwaitfWake c s
  | .relsWake c => Sys2Proof.Machine.execRelsWake c s
  | .wtimeDeadline c => Sys2Proof.Machine.execWtimeDeadline c s
  | .tendDrainDone c => Sys2Proof.Machine.execTendDrainDone c s
  | .taskStart c => Sys2Proof.Machine.execTaskStart c s
  | .taskDispatch die => Sys2Proof.Machine.execTaskDispatch die s
  | .stepOpen st => Sys2Proof.Machine.execStepOpen st s
  | .watchdogExpire st => Sys2Proof.Machine.execWatchdogExpire st s
  | .copyChunkDone cmd => Sys2Proof.Machine.execCopyChunkDone cmd s
  | .copyReprobe cmd => Sys2Proof.Machine.execCopyReprobe cmd s
  | .heldCompletionPost ring => Sys2Proof.Machine.execHeldCompletionPost ring s
  | .windowRowFilled cmd => Sys2Proof.Machine.execWindowRowFilled cmd s
  | .blockFillDone cmd => Sys2Proof.Machine.execBlockFillDone cmd s
  | .lbeWritebackDone cmd => Sys2Proof.Machine.execLbeWritebackDone cmd s
  | .dpsetDone cmd => Sys2Proof.Machine.execDpsetDone cmd s
  | .ttinvDone cmd => Sys2Proof.Machine.execTtinvDone cmd s
  | .collProceed cmd offers => Sys2Proof.Machine.execCollProceed cmd offers s
  | .collChunkDone cmd parts => Sys2Proof.Machine.execCollChunkDone cmd parts s
  | .csigDeliver st => Sys2Proof.Machine.execCsigDeliver st s
  | .csigAck cmd dropped => Sys2Proof.Machine.execCsigAck cmd dropped s
  | .csigFail cmd => Sys2Proof.Machine.execCsigFail cmd s
  | .refreshGuard stack ch set => Sys2Proof.Machine.execRefreshGuard stack ch set s
  | .repairWindow die => Sys2Proof.Machine.execRepairWindow die s
  | .repwaitExpire die => Sys2Proof.Machine.execRepwaitExpire die s
  | .deckTagError group block correctable => Sys2Proof.Machine.execDeckTagError group block correctable s
  | .errorLogRetry => Sys2Proof.Machine.execErrorLogRetry s
  | .nop h => Sys2Proof.Machine.execNop h s
  | .launch h a => Sys2Proof.Machine.execLaunch h a s
  | .waitValue h a => Sys2Proof.Machine.execWaitValue h a s
  | .waitValuePoll st => Sys2Proof.Machine.execWaitValuePoll st s
  | .signalWrite h a => Sys2Proof.Machine.execSignalWrite h a s
  | .signalAdd h a => Sys2Proof.Machine.execSignalAdd h a s
  | .signalOr h a => Sys2Proof.Machine.execSignalOr h a s
  | .preemptPoint h => Sys2Proof.Machine.execPreemptPoint h s
  | .setAs h a => Sys2Proof.Machine.execSetAs h a s
  | .clearAs h asid => Sys2Proof.Machine.execClearAs h asid s
  | .placeTpl h a => Sys2Proof.Machine.execPlaceTpl h a s
  | .dropTpl h a => Sys2Proof.Machine.execDropTpl h a s
  | .bindCtx h a => Sys2Proof.Machine.execBindCtx h a s
  | .unbindCtx h c => Sys2Proof.Machine.execUnbindCtx h c s
  | .resumeCtx h c => Sys2Proof.Machine.execResumeCtx h c s
  | .resumeCtxRetry h c => Sys2Proof.Machine.execResumeCtxRetry h c s
  | .preemptAtPoint h st => Sys2Proof.Machine.execPreemptAtPoint h st s
  | .preemptStep h st => Sys2Proof.Machine.execPreemptStep h st s
  | .preemptTask h st => Sys2Proof.Machine.execPreemptTask h st s
  | .preemptBundle h st => Sys2Proof.Machine.execPreemptBundle h st s
  | .preemptDone st => Sys2Proof.Machine.execPreemptDone st s
  | .saveCtx h a => Sys2Proof.Machine.execSaveCtx h a s
  | .restoreCtx h a => Sys2Proof.Machine.execRestoreCtx h a s
  | .resumeStream h st => Sys2Proof.Machine.execResumeStream h st s
  | .leaseWrite stack ch v => Sys2Proof.Machine.execLeaseWrite stack ch v s
  | .leaseHandoverEnd stack ch => Sys2Proof.Machine.execLeaseHandoverEnd stack ch s
  | .modeRegisterWrite stack ch bank => Sys2Proof.Machine.execModeRegisterWrite stack ch bank s
  | .tsnap v => Sys2Proof.Machine.execTsnap v s
  | .linkAdminWrite port v => Sys2Proof.Machine.execLinkAdminWrite port v s
  | .keySlotWrite slot folkai dataKey tweakKey valid => Sys2Proof.Machine.execKeySlotWrite slot folkai dataKey tweakKey valid s
  | .doorbell st tail => Sys2Proof.Machine.execDoorbell st tail s
  | .watchdogClear st v => Sys2Proof.Machine.execWatchdogClear st v s
  | .registerWrite off folkai v => Sys2Proof.Machine.execRegisterWrite off folkai v s
  | .hostDataWrite addr bytes => Sys2Proof.Machine.execHostDataWrite addr bytes s
  | .hostDataRead addr len => Sys2Proof.Machine.execHostDataRead addr len s
  | .mivisFlit port crcOk body => Sys2Proof.Machine.execMivisFlit port crcOk body s
  | .linkDown port => Sys2Proof.Machine.execLinkDown port s
  | .linkDownTimeout port => Sys2Proof.Machine.execLinkDownTimeout port s
  | .linkTrained port reported => Sys2Proof.Machine.execLinkTrained port reported s
  | .linkHoldExpire port => Sys2Proof.Machine.execLinkHoldExpire port s
  | .changeRecord r => Sys2Proof.Machine.execChangeRecord r s
  | .keeperBatch => Sys2Proof.Machine.execKeeperBatch s
  | .epochBatchApply b => Sys2Proof.Machine.execEpochBatchApply b s
  | .timeSync times => Sys2Proof.Machine.execTimeSync times s
  | .powerSample x => Sys2Proof.Machine.execPowerSample x s
  | .frequencyAdjust rise => Sys2Proof.Machine.execFrequencyAdjust rise s
  | .moduleStart x => Sys2Proof.Machine.execModuleStart x s
  | .worldChange t secured => Sys2Proof.Machine.execWorldChange t secured s
  | .updateBegin kind len => Sys2Proof.Machine.execUpdateBegin kind len s
  | .updateData off bytes => Sys2Proof.Machine.execUpdateData off bytes s
  | .updateEnd => Sys2Proof.Machine.execUpdateEnd s
  | .activate kind => Sys2Proof.Machine.execActivate kind s
  | .readJournal => Sys2Proof.Machine.execReadJournal s
  | .evidence nonce => Sys2Proof.Machine.execEvidence nonce s
  | .setCap island mhz => Sys2Proof.Machine.execSetCap island mhz s
  | .clearMarks => Sys2Proof.Machine.execClearMarks s
  | .powerLoss => Sys2Proof.Machine.execPowerLoss s

end Sys2Proof.Machine
end

