-- ==== Sys2Proof/Machine/Agenda.lean ====
section
/-! DEFINITION. Machine/Agenda.lean: which action a step takes, how it is carried out, and how a line is put where the next issue cycle
fetches it. The agenda says which agent moves next, and after how much chip time; where it is empty the current core's issue stage makes its next
cycle (log entry 4). -/

namespace Sys2Proof.Machine

/-- Whether an action is a module start, which alone can follow when there is no power. -/
def Action.starts : Action → Bool
  | .event (.moduleStart _) => true
  | _ => false

/-- The agenda from its first module start on. -/
def untilStart (l : List Planned) : List Planned := l.dropWhile fun p => !p.act.starts

/-- The agenda that counts: without power nothing happens before a module start (R417, R439). -/
def State.plan (s : State) : List Planned := if s.power = .off then untilStart s.agenda else s.agenda

/-- The next action, and the state in which it happens; none when there is no power and no start to come. -/
def State.nextAction (s : State) : Option (Action × State) :=
  match s.plan with
  | p :: r => some (p.act, ({ s.pass p.ns with agenda := r } : State).settleAction p.act)
  | [] =>
    if s.power = .off then none
    else some (.event (.issueCycle s.cur.core), ({ s.pass 1 with agenda := [] } : State).settleAction (.event (.issueCycle s.cur.core)))

/-- An action's own effect: an operation, a request on its path, the start of a stream's next command, or an error that arises in a cell (log
entry 82). -/
def actOn (a : Action) (s : State) : Out :=
  match a with
  | .event i => exec i s
  | .request via i => exec i (s.onBoot fun b => { b with via := via })
  | .stream i => startCommand exec i s
  | .cell st e => .next (s.onStack st fun k => { k with errors := k.errors ++ [e] })

/-- An action is carried out: its own effect, then the bundles that it has put into the latch. -/
def carryOut (a : Action) (s : State) : Out :=
  match actOn a s with
  | .next t => drainLatch exec t
  | .fault f => .fault f
  | .refused x => .refused x

/-- The next action is carried out. -/
def runNext (s : State) : Out :=
  match s.nextAction with
  | some (a, t) => carryOut a t
  | none => .fault .noPower

/-! ### A line where the next cycle fetches it (log entry 10) -/

/-- An address space whose code region lies at device address 0 and holds 2^16 bundles. -/
def probeSpace : AddrSpace :=
  ⟨⟨1, false, 0, 0, false, 0, false, 0, 0, 0, 0, 0⟩, [0, 0, 0, 0, 0, 0, 0, 0x10000], 0, 0, []⟩

/-- The current context is Ready at bundle 0 of that space's code region, whose first line has the bits `w`. -/
def State.placeLine (s : State) (w : BitVec 512) : State :=
  let s1 : State := { s.rawStore false 0 (toBytes 64 w.toNat) with
    power := .up, agenda := [], latch := [], spaces := SMap.set none s.spaces 1 (some probeSpace) }
  s1.onMe fun x => { x with st := .ready, asid := 1, gap := 0, regs := { x.regs with pc := 0, redirects := [] } }

end Sys2Proof.Machine
end

