-- ==== Sys2Proof/Machine/Step.lean ====
section
/-! DEFINITION. Machine/Step.lean: one step, and the state whose next step runs a given line. -/

namespace Sys2Proof.Machine

/-- One step: the next action of the agenda is carried out. -/
def step (s : State) : Host.Outcome State Fault Refusal := runNext s

/-- The state whose next step fetches the line of 512 bits `w` (R74): every instruction of the table is a slot of a line, so `nbits` plays no
part. -/
def State.withFetchWord (s : State) (_nbits w : Nat) : State := s.placeLine (BitVec.ofNat 512 w)

end Sys2Proof.Machine
end

