-- ==== Sys2Proof/Safety.lean ====
section
/-! DEFINITION. Safety.lean: what the claims mean by a machine whose memories are in their one form, and by a run in which nothing is lost. -/

namespace Sys2Proof.Safety

open Sys2Proof.Machine

/-- The memories that lie outside the cores and clusters are in canonical form: the device's own, the host's and those of the pod's other
packages. -/
def outerCanonical (s : State) : Prop :=
  s.dev.wf = true ∧ s.host.wf = true ∧ ∀ e ∈ s.peers, e.2.wf = true

/-- The memories of the cores and clusters are in canonical form: core stores and deck slices. -/
def innerCanonical (s : State) : Prop :=
  (∀ e ∈ s.cores, e.2.store.wf = true) ∧ (∀ e ∈ s.groups, e.2.deck.wf = true)

/-- Every memory of the machine is in canonical form. -/
def canonical (s : State) : Prop := outerCanonical s ∧ innerCanonical s

/-- No context has been stopped by a fault or lost (R376, R381). -/
def unharmed (s : State) : Prop := ∀ e ∈ s.ctxs, e.2.st.isStopped = false

/-- A step that goes on, with every context unharmed and every memory canonical after it. -/
def safeStep (s : State) : Prop := ∃ t, step s = .next t ∧ canonical t ∧ unharmed t

end Sys2Proof.Safety
end

