-- ==== Sys2Proof/Certificates/Slice0/Obligations.lean ====
section
/-! DEFINITION. Certificates/Slice0/Obligations.lean: the statements for the provers. They are about every state, reachable or not, and cite the
rules of spec/ that they formalise. -/

/-! ### What the statements share -/

namespace Sys2Proof.Claims

open Sys2Proof.Machine

/-- The operation `i` with a true guard answers with a state in which a scalar result for s(d) is due `lat` ticks on, and nothing else is
different. -/
def landsS (i : Instr) (g : Guard) (lat : Nat) (d : BitVec 6) (val : Ctx → W64) (tag : Ctx → Bool) : Prop :=
  ∀ s : State, s.me.guard g = true → exec i s = .next (s.onMe fun c => c.landS lat d (val c) (tag c))

/-- The operation `op d, a, b` (R178): the value of s(a) and s(b), tagged if either source is. -/
def regForm (i : Instr) (o : SRR) (lat : Nat) (f : W64 → W64 → W64) : Prop :=
  landsS i o.g lat o.d (fun c => f (c.s o.a) (c.s o.b)) (fun c => c.sTag o.a || c.sTag o.b)

/-- The operation `op d, a, imm` (R176, R178): the immediate is sign-extended. -/
def immForm (i : Instr) (o : SRI) (lat : Nat) (f : W64 → W64 → W64) : Prop :=
  landsS i o.g lat o.d (fun c => f (c.s o.a) (o.imm.signExtend 64)) (fun c => c.sTag o.a)

/-- The operation `op d, a` (R179). -/
def unForm (i : Instr) (o : SR) (f : W64 → W64) : Prop :=
  landsS i o.g 1 o.d (fun c => f (c.s o.a)) (fun c => c.sTag o.a)

/-- The operation `i` with a true guard answers with a state in which a predicate result for p(d) is due one tick on. -/
def landsP (i : Instr) (g : Guard) (d : BitVec 4) (val : Ctx → Bool) : Prop :=
  ∀ s : State, s.me.guard g = true → exec i s = .next (s.onMe fun c => c.landP 1 d (val c))

/-- A vector operation: the enabled elements take the values of `f`, with its flags and the sources' tags, `lat` ticks on (R202 to R204). -/
def landsV (i : Instr) (o : VOp) (lat : Nat) (f : Ctx → Nat → Flagged Nat) (tag : Ctx → Bool) : Prop :=
  ∀ s : State, exec i s =
    .next (s.onMe fun c => c.landRes lat o.vd o.ty.bits (vmap (enabledElems o c) (f c)) (tag c || c.mTag o.m))

/-- A vector operation of two sources, element by element. -/
def elem2 (i : Instr) (o : VOp) (lat : Nat) (f : Nat → Nat → Flagged Nat) : Prop :=
  landsV i o lat (fun c e => f (elem (c.v o.va) o.ty.bits e) (elem (c.v o.vb) o.ty.bits e)) (fun c => c.vTag o.va || c.vTag o.vb)

/-- A vector operation of one source. -/
def elem1 (i : Instr) (o : VOp) (lat : Nat) (f : Nat → Flagged Nat) : Prop :=
  landsV i o lat (fun c e => f (elem (c.v o.va) o.ty.bits e)) (fun c => c.vTag o.va)

/-- A vector operation of three sources. -/
def elem3 (i : Instr) (o : VOp) (lat : Nat) (f : Nat → Nat → Nat → Flagged Nat) : Prop :=
  landsV i o lat (fun c e => f (elem (c.v o.va) o.ty.bits e) (elem (c.v o.vb) o.ty.bits e) (elem (c.v o.vc) o.ty.bits e))
    (fun c => c.vTag o.va || c.vTag o.vb || c.vTag o.vc)

/-- An element without flags. -/
def plain (x : Nat) : Flagged Nat := ⟨x, 0⟩

/-- The operation `i` answers with the same change of the issuing context in every state. -/
def changes (i : Instr) (f : Ctx → Ctx) : Prop := ∀ s : State, exec i s = .next (s.onMe f)

/-- No core-store write that a context waits for has to follow an earlier access (R166, R167). -/
def unordered (c : CtxId) (s : State) : Prop := ∀ w ∈ (s.core c.core).writes, w.of c.slot (s.ctx c).bid = true → (s.ctx c).holders w = []

/-- The sum that R209 writes out: four products and one more term, exact, a zero sum with the sign of the mode. A NaN among the factors or the term
gives NaN and no flag; 0 times infinity, or infinities of both signs, give NaN and INVALID; else an infinity stands. -/
def dot4Sum (down : Bool) (a b : Nat → Val) (z : Val) : Flagged Val :=
  let p (k : Nat) : Val := ((a k).mul (b k)).val
  let plus (x y : Val) : Val := (Val.add down x y).val
  let fs := [a 0, b 0, a 1, b 1, a 2, b 2, a 3, b 3, z]
  let ts := [p 0, p 1, p 2, p 3, z]
  if .nan ∈ fs then ⟨.nan, 0⟩
  else if .nan ∈ ts ∨ (.inf true ∈ ts ∧ .inf false ∈ ts) then ⟨.nan, Flags.invalid⟩
  else if .inf true ∈ ts then ⟨.inf true, 0⟩
  else if .inf false ∈ ts then ⟨.inf false, 0⟩
  else ⟨plus (plus (plus (plus (p 0) (p 1)) (p 2)) (p 3)) z, 0⟩

end Sys2Proof.Claims

open Sys2Proof Sys2Proof.Machine Sys2Proof.Claims

/-! ### The S slot -/

/-- Integer arithmetic and logic (R176, R178): each register form in terms of its two sources, each immediate form with its immediate
sign-extended. -/
def Obligations.ScalarArithmetic : Prop :=
  (∀ o : SRR,
    regForm (.add o) o 1 (fun a b => a + b) ∧ regForm (.sub o) o 1 (fun a b => a - b) ∧
    regForm (.mul o) o 3 (fun a b => a * b) ∧
    regForm (.mulh o) o 3 (fun a b => BitVec.ofInt 64 (a.toInt * b.toInt / 2 ^ 64)) ∧
    regForm (.mulhu o) o 3 (fun a b => BitVec.ofNat 64 (a.toNat * b.toNat / 2 ^ 64)) ∧
    regForm (.and o) o 1 (fun a b => a &&& b) ∧ regForm (.or o) o 1 (fun a b => a ||| b) ∧
    regForm (.xor o) o 1 (fun a b => a ^^^ b) ∧ regForm (.andn o) o 1 (fun a b => a &&& ~~~b) ∧
    regForm (.min o) o 1 (fun a b => if a.toInt ≤ b.toInt then a else b) ∧
    regForm (.max o) o 1 (fun a b => if b.toInt ≤ a.toInt then a else b) ∧
    regForm (.minu o) o 1 (fun a b => if a.toNat ≤ b.toNat then a else b) ∧
    regForm (.maxu o) o 1 (fun a b => if b.toNat ≤ a.toNat then a else b)) ∧
  ∀ o : SRI,
    immForm (.addImm o) o 1 (fun a b => a + b) ∧ immForm (.subImm o) o 1 (fun a b => a - b) ∧
    immForm (.mulImm o) o 3 (fun a b => a * b) ∧
    immForm (.mulhImm o) o 3 (fun a b => BitVec.ofInt 64 (a.toInt * b.toInt / 2 ^ 64)) ∧
    immForm (.mulhuImm o) o 3 (fun a b => BitVec.ofNat 64 (a.toNat * b.toNat / 2 ^ 64)) ∧
    immForm (.andImm o) o 1 (fun a b => a &&& b) ∧ immForm (.orImm o) o 1 (fun a b => a ||| b) ∧
    immForm (.xorImm o) o 1 (fun a b => a ^^^ b) ∧ immForm (.andnImm o) o 1 (fun a b => a &&& ~~~b) ∧
    immForm (.minImm o) o 1 (fun a b => if a.toInt ≤ b.toInt then a else b) ∧
    immForm (.maxImm o) o 1 (fun a b => if b.toInt ≤ a.toInt then a else b) ∧
    immForm (.minuImm o) o 1 (fun a b => if a.toNat ≤ b.toNat then a else b) ∧
    immForm (.maxuImm o) o 1 (fun a b => if b.toNat ≤ a.toNat then a else b) ∧
    immForm (.leaImm o) o 1 (fun a b => a + b)

/-- Shifts and rotates by s(b)[5:0] and by an immediate count, bit-field moves, counts, extensions and the absolute value, with bit i of each
result given from the bits of the sources where the rule says which bit goes where (R178, R179). -/
def Obligations.ShiftsAndFields : Prop :=
  (∀ o : SRR,
    regForm (.shl o) o 1 (fun a b => a <<< (b.toNat % 64)) ∧ regForm (.shr o) o 1 (fun a b => a >>> (b.toNat % 64)) ∧
    regForm (.sar o) o 1 (fun a b => a.sshiftRight (b.toNat % 64)) ∧ regForm (.rot o) o 1 (fun a b => a.rotateLeft (b.toNat % 64))) ∧
  (∀ (o : SR) (n : BitVec 6),
    unForm (.shlImm o n) o (fun a => a <<< n.toNat) ∧ unForm (.shrImm o n) o (fun a => a >>> n.toNat) ∧
    unForm (.sarImm o n) o (fun a => a.sshiftRight n.toNat) ∧ unForm (.rotImm o n) o (fun a => a.rotateLeft n.toNat) ∧
    unForm (.sext o n) o (fun a => (a.truncate (n.toNat + 1)).signExtend 64) ∧
    unForm (.zext o n) o (fun a => (a.truncate (n.toNat + 1)).setWidth 64)) ∧
  (∀ o : SR,
    unForm (.popc o) o (fun a => BitVec.ofNat 64 ((List.range 64).countP fun i => a.getLsbD i)) ∧
    unForm (.abs o) o (fun a => if a.toInt < 0 then -a else a) ∧ unForm (.mov o) o (fun a => a) ∧
    (∃ f : W64 → W64, unForm (.clz o) o f ∧ f 0 = 64 ∧
      ∀ a : W64, a ≠ 0 → (f a).toNat < 64 ∧ a.getLsbD (63 - (f a).toNat) = true ∧ ∀ i, 63 - (f a).toNat < i → a.getLsbD i = false) ∧
    ∃ f : W64 → W64, unForm (.ctz o) o f ∧ f 0 = 64 ∧
      ∀ a : W64, a ≠ 0 → (f a).toNat < 64 ∧ a.getLsbD (f a).toNat = true ∧ ∀ i, i < (f a).toNat → a.getLsbD i = false) ∧
  (∀ (o : SR) (sgn : Bool) (pos len1 : BitVec 6),
    unForm (.bext o sgn pos len1) o (fun a =>
      let x := (a >>> pos.toNat).truncate (len1.toNat + 1)
      if sgn then x.signExtend 64 else x.setWidth 64)) ∧
  ∀ (o : SRR) (pos len1 : BitVec 6), pos.toNat + (len1.toNat + 1) ≤ 64 →
    ∃ f : W64 → W64 → W64, regForm (.bins o pos len1) o 1 f ∧
      ∀ (a b : W64) (i : Nat), i < 64 → (f a b).getLsbD i =
        if pos.toNat ≤ i ∧ i < pos.toNat + (len1.toNat + 1) then a.getLsbD (i - pos.toNat) else b.getLsbD i

/-- Selects, constants and address arithmetic (R180, R189): `madd` reads its destination, and `cinc` leaves the bits from k on as they are. -/
def Obligations.MovesAndAddresses : Prop :=
  (∀ (o : SRR) (neg : Bool) (p : BitVec 4),
    landsS (.sel o neg p) o.g 1 o.d (fun c => if c.p p != neg then c.s o.a else c.s o.b) (fun c => c.sTag o.a || c.sTag o.b)) ∧
  (∀ (g : Guard) (d : BitVec 6) (imm : BitVec 32), landsS (.li g d imm) g 1 d (fun _ => imm.signExtend 64) (fun _ => false)) ∧
  (∀ o : SRI, landsS (.lih o) o.g 1 o.d (fun c => o.imm ++ (c.s o.a).truncate 32) (fun c => c.sTag o.a)) ∧
  (∀ (o : SRR) (sh : BitVec 3), regForm (.lea o sh) o 1 (fun a b => a + (b <<< sh.toNat))) ∧
  (∀ o : SRR, landsS (.madd o) o.g 3 o.d (fun c => c.s o.d + c.s o.a * c.s o.b) (fun c => c.sTag o.d || c.sTag o.a || c.sTag o.b)) ∧
  (∀ o : SRI, landsS (.maddImm o) o.g 3 o.d (fun c => c.s o.d + c.s o.a * o.imm.signExtend 64) (fun c => c.sTag o.d || c.sTag o.a)) ∧
  ∀ k : BitVec 6, ∃ f : W64 → W64 → W64,
    (∀ o : SRR, regForm (.cinc o k) o 1 f) ∧ (∀ o : SRI, immForm (.cincImm o k) o 1 f) ∧
    ∀ (a y : W64) (i : Nat), i < 64 → (f a y).getLsbD i = if i < k.toNat then (a + y).getLsbD i else a.getLsbD i

/-- Compares and predicate logic (R181, R182): each condition on the two values, and a compare whose source is tagged raises POISON, source a
before b, with the register's number as the bundle has it (the model's reading of the record, log entry 17). -/
def Obligations.ComparesAndPredicates : Prop :=
  (∀ (g : Guard) (d : BitVec 4) (a b : BitVec 6) (cond : BitVec 4) (s : State),
    s.me.guard g = true → s.me.sTag a = false → s.me.sTag b = false →
    ∃ v : Bool, exec (.cmp g d a b cond) s = .next (s.onMe fun c => c.landP 1 d v) ∧
      (cond = 0 → v = decide (s.me.s a = s.me.s b)) ∧ (cond = 1 → v = decide (s.me.s a ≠ s.me.s b)) ∧
      (cond = 2 → v = (s.me.s a).slt (s.me.s b)) ∧ (cond = 3 → v = (s.me.s b).sle (s.me.s a)) ∧
      (cond = 4 → v = (s.me.s a).sle (s.me.s b)) ∧ (cond = 5 → v = (s.me.s b).slt (s.me.s a)) ∧
      (cond = 6 → v = (s.me.s a).ult (s.me.s b)) ∧ (cond = 7 → v = (s.me.s b).ule (s.me.s a)) ∧
      (cond = 8 → v = (s.me.s a).ule (s.me.s b)) ∧ (cond = 9 → v = (s.me.s b).ult (s.me.s a)) ∧
      (cond = 10 → v = decide (s.me.s a &&& s.me.s b ≠ 0)) ∧ (cond = 11 → v = decide (s.me.s a &&& s.me.s b = 0))) ∧
  (∀ (g : Guard) (d : BitVec 4) (a : BitVec 6) (imm : BitVec 32) (cond : BitVec 4) (s : State),
    s.me.guard g = true → s.me.sTag a = false →
    exec (.cmpImm g d a imm cond) s = .next (s.onMe fun c => c.landP 1 d (scalarCond cond.toNat (c.s a) (imm.signExtend 64)))) ∧
  (∀ o : SPP,
    landsP (.pand o) o.g o.d (fun c => (c.p o.a != o.na) && (c.p o.b != o.nb)) ∧
    landsP (.por o) o.g o.d (fun c => (c.p o.a != o.na) || (c.p o.b != o.nb)) ∧
    landsP (.pxor o) o.g o.d (fun c => (c.p o.a != o.na) != (c.p o.b != o.nb))) ∧
  (∀ (g : Guard) (d a : BitVec 4), landsP (.pnot g d a) g d (fun c => !c.p a) ∧ landsP (.pmov g d a) g d (fun c => c.p a)) ∧
  (∀ (g : Guard) (d : BitVec 4) (v : Bool), landsP (.pset g d v) g d fun _ => v) ∧
  ∀ (g : Guard) (d : BitVec 4) (a b : BitVec 6) (imm : BitVec 32) (cond : BitVec 4) (s : State), s.me.guard g = true → s.checked = false →
    (s.me.sTag a = true → exec (.cmp g d a b cond) s = .next (s.raise s.cur (Exn.tag 1 a.toNat 0)) ∧
      exec (.cmpImm g d a imm cond) s = .next (s.raise s.cur (Exn.tag 1 a.toNat 0))) ∧
    (s.me.sTag a = false → s.me.sTag b = true → exec (.cmp g d a b cond) s = .next (s.raise s.cur (Exn.tag 1 b.toNat 0)))

/-- Control transfers (R82, R183 to R188): where each goes when it is taken, that a taken `loop` counts its register down, and that the link of `call`
and `jr` is the index four bundles on (a target wraps modulo 2^64, the model's choice, log entry 107). The redirect list of R183: a bundle counts every
entry down and appends (3, T) for its delayed transfer to T; an entry that reaches 0 gives the next index and leaves the list, before a taken `loop`; a
bundle that ends takes its next index and list so; gap ticks change neither (both where no core-store write of the context has to follow an access). -/
def Obligations.ControlTransfers : Prop :=
  (∀ (g : Guard) (disp : BitVec 32) (s : State), s.me.guard g = true →
    exec (.jmp g disp) s = .next (s.onMe fun c => c.jump (target c.regs.pc disp)) ∧
    (∀ (a : BitVec 6), exec (.call g a disp) s =
      .next (s.onMe fun c => (c.landS 1 a (BitVec.ofNat 64 (c.regs.pc + 4)) false).jump (target c.regs.pc disp))) ∧
    (∀ (c : BitVec 4) (n : Bool), s.me.p c ≠ n → exec (.br g c n disp) s = .next (s.onMe fun c => c.jump (target c.regs.pc disp))) ∧
    (∀ (c : BitVec 4) (n : Bool), s.me.p c = n → exec (.br g c n disp) s = .next s) ∧
    (∀ (file : Bool) (a : BitVec 6), (if file then s.me.vTag a else s.me.sTag a) = true →
      exec (.chk g file a disp) s = .next (s.onMe fun c => c.jump (target c.regs.pc disp))) ∧
    (∀ (file : Bool) (a : BitVec 6), (if file then s.me.vTag a else s.me.sTag a) = false → exec (.chk g file a disp) s = .next s) ∧
    (∀ lc1 : Bool, SMap.get 0 s.me.regs.lc (if lc1 then 1 else 0) ≠ 0 →
      ∃ t, exec (.loop g lc1 disp) s = .next t ∧ t.me.xfer = .loopTo (target s.me.regs.pc disp) ∧
        SMap.get 0 t.me.regs.lc (if lc1 then 1 else 0) = SMap.get 0 s.me.regs.lc (if lc1 then 1 else 0) - 1) ∧
    (∀ lc1 : Bool, SMap.get 0 s.me.regs.lc (if lc1 then 1 else 0) = 0 → exec (.loop g lc1 disp) s = .next s)) ∧
  (∀ (g : Guard) (a : BitVec 6) (s : State), s.me.guard g = true → s.me.sTag a = false →
    exec (.ret g a) s = .next (s.onMe fun c => c.jump (c.s a).toNat) ∧
    (∀ d : BitVec 6, exec (.jr ⟨g, d, a⟩) s =
      .next (s.onMe fun c => (c.landS 1 d (BitVec.ofNat 64 (c.regs.pc + 4)) false).jump (c.s a).toNat)) ∧
    ∀ (n1 : BitVec 6) (disp : BitVec 32),
      exec (.bsw g a n1 disp) s =
        .next (s.onMe fun c => c.jump ((target c.regs.pc disp + min (c.s a).toNat (n1.toNat + 1)) % 2 ^ 64))) ∧
  (∀ (c : Ctx) (t : Nat), (c.jump t).xfer = .delayed t) ∧
  (let counted (l : List (Nat × Nat)) : List (Nat × Nat) := l.map fun e => (e.1 - 1, e.2)
   (∀ (l : List (Nat × Nat)) (b t : Nat), (∀ e ∈ l, 2 ≤ e.1) →
     nextIndex l b .none = (b + 1, counted l) ∧ nextIndex l b (.delayed t) = (b + 1, counted l ++ [(3, t)]) ∧
     nextIndex l b (.loopTo t) = (t, counted l)) ∧
   ∀ (l r : List (Nat × Nat)) (b t u : Nat), (∀ e ∈ l ++ r, 2 ≤ e.1) →
     nextIndex (l ++ (1, u) :: r) b .none = (u, counted (l ++ r)) ∧
     nextIndex (l ++ (1, u) :: r) b (.delayed t) = (u, counted (l ++ r) ++ [(3, t)]) ∧
     nextIndex (l ++ (1, u) :: r) b (.loopTo t) = (u, counted (l ++ r))) ∧
  (∀ (k : Issued) (s : State), k.probe = false → (s.ctx k.ctx).st.isStopped = false → (s.ctx k.ctx).regs.dupQ = [] → unordered k.ctx s →
    let x := s.ctx k.ctx
    let y := (s.commit k).ctx k.ctx
    (y.regs.pc, y.regs.redirects) = nextIndex x.regs.redirects x.regs.pc x.xfer ∧ y.xfer = .none ∧ y.regs.tick = x.regs.tick + 1) ∧
  ∀ (c : CtxId) (s : State), (s.ctx c).regs.dupQ = [] → unordered c s →
    ((s.gapTick c).ctx c).regs.pc = (s.ctx c).regs.pc ∧ ((s.gapTick c).ctx c).regs.redirects = (s.ctx c).regs.redirects ∧
      ((s.gapTick c).ctx c).regs.tick = (s.ctx c).regs.tick + 1

/-- Rotation, stages, loop registers and control registers (R64 to R66, R71, R190 to R194): the end of the bundle puts n, or RRB, into RRB, and with the
rot bit one less, in a mark's shadow too; gap ticks change nothing of it. A name of 32 or more, or of a predicate of 8 or more, stands for the register
that RRB at the issue gives, as a source and as a destination, which stays the same whatever rotates before the result lands. `csrr` and every write
land the old value two ticks on, and the written value waits for the same tick: all of it, the OR, or the AND with the complement (of the value at
issue, the model's choice, log entry 79; of STEPCTL the source's bits alone, R54). A write that waits changes no register's value before its governing
tick; at that tick it is what `csrr` reads, in the bits that the register has, and it waits no more. Of VBANKPWR the fields of the banks 1 to 3 take
their new states, a field of 3 and bank 0 staying as they are (R68); bit 0 of STEPCTL sets STOP of the context's launch, and a zero changes nothing
(R54). -/
def Obligations.StagesAndControlRegisters : Prop :=
  (∀ (g : Guard) (n : BitVec 5) (s : State), s.me.guard g = true →
    exec (.rotinit g n) s = .next (s.onMe fun c => { c with newRrb := some n })) ∧
  (∀ (k : Issued) (s : State), k.probe = false → (s.ctx k.ctx).st.isStopped = false → (s.ctx k.ctx).regs.dupQ = [] → unordered k.ctx s →
    let y := (s.commit k).ctx k.ctx
    let r := match (s.ctx k.ctx).newRrb with
      | some n => n
      | none => (s.ctx k.ctx).regs.rrb
    y.regs.rrb = (if k.hdr.rot then r - 1 else r) ∧ y.newRrb = none ∧ (k.hdr.mark = true → y.shadow.rrb = y.regs.rrb)) ∧
  (∀ (c : CtxId) (s : State), (s.ctx c).regs.dupQ = [] → unordered c s → ((s.gapTick c).ctx c).regs.rrb = (s.ctx c).regs.rrb) ∧
  (∀ c : Ctx,
    let at_ (n : BitVec 6) : Nat := if n.toNat < 32 then n.toNat else 32 + (n.toNat - 32 + c.regs.rrb.toNat) % 32
    let atP (n : BitVec 4) : Nat := if n.toNat < 8 then n.toNat else 8 + (n.toNat - 8 + c.regs.rrb.toNat) % 8
    (∀ n : BitVec 6, (n ≠ 0 → c.s n = SMap.get 0 c.regs.s (at_ n)) ∧ c.v n = SMap.get 0 c.regs.v (at_ n) ∧
      c.vTag n = c.regs.vTag.getLsbD (at_ n) ∧ (n ≠ 0 → c.sTag n = c.regs.sTag.getLsbD (at_ n))) ∧
    (∀ n : BitVec 4, n ≠ 0 → c.p n = c.regs.p.getLsbD (atP n)) ∧
    ∀ (lat : Nat) (tag : Bool),
      let entry (v : LandVal) (t : Bool) : List Landing := c.regs.landing ++ [⟨some (c.regs.tick + lat), v, t, none, c.regs.tick⟩]
      (∀ (n : BitVec 6) (x : W64), n ≠ 0 → (c.landS lat n x tag).regs.landing = entry (.s (at_ n) x) tag) ∧
      (∀ (n : BitVec 6) (x : V1024) (lanes : Mask), (c.landV lat n x lanes tag).regs.landing = entry (.v (at_ n) x lanes) tag) ∧
      (∀ (n : BitVec 4) (b : Bool), n ≠ 0 → (c.landP lat n b).regs.landing = entry (.p (atP n) b) false)) ∧
  (∀ (c : Ctx) (l : Landing) (r : BitVec 5), c.regs.landing = [l] → l.isDue c.regs.tick = true →
    let d := ({ c with regs := { c.regs with rrb := r } } : Ctx).landDue.regs
    (∀ k x, l.val = .s k x → k ≠ 0 → SMap.get 0 d.s k = x) ∧ (∀ k b, l.val = .p k b → 0 < k → k < 16 → d.p.getLsbD k = b)) ∧
  (∀ (g : Guard) (a : BitVec 6) (imm : BitVec 32) (s : State), s.me.guard g = true → s.me.sTag a = false →
    exec (.stg g a imm) s = .next (s.onMe fun c => c.landP 1 8 ((c.s a).ult (imm.signExtend 64)))) ∧
  (∀ (g : Guard) (d : BitVec 6) (n : BitVec 4), landsS (.lpr g d n) g 1 d (fun c => SMap.get 0 c.lp n.toNat) (fun _ => false)) ∧
  (∀ (g : Guard) (d : BitVec 6) (n : BitVec 12) (s : State), s.me.guard g = true → timingOnD s.cur.core n.toNat = false →
    exec (.csrr g d n) s = .next (s.onMe fun c => c.landS 2 d (s.csr s.cur n.toNat) false)) ∧
  (∀ (o : SC) (s : State), s.me.guard o.g = true → timingOnD s.cur.core o.csr.toNat = false →
    (match o.src with
      | .reg a => s.me.sTag a = false
      | .imm _ => True) →
    let old := s.csr s.cur o.csr.toNat
    let y : W64 := match o.src with
      | .reg a => s.me.s a
      | .imm x => x.setWidth 64
    let writes (v : W64) : State := s.onMe fun c =>
      let c1 := c.landS 2 o.d old false
      { c1 with regs := { c1.regs with csrQ := c1.regs.csrQ ++ [⟨c1.regs.tick + 2, o.csr.toNat, v, (s.core s.cur.core).cycles⟩] } }
    (csrWritable s.me.priv false o.csr.toNat = true →
      exec (.csrw o) s = .next (writes y) ∧ exec (.csrc o) s = .next (writes (old &&& ~~~y))) ∧
    (csrWritable s.me.priv true o.csr.toNat = true → exec (.csrs o) s = .next (writes ((if o.csr.toNat = 0x00C then 0 else old) ||| y)))) ∧
  (∀ (c : CtxId) (w : CsrPend) (s : State), (s.ctx c).regs.csrQ = [w] → w.gov ≤ (s.ctx c).regs.tick →
    let t := s.govern c
    (t.ctx c).regs.csrQ = [] ∧
      (w.csr = 0x003 → t.csr c 0x003 = (w.val.truncate 2).setWidth 64) ∧ (w.csr = 0x010 → t.csr c 0x010 = (w.val.truncate 6).setWidth 64) ∧
      (w.csr = 0x00C → (w.val.getLsbD 0 = false → t.csr c 0x00C = s.csr c 0x00C) ∧
        (w.val.getLsbD 0 = true → (s.ctx c).hasTask = true → ((s.lathe (dieOf c.core)).launch (s.ctx c).launch).isSome = true → t.csr c 0x00C = 1)) ∧
      (w.csr = 0x012 → (t.csr c 0x012).extractLsb' 0 2 = (s.csr c 0x012).extractLsb' 0 2 ∧
        ∀ b, 1 ≤ b → b ≤ 3 → (t.csr c 0x012).extractLsb' (2 * b) 2 =
          if w.val.extractLsb' (2 * b) 2 = 3 then (s.csr c 0x012).extractLsb' (2 * b) 2 else w.val.extractLsb' (2 * b) 2) ∧
      (w.csr = 0x020 → t.csr c 0x020 = w.val) ∧ (w.csr = 0x130 ∨ w.csr = 0x131 → t.csr c w.csr = w.val) ∧
      (∀ k, k < 16 → w.csr = 0x100 + k → t.csr c w.csr = (w.val.truncate 16).setWidth 64)) ∧
  ∀ (c : CtxId) (s : State), (∀ w ∈ (s.ctx c).regs.csrQ, (s.ctx c).regs.tick < w.gov) →
    ((s.govern c).ctx c).regs.csrQ = (s.ctx c).regs.csrQ ∧ ∀ n, (s.govern c).csr c n = s.csr c n

/-- The privileged operations in a privileged context (R196, R197 to R199), and the exceptions of `trap` and `brk` (R195): `dpset` accepts a
command and gives DPART its value from the next cycle, on an S-core it has no partition to change; `ttinv` accepts a command of its scope;
`ownset` gives its banks their tags from the next cycle; `trap` and `brk` raise with their code. -/
def Obligations.SupervisorOperations : Prop :=
  (∀ (g : Guard) (a : BitVec 6) (ring : BitVec 4) (s : State),
    s.me.guard g = true → s.me.priv = true → s.me.sTag a = false → s.me.ringId ring.toNat ≠ 0 → (s.me.s a).toNat ≤ 16 →
    ∃ t, exec (.dpset g a ring) s = .next t ∧
      (∃ k : Cmd, t.cmds = s.cmds ++ [k] ∧ k.ctx = s.cur ∧ k.op = 0x56 ∧ k.ring = ring.toNat ∧ k.st = .running ∧ k.after = s.me.seq) ∧
      (isS s.cur.core = false →
        (t.group (groupOf s.cur.core)).newPart = some ((s.me.s a).truncate 5) ∧
        (t.group (groupOf s.cur.core)).dpart = (s.group (groupOf s.cur.core)).dpart) ∧
      (isS s.cur.core = true → t.groups = s.groups)) ∧
  (∀ (g : Guard) (a b : BitVec 6) (ring : BitVec 4) (kind : BitVec 2) (s : State),
    s.me.guard g = true → s.me.priv = true → s.me.sTag a = false → s.me.sTag b = false → s.me.ringId ring.toNat ≠ 0 →
    ∃ t, exec (.ttinv g a b ring kind) s = .next t ∧
      ∃ k : Cmd, t.cmds = s.cmds ++ [k] ∧ k.ctx = s.cur ∧ k.op = 0x57 ∧ k.ring = ring.toNat ∧ k.st = .running ∧
        k.job = .ttinv kind.toNat (((s.me.s a) >>> 16).truncate 11) (field (s.me.s a) 15 0) (s.me.s b).toNat) ∧
  (∀ (g : Guard) (a b : BitVec 6) (count1 : BitVec 6) (s : State),
    s.me.guard g = true → s.me.priv = true → s.me.sTag a = false → s.me.sTag b = false →
    field (s.me.s a) 5 0 + (count1.toNat + 1) ≤ 64 →
    exec (.ownset g a b count1) s = .next (s.onCore s.cur.core fun k =>
      { k with newOwners := k.newOwners ++ (List.range (count1.toNat + 1)).map fun i =>
          (field (s.me.s a) 5 0 + i, ⟨(s.me.s b).getLsbD 13, ((s.me.s b) >>> 2).truncate 11, (s.me.s b).truncate 2⟩) })) ∧
  ∀ (g : Guard) (code : BitVec 32) (s : State), s.me.guard g = true → s.checked = false →
    exec (.trap g code) s = .next (s.precise s.cur .trap 0 (code.setWidth 64) 0) ∧
    exec (.brk g code) s = .next (s.precise s.cur .brk 0 (code.setWidth 64) 0)

/-- Privilege and class (R70, R90, R196): in an unprivileged context the supervisor's operations, and the writes of a control register that the context
may not write (all but FPSTAT, VBANKPWR, H0 to H15, LC0 and LC1, and for `csrs` STEPCTL), raise PRIV, with slot code 1 and the opcode or register
number; in a privileged one the writes of a register that no context may write do, and of CTXPRIO and CSPART do not. On a D-core the row commands, `mmr`
and every access to TRCD to TRFC raise UNSUPPORTED, and on an S-core an `mma` of f64 does. -/
def Obligations.PrivilegeIsChecked : Prop :=
  (∀ (g : Guard) (s : State), s.me.guard g = true → s.checked = false → isS s.cur.core = false →
    let lacks (i : Instr) (slot op : W64) : Prop := exec i s = .next (s.precise s.cur .unsupported 0 slot op)
    (∀ (ch : Bool) (bank : BitVec 4),
      (∀ a : BitVec 6, lacks (.ract g ch bank a) 8 0x10) ∧ (∀ all : Bool, lacks (.rpre g ch all bank) 8 0x11) ∧
      ∀ rb : BitVec 2, lacks (.rld g rb ch bank) 8 0x12 ∧ lacks (.rstw g rb ch bank) 8 0x13) ∧
    (∀ (ch : Bool) (set : BitVec 2), lacks (.rref g ch set) 8 0x14) ∧ (∀ o : MMul, o.g = g → lacks (.mmr o) 5 2) ∧
    ∀ (d : BitVec 6) (src : CsrSrc) (n : BitVec 12), 0x040 ≤ n → n ≤ 0x048 →
      lacks (.csrr g d n) 1 0x50 ∧ lacks (.csrw ⟨g, d, n, src⟩) 1 0x51 ∧ lacks (.csrs ⟨g, d, n, src⟩) 1 0x52 ∧ lacks (.csrc ⟨g, d, n, src⟩) 1 0x53) ∧
  (∀ (o : MMul) (s : State), s.me.guard o.g = true → s.checked = false → isS s.cur.core = true → o.fa = .f64 →
    exec (.mma o) s = .next (s.precise s.cur .unsupported 0 5 1)) ∧
  (∀ (g : Guard) (s : State) (d : BitVec 6) (src : CsrSrc) (n : BitVec 12), s.me.guard g = true → s.checked = false → s.me.priv = true →
    timingOnD s.cur.core n.toNat = false →
    let denied (i : Instr) : Prop := exec i s = .next (s.precise s.cur .priv 0 1 (n.setWidth 64))
    (n ≠ 0x010 → n ≠ 0x012 → ¬ (0x100 ≤ n ∧ n ≤ 0x10F) → n ≠ 0x130 → n ≠ 0x131 → n ≠ 0x003 → n ≠ 0x020 →
      denied (.csrw ⟨g, d, n, src⟩) ∧ denied (.csrc ⟨g, d, n, src⟩) ∧ (n ≠ 0x00C → denied (.csrs ⟨g, d, n, src⟩))) ∧
    (n = 0x003 ∨ n = 0x020 → csrWritable s.me.priv false n.toNat = true ∧ csrWritable s.me.priv true n.toNat = true)) ∧
  ∀ (g : Guard) (s : State), s.me.guard g = true → s.checked = false → s.me.priv = false →
    (∀ (a : BitVec 6) (ring : BitVec 4), exec (.dpset g a ring) s = .next (s.precise s.cur .priv 0 1 0x56)) ∧
    (∀ (a b : BitVec 6) (ring : BitVec 4) (kind : BitVec 2), exec (.ttinv g a b ring kind) s = .next (s.precise s.cur .priv 0 1 0x57)) ∧
    (∀ (a b : BitVec 6) (count1 : BitVec 6), exec (.ownset g a b count1) s = .next (s.precise s.cur .priv 0 1 0x58)) ∧
    ∀ (d : BitVec 6) (src : CsrSrc) (n : BitVec 12), n ≠ 0x010 → n ≠ 0x012 → ¬ (0x100 ≤ n ∧ n ≤ 0x10F) → n ≠ 0x130 → n ≠ 0x131 →
      timingOnD s.cur.core n.toNat = false →
      exec (.csrw ⟨g, d, n, src⟩) s = .next (s.precise s.cur .priv 0 1 (n.setWidth 64)) ∧
      exec (.csrc ⟨g, d, n, src⟩) s = .next (s.precise s.cur .priv 0 1 (n.setWidth 64)) ∧
      (n ≠ 0x00C → exec (.csrs ⟨g, d, n, src⟩) s = .next (s.precise s.cur .priv 0 1 (n.setWidth 64)))

/-! ### The V slots -/

/-- Arithmetic of the V slots (R207 to R209) with its latencies (R92): for a float type the exact result is rounded once under the
operation's mode, for an integer type it wraps or clamps; `min` and `max` give the NaN of the format for a NaN. `dot4` adds four products of
bytes to an element of vc, exactly, and rounds, wraps or clamps the sum once. -/
def Obligations.VectorArithmetic : Prop :=
  ∀ o : VOp,
    let fmt := NumFmt.ofElem o.ty
    let m := o.rm.toNat
    let lat := if o.ty.isF then 4 else 2
    (∀ f, fmt = .flt f →
      let rnd (v : Flagged Val) : Flagged Nat := ⟨(f.round v.val m o.sat).val, v.fl ||| (f.round v.val m o.sat).fl⟩
      elem2 (.vAdd o) o lat (fun a b => rnd (Val.add (m = 2) (f.decode a) (f.decode b))) ∧
      elem2 (.vSub o) o lat (fun a b => rnd (Val.add (m = 2) (f.decode a) (f.decode b).neg)) ∧
      elem2 (.vMul o) o lat (fun a b => rnd (Val.mul (f.decode a) (f.decode b))) ∧
      elem3 (.vFma o) o 4 (fun a b c => rnd (Val.fma (m = 2) (f.decode a) (f.decode b) (f.decode c) false false)) ∧
      elem3 (.vFms o) o 4 (fun a b c => rnd (Val.fma (m = 2) (f.decode a) (f.decode b) (f.decode c) false true)) ∧
      elem3 (.vFnma o) o 4 (fun a b c => rnd (Val.fma (m = 2) (f.decode a) (f.decode b) (f.decode c) true false)) ∧
      elem2 (.vMin o) o lat (fun a b =>
        plain (if (f.decode a).isNan || (f.decode b).isNan then f.nan else if (f.decode b).below (f.decode a) then b else a)) ∧
      elem2 (.vMax o) o lat (fun a b =>
        plain (if (f.decode a).isNan || (f.decode b).isNan then f.nan else if (f.decode a).below (f.decode b) then b else a)) ∧
      elem1 (.vAbs o) o 2 (fun a => plain (if (f.decode a).isNan then f.nan else a % 2 ^ (f.w - 1))) ∧
      elem1 (.vNeg o) o 2 (fun a => plain (if (f.decode a).isNan then f.nan else (a + 2 ^ (f.w - 1)) % 2 ^ f.w))) ∧
    (∀ i, fmt = .int i →
      elem2 (.vAdd o) o lat (fun a b => i.fit o.sat (i.decode a + i.decode b)) ∧
      elem2 (.vSub o) o lat (fun a b => i.fit o.sat (i.decode a - i.decode b)) ∧
      elem2 (.vMul o) o lat (fun a b => i.fit o.sat (i.decode a * i.decode b)) ∧
      elem1 (.vAbs o) o 2 (fun a => i.fit o.sat (i.decode a).natAbs) ∧ elem1 (.vNeg o) o 2 (fun a => i.fit o.sat (-(i.decode a))) ∧
      elem2 (.vMin o) o lat (fun a b => plain (if i.decode b < i.decode a then b else a)) ∧
      elem2 (.vMax o) o lat (fun a b => plain (if i.decode a < i.decode b then b else a))) ∧
    (let dots (f : Ctx → Nat → Flagged Nat) : Prop := changes (.vDot4 o) fun c =>
       c.landRes 4 o.vd 32 (vmap ((List.range 32).filter fun i => enabled (c.m o.m) 32 i) (f c)) (c.vTag o.va || c.vTag o.vb || c.vTag o.vc || c.mTag o.m)
     (∀ f, fmt = .flt f → dots fun c i =>
       let z := dot4Sum (m = 2) (fun k => f.decode (elem (c.v o.va) 8 (4 * i + k))) (fun k => f.decode (elem (c.v o.vb) 8 (4 * i + k)))
         (FFmt.f32.decode (elem (c.v o.vc) 32 i))
       ⟨(FFmt.f32.round z.val m o.sat).val, z.fl ||| (FFmt.f32.round z.val m o.sat).fl⟩) ∧
     ∀ k, fmt = .int k → dots fun c i =>
       let p (j : Nat) : Int := k.decode (elem (c.v o.va) 8 (4 * i + j)) * k.decode (elem (c.v o.vb) 8 (4 * i + j))
       let w : IFmt := ⟨32, k.signed⟩
       w.fit o.sat (w.decode (elem (c.v o.vc) 32 i) + p 0 + p 1 + p 2 + p 3))

/-- Compares, selects, bitwise operations and shifts of the V slots (R210 to R213): a compare writes the byte lanes of its enabled elements in a
mask; a shift by the element width or more gives 0, or for `sar` copies of the sign. -/
def Obligations.VectorCompareSelectShift : Prop :=
  ∀ o : VOp,
    let b := o.ty.bits
    let sh (i : Instr) (f : Nat → Nat → Nat) : Prop :=
      (o.ext = 1 → elem1 i o 2 (fun a => plain (f a o.vb.toNat))) ∧ (o.ext ≠ 1 → elem2 i o 2 (fun a n => plain (f a n)))
    (changes (.vCmp o) fun c =>
      c.land 2 (.m o.vd.toNat
        (lanesOf b ((enabledElems o c).filter fun e =>
          vectorCond o.ext.toNat ((NumFmt.ofElem o.ty).decode (elem (c.v o.va) b e)) ((NumFmt.ofElem o.ty).decode (elem (c.v o.vb) b e))))
        (lanesOf b (enabledElems o c))) (c.vTag o.va || c.vTag o.vb || c.mTag o.m)) ∧
    landsV (.vSel o) o 2 (fun c e => plain (elem (if enabled (c.m (o.ext.truncate 3)) b e then c.v o.va else c.v o.vb) b e))
      (fun c => c.vTag o.va || c.vTag o.vb || c.mTag (o.ext.truncate 3)) ∧
    elem2 (.vAnd o) o 2 (fun x y => plain (x &&& y)) ∧ elem2 (.vOr o) o 2 (fun x y => plain (x ||| y)) ∧
    elem2 (.vXor o) o 2 (fun x y => plain (x ^^^ y)) ∧ elem1 (.vNot o) o 2 (fun x => plain (2 ^ b - 1 - x)) ∧
    sh (.vShl o) (fun a n => if b ≤ n then 0 else a * 2 ^ n % 2 ^ b) ∧ sh (.vShr o) (fun a n => if b ≤ n then 0 else a / 2 ^ n) ∧
    sh (.vSar o) (fun a n => if 2 ^ (b - 1) ≤ a then a / 2 ^ min n b + (2 ^ b - 2 ^ (b - min n b)) else a / 2 ^ min n b)

/-- Conversions, packs and special functions (R214 to R218): `cvt` between formats of one width takes element e from element e, to a narrower
one fills part p of vd, to a wider one takes part p of va; each element is rounded once under the operation's mode; the special functions give
what Config picks within the manual's bounds (the model's choice, log entry 5). -/
def Obligations.VectorConversions : Prop :=
  (∀ (o : VOp) (st : ElemTy), o.srcTy = some st →
    let conv (two : Bool) (pairs : List (Nat × Nat)) (c : Ctx) : Ctx :=
      let es := pairs.filter fun p => enabled (c.m o.m) o.ty.bits p.1
      let src (k : Nat) : Nat :=
        if two && st.count ≤ k then elem (c.v o.vb) st.bits (k - st.count) else elem (c.v o.va) st.bits k
      let r : VRes := es.foldr (fun p r =>
        let x := convElem st o.ty o.rm.toNat o.sat (src p.2)
        ⟨(p.1, x.val) :: r.elems, x.fl ||| r.fl⟩) ⟨[], 0⟩
      c.landRes 4 o.vd o.ty.bits r (c.vTag o.va || (two && c.vTag o.vb) || c.mTag o.m)
    (st.bits = o.ty.bits → changes (.vCvt o) (conv false ((List.range o.ty.count).map fun e => (e, e)))) ∧
    (o.ty.bits < st.bits → changes (.vCvt o) (conv false ((List.range st.count).map fun e => (o.part * st.count + e, e)))) ∧
    (st.bits < o.ty.bits → changes (.vCvt o) (conv false ((List.range o.ty.count).map fun e => (e, o.part * o.ty.count + e)))) ∧
    changes (.vPack o) (conv true ((List.range o.ty.count).map fun e => (e, e))) ∧
    changes (.vUnpack o) (conv false ((List.range o.ty.count).map fun e => (e, o.ty.bits / st.bits * e + o.part)))) ∧
  ∀ (o : VOp) (f : FFmt), NumFmt.ofElem o.ty = .flt f →
    elem1 (.vExp2 o) o 8 (fun a => SpecFn.exp2.eval f a o.rm.toNat o.sat) ∧ elem1 (.vLog2 o) o 8 (fun a => SpecFn.log2.eval f a o.rm.toNat o.sat) ∧
    elem1 (.vRcp o) o 8 (fun a => SpecFn.rcp.eval f a o.rm.toNat o.sat) ∧ elem1 (.vRsqrt o) o 8 (fun a => SpecFn.rsqrt.eval f a o.rm.toNat o.sat) ∧
    elem1 (.vSqrt o) o 12 (fun a => SpecFn.sqrt.eval f a o.rm.toNat o.sat) ∧ elem1 (.vTanh o) o 8 (fun a => SpecFn.tanh.eval f a o.rm.toNat o.sat)

/-- Reductions, the scan, permutes and moves (R115, R116, R219 to R225): a reduction writes element 0 whatever the mask, with the tree of R115
over the enabled lanes or the operation's empty value; the scan sets the flags of its enabled lanes alone (the model's reading, log entry 96); a permute
index past the last element gives 0; `slide` runs on from va into vb. -/
def Obligations.VectorReductionsAndMoves : Prop :=
  (∀ o : VOp,
    let n := o.ty.count
    let b := o.ty.bits
    let fmt := NumFmt.ofElem o.ty
    let lanes (c : Ctx) : Lanes := (List.range n).map fun e => if enabled (c.m o.m) b e then some (elem (c.v o.va) b e) else none
    let reduce (op : Nat → Nat → Flagged Nat) (empty : Nat) (c : Ctx) : Ctx :=
      let r := treeReduce op n.log2 (lanes c)
      c.landRes 6 o.vd b ⟨[(0, fmt.canon (r.1.getD empty))], r.2⟩ (c.vTag o.va || c.mTag o.m)
    changes (.vRadd o) (reduce (elemAdd fmt o.rm.toNat o.sat) 0) ∧
    changes (.vRmax o) (reduce (elemMinMax fmt true) (emptyMinMax fmt true)) ∧
    changes (.vRmin o) (reduce (elemMinMax fmt false) (emptyMinMax fmt false)) ∧
    (changes (.vSadd o) fun c =>
      let r := scanAll (elemAdd fmt o.rm.toNat o.sat) ((lanes c).map fun x => x.isSome) n.log2 1 (lanes c)
      c.landRes 6 o.vd b ⟨(enabledElems o c).map fun e => (e, fmt.canon ((r.1.getD e none).getD 0)), r.2⟩ (c.vTag o.va || c.mTag o.m)) ∧
    landsV (.vPerm o) o 3
      (fun c e => plain (if elem (c.v o.vb) b e < n then elem (c.v o.va) b (elem (c.v o.vb) b e) else 0)) (fun c => c.vTag o.va || c.vTag o.vb) ∧
    landsV (.vShuf o) o 3
      (fun c e =>
        let pick (second : Bool) (k : Nat) : Nat := elem (if second then c.v o.vb else c.v o.va) b k
        plain (match o.ext.toNat with
          | 0 => pick (e % 2 = 1) (e / 2)
          | 1 => pick (e % 2 = 1) (n / 2 + e / 2)
          | 2 => if e < n / 2 then pick false (2 * e) else pick true (2 * (e - n / 2))
          | _ => if e < n / 2 then pick false (2 * e + 1) else pick true (2 * (e - n / 2) + 1)))
      (fun c => c.vTag o.va || c.vTag o.vb) ∧
    landsV (.vBcast o) o 3 (fun c _ => plain (elem (c.v o.va) b o.index)) (fun c => c.vTag o.va) ∧
    landsV (.vSlide o) o 3
      (fun c e => plain (if e + o.index < n then elem (c.v o.va) b (e + o.index) else elem (c.v o.vb) b (e + o.index - n)))
      (fun c => c.vTag o.va || c.vTag o.vb) ∧
    elem1 (.vMov o) o 2 plain) ∧
  ∀ (u : VUnit) (m : BitVec 3) (ty : ElemTy) (vd : BitVec 6) (imm : BitVec 32),
    changes (.vMovi u m ty vd imm) fun c =>
      c.landRes 2 vd ty.bits (vmap ((List.range ty.count).filter fun e => enabled (c.m m) ty.bits e) fun _ => plain (imm.toNat % 2 ^ ty.bits)) (c.mTag m)

/-- Mask operations write all 128 bits and take the tags of their sources (R226); `dup` queues a compare of the V0 result of its bundle, the newest
entry behind those of the M slot, with what its own unit makes of the same operation (R79, R227; that the units compute alike is the model's choice,
log entry 9), and has no effect where V0 wrote none. At the due tick equal results land; a difference suspends the context with SILENT_MISMATCH and the
bundle of the `dup`, and the register of the V0 result is not written. -/
def Obligations.MaskOperationsAndDup : Prop :=
  (∀ o : VOp,
    let a : BitVec 3 := o.va.truncate 3
    let b : BitVec 3 := o.vb.truncate 3
    let two (f : Mask → Mask → Mask) (c : Ctx) : Ctx := c.land 2 (.m o.vd.toNat (f (c.m a) (c.m b)) (BitVec.allOnes 128)) (c.mTag a || c.mTag b)
    changes (.vMand o) (two fun x y => x &&& y) ∧ changes (.vMor o) (two fun x y => x ||| y) ∧ changes (.vMxor o) (two fun x y => x ^^^ y) ∧
    changes (.vMnot o) fun c => c.land 2 (.m o.vd.toNat (~~~(c.m a)) (BitVec.allOnes 128)) (c.mTag a)) ∧
  (∀ s : State,
    let own := (s.me.regs.landing.drop s.me.mEnd).getLast?.filter fun l => decide (l.iss = s.me.regs.tick) && l.val.isWide
    let flags : BitVec 6 := match s.me.regs.flagQ.getLast? with
      | some f => if f.iss = s.me.regs.tick then f.bits else 0
      | none => 0
    (∀ l, own = some l → exec .dup s = .next (s.onMe fun c =>
      { c with regs := { c.regs with dupQ := c.regs.dupQ ++ [⟨c.regs.pc, l, flags⟩] } })) ∧
    (own = none → ∃ t, exec .dup s = .next t ∧ ∀ c, t.ctx c = s.ctx c)) ∧
  ∀ (c : CtxId) (d : DupPend) (s : State), (s.ctx c).regs.dupQ = [d] →
    let x := s.ctx c
    let y := (s.landNow c).ctx c
    (x.unequal d = false → y.st = x.st ∧ y.regs.landing = x.landDue.regs.landing ∧ y.regs.v = x.landDue.regs.v ∧ y.regs.m = x.landDue.regs.m) ∧
    (d.second.isDue x.regs.tick = true → x.regs.landing.contains d.second = false →
      y.st = .suspended ∧ field y.faultInfo 7 0 = Kind.silentMismatch.code ∧ field y.faultInfo 63 32 = d.bundle % 2 ^ 32 ∧ y.regs.dupQ = [] ∧
        ∀ l, x.regs.landing = [l] → d.concerns l = true → y.regs.v = x.regs.v ∧ y.regs.m = x.regs.m)

/-! ### The X and M slots -/

/-- Moves between the files and writes of the scale latches (R228 to R233): their latencies, the words and halves they move, and the latch
entries that `sld`, `szp` and `sclr` write. -/
def Obligations.TransfersAndLatches : Prop :=
  (∀ (a vd : BitVec 6) (j : BitVec 4),
    (changes (.xs2v a vd false j) fun c =>
      c.landV 2 vd (gatherElems 64 [(j.toNat, (c.s a).toNat)]) (lanesOf 64 [j.toNat]) (c.sTag a)) ∧
    changes (.xs2v a vd true j) fun c =>
      c.landV 2 vd (gatherElems 64 ((List.range 16).map fun j => (j, (c.s a).toNat))) (lanesOf 64 (List.range 16)) (c.sTag a)) ∧
  (∀ (d va : BitVec 6) (j : BitVec 4), changes (.xv2s d va j) fun c => c.landS 3 d ((c.v va).extractLsb' (64 * j.toNat) 64) (c.vTag va)) ∧
  (∀ (d : BitVec 6) (m : BitVec 3) (h : Bool),
    changes (.xm2s d m h) fun c => c.landS 2 d ((c.m m).extractLsb' (if h then 64 else 0) 64) (c.mTag m)) ∧
  (∀ (a : BitVec 6) (m : BitVec 3),
    (changes (.xs2m a m false) fun c => c.land 2 (.m m.toNat ((c.s a).setWidth 128) ((BitVec.allOnes 64).setWidth 128)) (c.sTag a)) ∧
    changes (.xs2m a m true) fun c =>
      c.land 2 (.m m.toNat ((c.s a).setWidth 128 <<< 64) ((BitVec.allOnes 64).setWidth 128 <<< 64)) (c.sTag a)) ∧
  ∀ (l : Latch) (va a : BitVec 6) (s : State), s.me.sTag a = false → s.me.vTag va = false →
    exec (.sld l va a) s = .next (s.onMe fun c =>
      c.land 4 (.latch l.code ((List.range 32).map fun e =>
        (16 * (2 * field (c.s a) 5 1 + e / 16) + e % 16, (c.v va).extractLsb' (32 * e) 32))) false) ∧
    (∀ g : BitVec 2, exec (.szp l va a g) s = .next (s.onMe fun c =>
      c.land 4 (.latch l.code ((((List.range (2 ^ g.toNat)).map fun i => field (c.s a) 3 0 + i).filter fun k => decide (k < 16)).flatMap fun k =>
        (List.range 32).map fun e => (16 * (32 * field (c.s a) 4 4 + e) + k, (c.v va).extractLsb' (32 * e) 32))) false)) ∧
    exec (.sclr l a) s = .next (s.onMe fun c => c.land 4 (.latch l.code ((List.range 1024).map fun k => (k, (c.s a).truncate 32))) false)

/-- Products and the moves of tile contents (R234 to R248), where their checks pass: the operand panels are aligned, owned, readable and, for
`mma`, in different bank groups. Each result replaces its tile, or is written, after the latency of R237 or R242, and a product keeps its tile
busy as long (R30). A tile element clamps to an integer format (log entry 97), and a write of a tile with a product pending commits that first (log entry
21); both are the model's readings. -/
def Obligations.MatrixOperations : Prop :=
  (∀ (o : MMul) (s : State),
    let n := if isS s.cur.core then 4 else 64
    let a := field (s.me.s o.sA) 19 0
    let b := field (s.me.s o.sB) 19 0
    let la := 64 * (o.kb1.toNat + 1) * rowSize o.fa
    let lb := n * (o.kb1.toNat + 1) * rowSize o.fb
    let busy := busyCycles s.cur.core o.fa (o.kb1.toNat + 1)
    let lands (rowA rowB : Nat → Nat → Nat) (t : State) : Prop :=
      let r := product s.me o n rowA rowB
      t = s.onMe fun c =>
        let c1 := (c.landTile o.tile.toNat busy r.val true).flag busy r.fl
        { c1 with tileBusy := SMap.set 0 c1.tileBusy o.tile.toNat ((s.core s.cur.core).cycles + busy) }
    s.me.guard o.g = true → s.me.sTag o.sB = false → b % 128 = 0 →
    s.ownerFault (s.who s.cur) s.cur.core 5 b lb = none → (s.coreBytes s.cur.core b lb).2 = none →
    (s.me.sTag o.sA = false → a % 128 = 0 → ¬ (o.fa = .f64 ∧ isS s.cur.core = true) →
      leavesGroup a la = false → leavesGroup b lb = false → a / 2 ^ 18 ≠ b / 2 ^ 18 →
      s.ownerFault (s.who s.cur) s.cur.core 5 a la = none → (s.coreBytes s.cur.core a la).2 = none →
      ∃ t, exec (.mma o) s = .next t ∧ lands (s.panelRow a 64 o.fa) (s.panelRow b n o.fb) t) ∧
    (isS s.cur.core = true → s.me.rowFault o.sA.toNat la = none →
      ∃ t, exec (.mmr o) s = .next t ∧
        lands (fun k i => ofBytes (s.me.rowBytes o.sA.toNat ((64 * k + i) * rowSize o.fa) (rowSize o.fa))) (s.panelRow b n o.fb) t)) ∧
  (∀ (g : Guard) (t : BitVec 2) (s : State), s.me.guard g = true →
    exec (.mzero g t) s = .next (s.onMe fun c => c.landTile t.toNat 1 ⟨.window, -320, [], []⟩ false)) ∧
  (∀ (o : MMove) (s : State),
    let n := if isS s.cur.core then 4 else 64
    let a := field (s.me.s o.reg) 19 0
    let len := imageBytes o.code.toNat n
    let tile := s.me.seenTile o.tile.toNat
    s.me.guard o.g = true → s.me.sTag o.reg = false → a % 128 = 0 → s.ownerFault (s.who s.cur) s.cur.core 5 a len = none →
    exec (.mst o) s = .next ((s.coreStore 8 a (tile.image n o.code.toNat o.rm.toNat).1).onMe fun c =>
      c.flag 8 (tile.image n o.code.toNat o.rm.toNat).2) ∧
    ((s.coreBytes s.cur.core a len).2 = none →
      let r := tile.load n o.code.toNat (o.lo.getLsbD 0) (s.coreBytes s.cur.core a len).1
      exec (.mld o) s = .next (s.onMe fun c => (c.landTile o.tile.toNat 8 r.val false).flag 8 r.fl))) ∧
  ∀ (o : MMove) (s : State),
    let n := if isS s.cur.core then 4 else 64
    let b := (tileFmt o.code.toNat).bits
    let tile := s.me.seenTile o.tile.toNat
    let pos (e : Nat) : Nat := linePos s.cur.core o.code.toNat (o.lo.toNat / 4) (o.lo.toNat % 4) e
    s.me.guard o.g = true → ¬ (isS s.cur.core = true ∧ 4 ≤ o.lo.toNat / 4) →
    exec (.mrd o) s = .next (s.onMe fun c =>
      let d := c.landRes 4 o.reg b (vmap (List.range (1024 / b)) fun e =>
        (tileFmt o.code.toNat).round ((tile.vals n).getD (pos e) Val.zero) o.rm.toNat false false) false
      { d with mEnd := d.regs.landing.length }) ∧
    (s.me.vTag o.reg = false →
      let named := (List.range (1024 / b)).map fun e => (pos e, (tileFmt o.code.toNat).decode (elem (s.me.v o.reg) b e))
      let given := (List.range (64 * n)).map fun k => (named.find? fun p => decide (p.1 = k)).map fun p => p.2
      (tile.mode = .window →
        let r := tile.enterAll n (given.map fun x => x.getD Val.zero)
        exec (.mwr o) s = .next (s.onMe fun c => (c.landTile o.tile.toNat 2 r.val false).flag 2 r.fl)) ∧
      (tile.mode = .f64 →
        let r := tile.addDoubles n given
        exec (.mwr o) s = .next (s.onMe fun c => (c.landTile o.tile.toNat 2 r.val false).flag 2 r.fl)))

/-! ### The L and T slots -/

/-- Core-store accesses where their checks pass (R128, R250, R254 to R256): the load's bytes are read at issue and are due 6 ticks on (8 for the
gather); the store's bytes enter the core's writes, marked with their context's binding, to take effect at issue + 1; each gathered or scattered
element has its own offset. Where a check fails it raises, in the order of R252: ALIGN for an offset that is no multiple of its width, then XLATE(owner)
for the first bank that does not match (R157). -/
def Obligations.CoreStoreAccesses : Prop :=
  (∀ (o : MemB) (s : State),
    let n := widthBytes o.acc.width
    let off := (s.me.s o.base + o.disp.signExtend 64).toNat % 2 ^ 20
    s.me.guard o.acc.g = true → s.me.sTag o.base = false → off % n = 0 →
    (s.ownerFault (s.who s.cur) s.cur.core 6 off n = none → (s.coreBytes s.cur.core off n).2 = none →
      exec (.ldc o) s = .next (s.onMe fun c => c.land 6 (loadVal c o.acc (s.coreBytes s.cur.core off n).1) false)) ∧
    (s.ownerFault (s.who s.cur) s.cur.core 7 off n = none → (if o.acc.file then s.me.vTag o.acc.reg else s.me.sTag o.acc.reg) = false →
      exec (.stc o) s = .next (s.onCore s.cur.core fun k =>
        { k with writes := k.writes ++ [⟨s.cur.slot, s.me.bid, s.me.regs.tick + 1, off,
            toBytes n (if o.acc.file then (s.me.v o.acc.reg).toNat else (s.me.s o.acc.reg).toNat), List.replicate n true, s.me.seq,
            decide (off % 32 = 0 ∧ n % 32 = 0), 0⟩] }))) ∧
  (∀ (o : MemB) (s : State),
    let n := widthBytes o.acc.width
    let off := (s.me.s o.base + o.disp.signExtend 64).toNat % 2 ^ 20
    s.me.guard o.acc.g = true → s.checked = false → s.me.sTag o.base = false →
    (off % n ≠ 0 → exec (.ldc o) s = .next (s.precise s.cur .align 0 6 (BitVec.ofNat 64 off))) ∧
    (∀ b, off % n = 0 → s.badBank (s.who s.cur) s.cur.core off n = some b → exec (.ldc o) s = .next (s.raise s.cur (Exn.xlate .owner 0 0 6 b))) ∧
    ((if o.acc.file then s.me.vTag o.acc.reg else s.me.sTag o.acc.reg) = false →
      (off % n ≠ 0 → exec (.stc o) s = .next (s.precise s.cur .align 0 7 (BitVec.ofNat 64 off))) ∧
      ∀ b, off % n = 0 → s.badBank (s.who s.cur) s.cur.core off n = some b →
        exec (.stc o) s = .next (s.raise s.cur (Exn.xlate .owner 0 0 7 b)))) ∧
  (∀ (o : MemG) (s : State),
    let w := widthBytes o.acc.width
    let b := (s.me.s o.base + o.disp.signExtend 64).toNat
    s.me.guard o.acc.g = true → s.checked = false → s.me.sTag o.base = false →
    (s.me.sTag o.x = false →
      (b % 2 ^ 20 % 4 ≠ 0 → exec (.ldgc o) s = .next (s.precise s.cur .align 0 6 (BitVec.ofNat 64 (b % 2 ^ 20)))) ∧
      (b % 2 ^ 20 % 4 = 0 → (s.me.s o.x).toNat % w ≠ 0 →
        exec (.ldgc o) s = .next (s.precise s.cur .align 0 6 (BitVec.ofNat 64 (s.me.s o.x).toNat))) ∧
      ∀ k, b % 2 ^ 20 % 4 = 0 → (s.me.s o.x).toNat % w = 0 → s.badBank (s.who s.cur) s.cur.core (b % 2 ^ 20) (512 / w) = some k →
        exec (.ldgc o) s = .next (s.raise s.cur (Exn.xlate .owner 0 0 6 k))) ∧
    (s.me.vTag o.x = false → s.me.vTag o.acc.reg = false →
      (b % w ≠ 0 → exec (.stsc o) s = .next (s.precise s.cur .align 0 7 (BitVec.ofNat 64 b))) ∧
      ∀ (e k : Nat), b % w = 0 → (List.range (128 / w)).find? (fun i => enabled (s.me.m o.m) (8 * w) i &&
          (s.badBank (s.who s.cur) s.cur.core ((b + elem (s.me.v o.x) (8 * w) i * w) % 2 ^ 20) w).isSome) = some e →
        s.badBank (s.who s.cur) s.cur.core ((b + elem (s.me.v o.x) (8 * w) e * w) % 2 ^ 20) w = some k →
        exec (.stsc o) s = .next (s.raise s.cur (Exn.xlate .owner 0 0 7 k)))) ∧
  ∀ (o : MemG) (s : State),
    let w := widthBytes o.acc.width
    let es := (List.range (128 / w)).filter fun e => enabled (s.me.m o.m) (8 * w) e
    s.me.guard o.acc.g = true → s.me.sTag o.base = false →
    (let x := (s.me.s o.base + o.disp.signExtend 64).toNat % 2 ^ 20
     let at_ (e : Nat) : Nat := ((s.me.s o.x).toNat + ofBytes (s.coreBytes s.cur.core (x + 4 * e) 4).1 * w) % 2 ^ 20
     s.me.sTag o.x = false → x % 4 = 0 → (s.me.s o.x).toNat % w = 0 →
     s.ownerFault (s.who s.cur) s.cur.core 6 x (512 / w) = none → (s.coreBytes s.cur.core x (512 / w)).2 = none →
     (∀ e ∈ es, s.ownerFault (s.who s.cur) s.cur.core 6 (at_ e) w = none ∧ (s.coreBytes s.cur.core (at_ e) w).2 = none) →
     exec (.ldgc o) s = .next (s.onMe fun c =>
       c.landV 8 o.acc.reg (gatherElems (8 * w) (es.map fun e => (e, ofBytes (s.coreBytes s.cur.core (at_ e) w).1))) (lanesOf (8 * w) es)
         (c.mTag o.m))) ∧
    (let b := (s.me.s o.base + o.disp.signExtend 64).toNat
     let at_ (e : Nat) : Nat := (b + elem (s.me.v o.x) (8 * w) e * w) % 2 ^ 20
     s.me.vTag o.x = false → s.me.vTag o.acc.reg = false → b % w = 0 →
     (∀ e ∈ es, s.ownerFault (s.who s.cur) s.cur.core 7 (at_ e) w = none) →
     ∃ t, exec (.stsc o) s = .next t ∧
       (t.core s.cur.core).writes = (s.core s.cur.core).writes ++ es.map fun e =>
         ⟨s.cur.slot, s.me.bid, s.me.regs.tick + 1, at_ e, toBytes w (elem (s.me.v o.acc.reg) (8 * w) e), List.replicate w true, s.me.seq,
           decide (at_ e % 32 = 0 ∧ w % 32 = 0), 0⟩)

/-- Window loads (R147, R251, R259, R260): a load of a bound window whose slot at the row holds that row filled reads the row's bytes; a speculative
one whose row is poisoned, whose sectors have a bad code or poison, or one of whose sources is tagged, gives a tagged zero instead. On an unbound
window both raise COORD, the speculative one also with a tagged source. With untagged sources both raise, in the order of R252, COORD beyond the row's
width, ALIGN, SCHED_TAG for a slot of another row or one that is not filled yet, and XLATE(owner). -/
def Obligations.WindowLoads : Prop :=
  (∀ (o : MemW) (s : State), s.me.guard o.acc.g = true →
    ((s.window (s.me.winId o.w.toNat)).bound = true → s.me.sTag o.row = true ∨ s.me.sTag o.off = true →
      exec (.ldsw o) s = .next (s.onMe fun c => c.land 6 (loadVal c o.acc []) true)) ∧
    ((s.window (s.me.winId o.w.toNat)).bound = false → s.checked = false →
      exec (.ldsw o) s = .next (s.raise s.cur (Exn.coord o.w.toNat 5 6 0)) ∧ exec (.ldw o) s = .next (s.raise s.cur (Exn.coord o.w.toNat 5 6 0)))) ∧
  (∀ (o : MemW) (s : State),
    let n := widthBytes o.acc.width
    let w := s.window (s.me.winId o.w.toNat)
    let e := (s.me.s o.row).toNat
    let off := (s.me.s o.off).toNat + o.imm.toNat
    let a := w.byteAt e off
    let both (x : Exn) : Prop := exec (.ldw o) s = .next (s.raise s.cur x) ∧ exec (.ldsw o) s = .next (s.raise s.cur x)
    s.me.guard o.acc.g = true → s.checked = false → s.me.sTag o.row = false → s.me.sTag o.off = false → w.bound = true →
    (w.stride < off + n → both (Exn.coord o.w.toNat 5 6 off)) ∧
    (off + n ≤ w.stride →
      (a % n ≠ 0 → both (.fault .align 0 6 (BitVec.ofNat 64 a))) ∧
      (a % n = 0 →
        ((w.slot e).tag.toNat ≠ e % 2 ^ 16 ∨ (w.slot e).st = .empty ∨ (w.slot e).st = .filling →
          both (.fault .schedTag 0 (o.w.setWidth 64) (s.me.s o.row))) ∧
        ∀ b, (w.slot e).tag.toNat = e % 2 ^ 16 → (w.slot e).st = .filled ∨ (w.slot e).st = .poisoned →
          s.badBank (s.who s.cur) s.cur.core a n = some b → both (Exn.xlate .owner 0 0 6 b)))) ∧
  ∀ (o : MemW) (s : State),
    let n := widthBytes o.acc.width
    let w := s.window (s.me.winId o.w.toNat)
    let e := (s.me.s o.row).toNat
    let off := (s.me.s o.off).toNat + o.imm.toNat
    let a := w.byteAt e off
    s.me.guard o.acc.g = true → s.me.sTag o.row = false → s.me.sTag o.off = false → w.bound = true → off + n ≤ w.stride → a % n = 0 →
    (w.slot e).tag.toNat = e % 2 ^ 16 → s.ownerFault (s.who s.cur) s.cur.core 6 a n = none →
    ((w.slot e).st = .filled → (s.coreBytes s.cur.core a n).2 = none →
      exec (.ldw o) s = .next (s.onMe fun c => c.land 6 (loadVal c o.acc (s.coreBytes s.cur.core a n).1) false) ∧
      exec (.ldsw o) s = .next (s.onMe fun c => c.land 6 (loadVal c o.acc (s.coreBytes s.cur.core a n).1) false)) ∧
    ((w.slot e).st = .filled → (s.coreBytes s.cur.core a n).2 ≠ none →
      exec (.ldsw o) s = .next (s.onMe fun c => c.land 6 (loadVal c o.acc []) true)) ∧
    ((w.slot e).st = .poisoned → exec (.ldsw o) s = .next (s.onMe fun c => c.land 6 (loadVal c o.acc []) true))

/-- Queued accesses (R28, R32, R33, R133, R257 to R262), with untagged registers and an address that passes its checks: a load enters its context's
queue, and its result the landing queue with no tick yet; a store enters the gate, while it has room; in a marked bundle both enter their queue with
their translation made, as an `amo` does in any bundle, whose result waits like a load's. An `ldsm` with a tagged register, a failing address or, in a
marked bundle, a failing translation raises nothing: it enters its queue as done without an access, and the result that it brings to its covering
`waitr` is zero with a tag (R251, R260). -/
def Obligations.QueuedAccesses : Prop :=
  (∀ (a : Acc) (i : Instr) (sp : QSpace) (regs : List (BitVec 6)) (tgt : Ctx → Target) (ph : AccPhase) (s : State),
    ((∃ o : MemB, i = .ldk o ∧ sp = .k ∧ a = o.acc ∧ regs = [o.base] ∧ tgt = fun c => .k (c.s o.base + o.disp.signExtend 64).toNat) ∨
     (∃ o : MemB, i = .ldd o ∧ sp = .d ∧ a = o.acc ∧ regs = [o.base] ∧ tgt = fun c => .d (c.s o.base + o.disp.signExtend 64).toNat) ∨
     ∃ o : MemH, (i = .ldm o ∧ sp = .m ∨ i = .ldf o ∧ sp = .f ∨ i = .ldh o ∧ sp = .h ∨ i = .ldsm o ∧ sp = .m) ∧ a = o.acc ∧
       regs = [o.c0, o.c1, o.c2, o.c3, o.c4] ∧
       tgt = fun c => .t sp o.h.toNat (SMap.get 0 c.regs.h o.h.toNat).toNat (regs.map fun r => (c.s r).toNat)) →
    s.me.guard a.g = true → (∀ r ∈ regs, s.me.sTag r = false) →
    s.addressFault (s.who s.cur) (tgt s.me) (widthBytes a.width) 6 = none →
    (s.hdr.mark = false ∧ ph = .queued) ∨
      (s.hdr.mark = true ∧ ∃ h, s.resolve (s.who s.cur) (tgt s.me) (widthBytes a.width) 6 .read = .ok h ∧ ph = .walked h.1 h.2) →
    ∃ t q, exec i s = .next t ∧ t.me.queue = s.me.queue ++ [q] ∧ t.me.seq = s.me.seq + 1 ∧
      q.seq = s.me.seq ∧ q.bundle = s.me.regs.pc ∧ q.kind = .load (i matches .ldsm _) ∧ q.target = tgt s.me ∧ q.order = a.order ∧ q.scope = a.scope ∧
      q.phase = ph ∧
      ∃ l, t.me.regs.landing = s.me.regs.landing ++ [l] ∧ l.due = none ∧ l.var = some (sp, s.me.seq)) ∧
  (∀ (a : Acc) (i : Instr) (regs : List (BitVec 6)) (tgt : Ctx → Target) (s : State),
    ((∃ o : MemB, i = .stk o ∧ a = o.acc ∧ regs = [o.base] ∧ tgt = fun c => .k (c.s o.base + o.disp.signExtend 64).toNat) ∨
     (∃ o : MemB, i = .std o ∧ a = o.acc ∧ regs = [o.base] ∧ tgt = fun c => .d (c.s o.base + o.disp.signExtend 64).toNat) ∨
     ∃ (o : MemH) (sp : QSpace), (i = .stm o ∧ sp = .m ∨ i = .stf o ∧ sp = .f ∨ i = .sth o ∧ sp = .h) ∧ a = o.acc ∧
       regs = [o.c0, o.c1, o.c2, o.c3, o.c4] ∧
       tgt = fun c => .t sp o.h.toNat (SMap.get 0 c.regs.h o.h.toNat).toNat (regs.map fun r => (c.s r).toNat)) →
    s.me.guard a.g = true → (∀ r ∈ regs, s.me.sTag r = false) → (if a.file then s.me.vTag a.reg else s.me.sTag a.reg) = false →
    s.addressFault (s.who s.cur) (tgt s.me) (widthBytes a.width) 7 = none →
    let bytes := toBytes (widthBytes a.width) (if a.file then (s.me.v a.reg).toNat else (s.me.s a.reg).toNat)
    (s.hdr.mark = false → s.me.gate.length < 64 →
      exec i s = .next (s.onMe fun c =>
        { c with gate := c.gate ++ [⟨c.regs.pc, tgt c, bytes, a.order, a.scope, (s.group (groupOf s.cur.core)).dpsets, c.seq, false,
            s.targetBank (s.who s.cur) (tgt s.me) (widthBytes a.width), false⟩] })) ∧
    ∀ h, s.hdr.mark = true → s.resolve (s.who s.cur) (tgt s.me) (widthBytes a.width) 7 .write = .ok h →
      ∃ t q, exec i s = .next t ∧ t.me.queue = s.me.queue ++ [q] ∧ t.me.seq = s.me.seq + 1 ∧ t.me.gate = s.me.gate ∧
        q.seq = s.me.seq ∧ q.bundle = s.me.regs.pc ∧ q.kind = .store ∧ q.target = tgt s.me ∧ q.bytes = bytes ∧ q.order = a.order ∧
        q.scope = a.scope ∧ q.phase = .walked h.1 h.2) ∧
  (∀ (o : MemH) (s : State),
    let regs := [o.c0, o.c1, o.c2, o.c3, o.c4]
    let tgt : Target := .t .m o.h.toNat (SMap.get 0 s.me.regs.h o.h.toNat).toNat (regs.map fun r => (s.me.s r).toNat)
    let n := widthBytes o.acc.width
    s.me.guard o.acc.g = true →
    (∃ r ∈ regs, s.me.sTag r = true) ∨ s.addressFault (s.who s.cur) tgt n 6 ≠ none ∨
      (s.hdr.mark = true ∧ ∃ e, s.resolve (s.who s.cur) tgt n 6 .read = .error e) →
    ∃ t q l, exec (.ldsm o) s = .next t ∧ t.me.queue = s.me.queue ++ [q] ∧ q.seq = s.me.seq ∧ q.isDone = true ∧ q.spec = true ∧
      t.me.regs.landing = s.me.regs.landing ++ [l] ∧ l.due = none ∧ l.var = some (.m, s.me.seq) ∧ t.me.st = s.me.st ∧
      ∀ due, (l.arrive q due).tag = true ∧ (l.arrive q due).val = loadVal s.me o.acc []) ∧
  ∀ (o : AmoOp) (l : Loc × Option CachedEntry) (s : State),
    let n := if o.small then 4 else 8
    s.me.guard o.g = true → tagsOf s.me 7 (amoRegs o) = none → amoNegative o s.me = none →
    s.addressFault (s.who s.cur) (amoTarget o s.me) n 7 = none → s.resolve (s.who s.cur) (amoTarget o s.me) n 7 .both = .ok l →
    ∃ t q e, exec (.amo o) s = .next t ∧ t.me.queue = s.me.queue ++ [q] ∧ q.seq = s.me.seq ∧
      q.kind = .amo o.op o.small (s.me.s o.val) (s.me.s o.res) ∧ q.target = amoTarget o s.me ∧ q.phase = .walked l.1 l.2 ∧
      t.me.regs.landing = s.me.regs.landing ++ [e] ∧ e.due = none ∧ e.var = some ((amoTarget o s.me).space, s.me.seq)

/-! ### The E slot -/

/-- What a bundle's engine command adds: it is the newest command, of the issuing context, with its opcode, ring and tag, and everything issued
before it precedes it (R168, R270, R271). -/
def Sys2Proof.Claims.startsCommand (i : Instr) (s : State) (op ring : Nat) (tag : BitVec 16) (job : Job) : Prop :=
  ∃ t k, exec i s = .next t ∧ t.cmds.getLast? = some k ∧ k.ctx = s.cur ∧ k.asid = s.me.asid ∧ k.op = op ∧ k.ring = ring ∧ k.tag = tag ∧
    k.after = s.me.seq ∧ k.st = .running ∧ k.job = job

/-- Engine commands whose probe succeeds are accepted (R145 to R147, R270 to R286): copies and grid transfers with the job of their template,
window definitions and advances with the fill of their rows, of which a soft one keeps the rows that failed, deck blocks, collectives, and signals,
which carry their package and number (the model's choice, log entry 76); a collective is numbered by its address space and group (the model's choice, log
entry 45). A signal is sent when all that its `csig` forks from has happened, over a
live link, and its core-store writes are then visible (the model's reading, log entry 75). -/
def Obligations.EngineCommands : Prop :=
  (∀ (o : EngOp) (s : State),
    let tag : BitVec 16 := (s.me.s o.c).truncate 16
    s.me.guard o.g = true → s.me.sTag o.a = false → s.me.sTag o.b = false → s.me.sTag o.c = false → s.me.ringId o.ring.toNat ≠ 0 →
    (∀ p, s.copyProbe (s.who s.cur) false o.tmpl.toNat (s.me.s o.a) (s.me.s o.b) = .ok p →
      startsCommand (.cpy o) s 0x01 o.ring.toNat tag (.copy p.1)) ∧
    (∀ p, s.copyProbe (s.who s.cur) true o.tmpl.toNat (s.me.s o.a) (s.me.s o.b) = .ok p →
      startsCommand (.gx o) s 0x02 o.ring.toNat tag (.copy p.1)) ∧
    ∀ p, s.collProbe (s.who s.cur) o.tmpl.toNat (s.me.s o.a) (s.me.s o.b) = .ok p →
      startsCommand (.coll o) s 0x07 o.ring.toNat tag
        (.coll { p.1 with seq := SMap.get 0 s.collSeq (groupKey s.me.asid p.1.group) })) ∧
  (∀ (g : Guard) (w : BitVec 3) (b : BitVec 6) (n : Bool) (p : WinProbe) (s : State),
    let off := field (s.me.s b) 19 0
    let d := s.descAt off
    s.me.guard g = true → off % 64 = 0 → s.ownerFault (s.who s.cur) s.cur.core 8 off 64 = none →
    s.windowProbe w.toNat d n 0 (winRows d) = .ok p →
    ∃ t k, exec (.wdef g w b n) s = .next t ∧ t.cmds.getLast? = some k ∧ k.ctx = s.cur ∧ k.op = 0x03 ∧
      k.job = .fill (t.me.winId w.toNat) 0 (winRows d) 0 0 p.bad ∧
      (let x := t.window (t.me.winId w.toNat); x.bound = true ∧ x.desc = d ∧ x.stride = p.stride ∧ x.head = 0)) ∧
  (∀ (g : Guard) (w : BitVec 3) (n : Bool) (count1 : BitVec 8) (p : WinProbe) (s : State),
    let x := s.window (s.me.winId w.toNat)
    let k := count1.toNat + 1
    s.me.guard g = true → x.bound = true → k ≤ winRows x.desc → s.windowProbe w.toNat x.desc n (x.head + winRows x.desc) k = .ok p →
    startsCommand (.wadv g w n count1) s 0x04 (winCq x.desc) 0 (.fill (s.me.winId w.toNat) (x.head + winRows x.desc) k 0 0 p.bad) ∧
    ∃ t, exec (.wadv g w n count1) s = .next t ∧ (t.window (s.me.winId w.toNat)).head = x.head + k) ∧
  (∀ (g : Guard) (h : BitVec 4) (b c : BitVec 6) (ring : BitVec 4) (p : Nat × List CachedEntry) (s : State),
    let part := (s.group (groupOf s.cur.core)).dpsets
    s.me.guard g = true →
    (∀ count1 : BitVec 6, s.blockProbe h ring (s.me.s b).toNat (s.me.s c).toNat (count1.toNat + 1) = .ok p →
      startsCommand (.lb g h b c ring count1) s 0x05 ring.toNat 0
        (.block (groupOf s.cur.core) part p.1 (s.me.s b).toNat (s.me.s c).toNat (count1.toNat + 1))) ∧
    (s.blockProbe h ring (s.me.s b).toNat (s.me.s c).toNat 1 = .ok p →
      startsCommand (.lbe g h b c ring) s 0x06 ring.toNat 0 (.evict (groupOf s.cur.core) part p.1 (s.me.s b).toNat (s.me.s c).toNat))) ∧
  (∀ (o : SigOp) (s : State),
    let p := s.me.s o.a
    let tag : BitVec 16 := (s.me.s o.c).truncate 16
    s.me.guard o.g = true → (o.ack = true → s.me.ringId o.ring.toNat ≠ 0) → s.links.selfValid = true →
    (s.me.world = true ∨ s.sigSealed false p = false → s.packagePresent (field p 7 0) = true →
      ∃ t, exec (.csig o) s = .next t ∧
        let sig : Signal := ⟨s.links.self, s.nextId, s.me.asid, s.me.world, false, p, o.counter, 0, tag⟩
        t.out = s.out ∧ ∃ k, t.cmds = s.cmds ++ [k] ∧ k.id = s.nextId ∧ k.op = 0x08 ∧ k.after = s.me.seq ∧ k.job = .csig sig o.ack false none) ∧
    (s.me.world = true ∨ s.sigSealed true p = false → s.packagePresent (field p 29 22) = true →
      ∃ t, exec (.csigRing o) s = .next t ∧
        let sig : Signal := ⟨s.links.self, s.nextId, s.me.asid, s.me.world, true, p, o.counter, (s.me.s o.b).truncate 32, tag⟩
        t.out = s.out ∧ ∃ k, t.cmds = s.cmds ++ [k] ∧ k.id = s.nextId ∧ k.op = 0x08 ∧ k.after = s.me.seq ∧ k.job = .csig sig o.ack false none)) ∧
  ∀ (k : Cmd) (sig : Signal) (ack : Bool) (r : Option Bool) (s : State), s.cmds = [k] → k.job = .csig sig ack false r →
    (s.forked k = true → s.reaches (sigPackage sig.ring sig.target) = true →
      s.sendSignals.out = s.out ++ [.signal k.id sig] ∧ s.sendSignals.cmds = [{ k with job := .csig sig ack true r }] ∧
      s.sendSignals.cores = (s.atFork k).cores) ∧
    (s.forked k = false ∨ s.reaches (sigPackage sig.ring sig.target) = false → s.sendSignals = s)

/-- Feature reuse (R287 to R292): `frp` lands PRB with its sixteen sums 24 ticks on; `frt` lands the decision to skip, the selection and the
entry's output; `fru` writes the entry for the task, `fru` of a skip counts its run on, and `frs` counts a sample and, where the pair
diverges beyond the bound, a divergence. -/
def Obligations.FeatureReuse : Prop :=
  (∀ (g : Guard) (a : BitVec 6) (ty : ElemTy) (count1 : BitVec 12) (s : State),
    let n := count1.toNat + 1
    let off := field (s.me.s a) 19 0
    s.me.guard g = true → off % 32 = 0 → s.ownerFault (s.who s.cur) s.cur.core 8 off (n * (ty.bits / 8)) = none →
    exec (.frp g a ty count1) s = .next (s.onMe fun c =>
      let r := s.coreBytes s.cur.core off (n * (ty.bits / 8))
      c.land 24 (.prb ((List.range 16).map (probeLane (NumFmt.ofElem ty) (spanElems r.1 ty.bits n)))) r.2.isSome)) ∧
  (∀ (g : Guard) (pd : BitVec 4) (sO sE : BitVec 6) (lpT lpL lpS : BitVec 4) (s : State), s.me.guard g = true → s.me.sTag sE = false →
    let x := s.me
    let e := s.reuseEntry s.cur (field (x.s sE) 11 0)
    let sel := selected x.task (SMap.get 0 x.lp lpS.toNat)
    let hit := e.valid && e.keyOf x
    let skip := hit && !sel && !x.regs.prb.tag && !(s.nodeState s.cur).off (taskStep x.task).toNat &&
      probesClose x.regs.prb.lanes e.probe ((SMap.get 0 x.lp lpT.toNat).truncate 32) && decide (e.run.toNat < field (SMap.get 0 x.lp lpL.toNat) 31 0)
    exec (.frt g pd sO sE lpT lpL lpS) s =
      .next (s.onMe fun c => ((c.landP 6 pd skip).landP 6 (pd + 1) sel).landS 6 sO (if hit then e.out else 0) false)) ∧
  (∀ (g : Guard) (sE sO : BitVec 6) (s : State), s.me.guard g = true →
    ∃ t, exec (.fru g sE sO) s = .next t ∧
      let e := t.reuseEntry s.cur (field (s.me.s sE) 11 0)
      e.valid = !s.me.regs.prb.tag ∧ e.keyOf s.me = true ∧ e.probe = s.me.regs.prb.lanes ∧ e.laststep = taskStep s.me.task ∧ e.run = 0 ∧
        e.out = s.me.s sO) ∧
  (∀ (g : Guard) (sE : BitVec 6) (s : State), s.me.guard g = true →
    let n := field (s.me.s sE) 11 0
    ∃ t, exec (.fruSkip g sE) s = .next t ∧
      ((s.reuseEntry s.cur n).valid = true → (s.reuseEntry s.cur n).keyOf s.me = true → (s.reuseEntry s.cur n).run ≠ BitVec.allOnes 32 →
        t.reuseEntry s.cur n = { s.reuseEntry s.cur n with run := (s.reuseEntry s.cur n).run + 1 }) ∧
      ((s.reuseEntry s.cur n).valid = false → t.groups = s.groups)) ∧
  ∀ (g : Guard) (sF sC sN : BitVec 6) (ty : ElemTy) (lpS : BitVec 4) (dis : Bool) (s : State),
    let n := field (s.me.s sN) 11 0 + 1
    let bytes := n * (ty.bits / 8)
    let f := field (s.me.s sF) 19 0
    let c := field (s.me.s sC) 19 0
    s.me.guard g = true → bytes ≤ 4096 → f % 32 = 0 → c % 32 = 0 →
    s.ownerFault (s.who s.cur) s.cur.core 8 f bytes = none → s.ownerFault (s.who s.cur) s.cur.core 8 c bytes = none →
    let bound := FFmt.f32.decode (field (SMap.get 0 s.me.lp lpS.toNat) 63 32)
    exec (.frs g sF sC sN ty lpS dis) s = .next (s.onNode s.cur fun k =>
      if s.diverges ty f c n bound then
        { k with
          samples := k.samples + 1, divergences := k.divergences + 1
          disabled := if dis then some (match k.disabled with
            | some d => min d ((taskStep s.me.task).toNat + 4)
            | none => (taskStep s.me.task).toNat + 4) else k.disabled }
      else { k with samples := k.samples + 1 })

/-- The row commands of the S-core (R293 to R297) where the issuing context commands the channel, the banks that the command touches are leased to it
and every interval has passed, counted in the commander's ticks (the model's reading, log entry 77): `ract` opens the row, `rpre` closes the bank, or
all, whose checks look at the open banks alone (log entry 28), `rld` lands the row in its buffer 4 ticks on, `rstw` notes its time and `rref` gives the
set its next deadline. A command without its lease raises XLATE(leased); then the wrong bank state raises DRAM_TIMING with 7, and the first interval in
the table's order that has not passed with its index, and the opcode, channel and bank. -/
def Obligations.RowCommands : Prop :=
  ∀ (g : Guard) (ch : Bool) (s : State),
    let p := s.rowChannel ch
    let k := s.channel p.1 p.2
    let now := s.me.mono
    s.me.guard g = true → isS s.cur.core = true →
    (s.checked = false →
      let late (op bank index : Nat) : Exn := .fault .dramTiming 0 (BitVec.ofNat 64 (op + (if ch then 2 ^ 8 else 0) + bank * 2 ^ 9)) (BitVec.ofNat 64 index)
      let raises (i : Instr) (e : Exn) : Prop := exec i s = .next (s.raise s.cur e)
      (∀ (bank : BitVec 4) (a : BitVec 6) (rb : BitVec 2),
        let b := bank.toNat
        (s.rowLease ch [b] ≠ none → raises (.ract g ch bank a) (Exn.xlate .leased 0 0 8 0) ∧ raises (.rpre g ch false bank) (Exn.xlate .leased 0 0 8 0) ∧
          raises (.rld g rb ch bank) (Exn.xlate .leased 0 0 8 0) ∧ raises (.rstw g rb ch bank) (Exn.xlate .leased 0 0 8 0)) ∧
        (s.rowLease ch [b] = none →
          let rp := tooSoon now (SMap.get none k.rpreAt b) 28
          let rrd := tooSoon now k.racts.getLast? 8
          let faw := decide (4 ≤ k.racts.length) && tooSoon now k.racts.head? 32
          (k.row b ≠ none → raises (.ract g ch bank a) (late 0x10 b 7)) ∧
          (k.row b = none → (rp = true → raises (.ract g ch bank a) (late 0x10 b 3)) ∧
            (rp = false → rrd = true → raises (.ract g ch bank a) (late 0x10 b 4)) ∧
            (rp = false → rrd = false → faw = true → raises (.ract g ch bank a) (late 0x10 b 5)) ∧
            (rp = false → rrd = false → faw = false → tooSoon now (SMap.get none k.rrefAt (b % 4)) 400 = true →
              raises (.ract g ch bank a) (late 0x10 b 6))) ∧
          (k.row b = none → raises (.rld g rb ch bank) (late 0x12 b 7) ∧ raises (.rstw g rb ch bank) (late 0x13 b 7)) ∧
          (k.row b ≠ none → tooSoon now (SMap.get none k.ractAt b) 28 = true →
            raises (.rld g rb ch bank) (late 0x12 b 0) ∧ raises (.rstw g rb ch bank) (late 0x13 b 0)) ∧
          (k.row b ≠ none → (tooSoon now (SMap.get none k.ractAt b) 64 = true → raises (.rpre g ch false bank) (late 0x11 b 1)) ∧
            (tooSoon now (SMap.get none k.ractAt b) 64 = false → tooSoon now (SMap.get none k.rstwAt b) 30 = true →
              raises (.rpre g ch false bank) (late 0x11 b 2))))) ∧
      ∀ (set : BitVec 2) (b : Nat), s.rowLease ch [set.toNat, set.toNat + 4, set.toNat + 8, set.toNat + 12] = none →
        [set.toNat, set.toNat + 4, set.toNat + 8, set.toNat + 12].find? (fun x => (k.row x).isSome) = some b →
        raises (.rref g ch set) (late 0x14 b 7)) ∧
    (∀ bank : BitVec 4, s.rowLease ch [bank.toNat] = none →
      (∀ a : BitVec 6, k.row bank.toNat = none → tooSoon now (SMap.get none k.rpreAt bank.toNat) 28 = false →
        tooSoon now k.racts.getLast? 8 = false → (4 ≤ k.racts.length → tooSoon now k.racts.head? 32 = false) →
        tooSoon now (SMap.get none k.rrefAt (bank.toNat % 4)) 400 = false →
        ∃ t, exec (.ract g ch bank a) s = .next t ∧ (t.channel p.1 p.2).row bank.toNat = some (field (s.me.s a) 15 0) ∧
          SMap.get none (t.channel p.1 p.2).ractAt bank.toNat = some now) ∧
      (k.row bank.toNat ≠ none → tooSoon now (SMap.get none k.ractAt bank.toNat) 64 = false →
        tooSoon now (SMap.get none k.rstwAt bank.toNat) 30 = false →
        ∃ t, exec (.rpre g ch false bank) s = .next t ∧ (t.channel p.1 p.2).row bank.toNat = none ∧
          SMap.get none (t.channel p.1 p.2).rpreAt bank.toNat = some now) ∧
      ∀ rb : BitVec 2, k.row bank.toNat ≠ none → tooSoon now (SMap.get none k.ractAt bank.toNat) 28 = false →
        exec (.rld g rb ch bank) s =
          .next ((s.noteReads ((List.range 64).map fun i => .dev (s.openAddr ch bank.toNat + 32 * i))).onMe fun c =>
            c.land 4 (.rb rb.toNat (s.rowAt (s.openAddr ch bank.toNat))) false) ∧
        ∃ t, exec (.rstw g rb ch bank) s = .next t ∧ SMap.get none (t.channel p.1 p.2).rstwAt bank.toNat = some now) ∧
    (∀ bank : BitVec 4, s.rowLease ch ((List.range 16).filter fun b => (k.row b).isSome) = none →
      (∀ b, b < 16 → k.row b ≠ none →
        tooSoon now (SMap.get none k.ractAt b) 64 = false ∧ tooSoon now (SMap.get none k.rstwAt b) 30 = false) →
      ∃ t, exec (.rpre g ch true bank) s = .next t ∧ ∀ b, b < 16 → (t.channel p.1 p.2).row b = none) ∧
    ∀ set : BitVec 2, s.rowLease ch [set.toNat, set.toNat + 4, set.toNat + 8, set.toNat + 12] = none →
      (∀ b, b = set.toNat ∨ b = set.toNat + 4 ∨ b = set.toNat + 8 ∨ b = set.toNat + 12 → k.row b = none) →
      ∃ t, exec (.rref g ch set) s = .next t ∧ SMap.get 0 (t.channel p.1 p.2).deadline set.toNat = s.chip + (s.stack p.1).trefi

/-! ### The Y slot -/

/-- Rings, waits and barriers of the Y slot (R267, R268, R300 to R306, R322): each either goes on at once or blocks its context on its condition; on a
ring the contexts of the core that blocked before act first; a fence takes a number between the accesses before and after it, and keeps its scope, while
anything before it has not performed (the model's readings, log entries 13 and 72); a `rels` that a ring is owed acts before a later bundle (log entry
99). The deadline of `wtime` is an unbounded sum (the model's choice, log entry 15). -/
def Obligations.SynchronisationOperations : Prop :=
  (∀ (ring : BitVec 4) (s : State), s.me.ringId ring.toNat ≠ 0 →
    let id := s.me.ringId ring.toNat
    let u := s.serveFirst id
    let r := u.ring (u.me.ringId ring.toNat)
    (s.ringWaiters s.cur.core id = [] → (s.ring id).owed = [] → u = s) ∧ ((s.ring id).ready = false → u = s) ∧
    (∀ e, s.ringWaiters s.cur.core id = [] → (s.ring id).owed = [e] → (s.ring id).ready = true → e.2 < s.endKey s.cur.core →
      u = s.onRing id fun r => { r.free with owed := [] }) ∧
    (r.ready = true → ∀ d : BitVec 6, exec (.awaitf d ring) s = .next (u.onMe fun c => c.landS 1 d r.oldest false)) ∧
    ((u.ring id).ready = true → exec (.rels ring) s = .next (u.onRing id Ring.free)) ∧
    (r.ready = false → ∀ d : BitVec 6, ∃ t q, exec (.awaitf d ring) s = .next t ∧ t.me.st = .blocked (.awaitf ring.toNat q)) ∧
    ((u.ring id).ready = false → ∃ t, exec (.rels ring) s = .next t ∧ t.me.st = .blocked (.rels ring.toNat) ∧ t.rings = u.rings)) ∧
  (∀ (spaces : BitVec 5) (s : State),
    (s.me.allArrived spaces s.me.seq = true → s.me.badArrival spaces s.me.seq = none →
      exec (.waitr spaces) s = .next (s.onMe fun c => c.arriveAll spaces c.seq (c.regs.tick + 1) false)) ∧
    (s.me.allArrived spaces s.me.seq = false →
      exec (.waitr spaces) s =
        .next (s.onMe fun c => { c with st := .blocked (.waitr spaces c.seq c.regs.pc), blockedAt := (s.core s.cur.core).cycles }))) ∧
  (∀ (sc : Scope) (s : State),
    let waits := s.me.queue.any (fun q => !q.isDone) || (s.core s.cur.core).writes.any fun w => w.of s.cur.slot s.me.bid
    (waits = false → ∃ t, exec (.fence sc) s = .next t ∧ ∀ c, t.ctx c = s.ctx c) ∧
    (waits = true → exec (.fence sc) s = .next (s.onMe fun c => { c with fences := c.fences ++ [(c.seq, sc)], seq := c.seq + 1 }))) ∧
  (∀ (cluster : Bool) (id : BitVec 4) (count1 : BitVec 12) (s : State),
    let key := if cluster then 2 ^ 24 + groupOf s.cur.core * 16 + id.toNat else s.cur.core.toNat * 16 + id.toNat
    isS s.cur.core = false ∨ cluster = false ∨ count1.toNat < 64 →
    (∀ x, barJoin (s.barrier key) s.me.asid = some x → x.count = count1.toNat + 1 →
      ∃ t, exec (.bar cluster id count1) s = .next t ∧ t.me.st = .blocked (.bar key x.id) ∧
        t.barrier key = (s.barrier key).map fun y =>
          if y.id = x.id then { y with arrived := y.arrived + 1, from_ := y.from_ ++ [⟨s.cur, s.me.bid, s.me.seq⟩] } else y) ∧
    (barJoin (s.barrier key) s.me.asid = none →
      ∃ t n, exec (.bar cluster id count1) s = .next t ∧ t.me.st = .blocked (.bar key n) ∧
        t.barrier key = s.barrier key ++ [⟨n, s.me.asid, count1.toNat + 1, 1, [⟨s.cur, s.me.bid, s.me.seq⟩]⟩])) ∧
  (∀ s : State, exec .tend s = .next (s.onMe fun c => { c with st := .blocked .tend, blockedAt := (s.core s.cur.core).cycles }) ∧
    ∀ n1 : BitVec 6, exec (.yield n1) s = .next (s.onMe fun c => { c with yieldLeft := n1.toNat + 1 })) ∧
  (∀ (pred : Bool) (a b : BitVec 6) (s : State),
    let same := if pred then s.me.p (a.truncate 4) = s.me.p (b.truncate 4) else s.me.s a = s.me.s b
    (same → exec (.ckeq pred a b) s = .next s) ∧
    (¬ same → s.checked = false → exec (.ckeq pred a b) s = .next (s.precise s.cur .silentMismatch 0 9 (a.setWidth 64)))) ∧
  ∀ (a : BitVec 6) (rel : Bool) (s : State), s.me.sTag a = false →
    let d := (s.me.s a).toNat + (if rel then s.chip else 0)
    (d ≤ s.chip → exec (.wtime a rel) s = .next s) ∧
    (s.chip < d → exec (.wtime a rel) s = .next (s.onMe fun c => { c with st := .blocked (.wtime d), blockedAt := (s.core s.cur.core).cycles }))

/-! ### Events of the cores and queues -/

/-- What stalls and lands in a context (R22, R26, R30, R31, R69, R71, R163, R271): in a context that is not blocked core-store writes that are due
perform, control registers that are due govern, and results that are due become visible, one that lands in a retained bank stalling a Ready context
for 64 cycles; a stall ends when its busy count or its cycles have passed, and a probe, which finishes once every queued access has performed (R168),
puts its bundle into the latch for its checks to be made again (the model's reading, log entry 16). A result without a lane to write wakes no bank, only a
Ready context is stalled, and a stalled one stays as it is (the model's choices, log entry 70). The first clause takes a context none of whose core-store
writes has to follow an access. -/
def Obligations.ContextEvents : Prop :=
  (∀ (c : CtxId) (s : State),
    (s.ctx c).st = .ready ∨ (∃ w, (s.ctx c).st = .stalled w) → (s.ctx c).regs.dupQ = [] → unordered c s →
    let u := (s.coreWrites c false).govern c
    let x := u.ctx c
    let wakes : Prop := (s.ctx c).st = .ready ∧
      ∃ l ∈ x.regs.landing, l.isDue x.regs.tick = true ∧ ∃ n y lanes, l.val = .v n y lanes ∧ lanes ≠ 0 ∧ x.bank n = 1
    ∃ t, exec (.resultLand c) s = .next t ∧ (t.ctx c).regs = x.landDue.regs ∧ t.cores = u.cores ∧
      (wakes → (t.ctx c).st = .stalled (.bank 64)) ∧ (¬ wakes → t.ctx c = x.landDue)) ∧
  (∀ (c : CtxId) (n : BitVec 2) (s : State),
    (s.ctx c).st = .stalled .tile → SMap.get 0 (s.ctx c).tileBusy n.toNat ≤ (s.core c.core).cycles → (∀ w l, s.look c ≠ .stall w l) →
    ∃ t, exec (.tileFree c n) s = .next t ∧ (t.ctx c).st = .ready ∧ (t.ctx c).regs = (s.ctx c).regs) ∧
  (∀ (c : CtxId) (s : State), (s.ctx c).st = .stalled (.bank 0) →
    ∃ t, exec (.bankStallEnd c) s = .next t ∧ (t.ctx c).st = .ready ∧ (t.ctx c).regs = (s.ctx c).regs) ∧
  (∀ (c : CtxId) (b : Bundle) (s : State), (s.ctx c).st = .stalled .probe → (s.ctx c).probed = false →
    (s.ctx c).queue.all QAcc.isDone = true → decodeBundle (s.codeLine (s.ctx c).asid (s.ctx c).regs.pc) = .ok b →
    exec (.engineProbeDone c) s = .next { s with latch := s.latch ++ [⟨c, b.hdr, b.ops.map fun o => o.2, true⟩] }) ∧
  ∀ (c : CtxId) (s : State), (s.ctx c).st ≠ .unbound → ∃ t, exec (.registerUe c) s = .next t ∧ (t.ctx c).st = .lost

/-- Queued accesses (R28, R133, R252, R300): the walk of the oldest untranslated access gives it its location, and lets a gated store pass (the model's
reading, log entry 68); where one access of a space may perform, it performs at its home, after the core-store writes that its order puts before it (log
entry 75): a load takes its bytes, an `amo` its old value, and a store leaves the queue; of a 128-byte access some of the sectors that are left perform,
and with the last of them the access has performed (R134, log entry 108); one that an order holds back at a narrower scope than the system's alone may
perform ahead of what it follows, and what it follows comes before any party of that scope acts (log entry 13); where none may, nothing happens; a store
that a context has left performs once no handover, lease or `dpset` holds it (log entry 94); and a blocked `waitr` whose results have all arrived, none
of them bad, lets its context go on. -/
def Obligations.QueueEvents : Prop :=
  (∀ (c : CtxId) (q : QAcc) (l : Loc) (e : Option CachedEntry) (s : State), (s.ctx c).nextWalk = some (.inl q) →
    s.resolveAt (s.who c) q.bank q.target q.len q.slot q.need = .ok (l, e) → s.handover l.place = false →
    ∃ t, exec (.translationWalkDone c) s = .next t ∧
      (t.ctx c).queue = (s.ctx c).queue.map fun x => if x.seq = q.seq then { x with phase := .walked l e } else x) ∧
  (∀ (c : CtxId) (g : GateEntry) (l : Loc) (e : Option CachedEntry) (s : State), (s.ctx c).nextWalk = some (.inr g) →
    s.resolveAt (s.who c) g.bank g.target g.bytes.length 7 .write = .ok (l, e) → s.handover l.place = false →
    ∃ t, exec (.translationWalkDone c) s = .next t ∧ (t.ctx c).gate = passGate (s.ctx c).gate ∧ (t.ctx c).queue = (s.ctx c).queue) ∧
  (∀ (c : CtxId) (sp : QSpace) (s : State), s.dueAccesses c sp = [] → exec (.queuedAccessPerform c sp) s = .next s) ∧
  (∀ (c : CtxId) (sp : QSpace) (q : QAcc) (l : Loc) (e : Option CachedEntry) (s : State),
    s.dueAccesses c sp = [⟨q, l, e, none⟩] → s.leaseStops q l = false → q.len ≤ 32 → q.taken = [] →
    let u := (s.trailsBefore c q).publishFor c q
    let done (bs : List Byte) (bad : Option (Nat × Nat × Nat)) : List QAcc :=
      (s.ctx c).queue.map fun x => if x.seq = q.seq then { x with phase := .done bs bad (some l) } else x
    ∃ t, exec (.queuedAccessPerform c sp) s = .next t ∧
      (∀ spec, q.kind = .load spec →
        let r := u.loadBytes (dieOf c.core) (decide (q.target.space = .k)) l q.len fun j => ((q.fwd[j]?).join).isNone
        (t.ctx c).queue = done r.1 r.2) ∧
      (q.kind = .store → (t.ctx c).queue = (s.ctx c).queue.filter fun x => decide (x.seq ≠ q.seq)) ∧
      ∀ op small v x, q.kind = .amo op small v x → (u.hostRefuses l.place).1 = false →
        let r := ((u.hostRefuses l.place).2.noteAccess (dieOf c.core) [l.place]).atomic (dieOf c.core) (decide (q.target.space = .k)) l op small v x
        (t.ctx c).queue = done r.1 r.2.1) ∧
  (∀ (c : CtxId) (sp : QSpace) (q : QAcc) (l : Loc) (e : Option CachedEntry) (s : State),
    s.dueAccesses c sp = [⟨q, l, e, none⟩] → s.leaseStops q l = false → q.sectorsLeft ≠ [] → q.kind = .store ∨ (∃ spec, q.kind = .load spec) →
    let p := s.portion q.sectorsLeft
    let u := (p.2.trailsBefore c q).publishFor c q
    let reads := p.1.1.foldl (fun (a : State × List (Nat × List Byte × Option (Nat × Nat × Nat))) k =>
      let x := a.1.performSector (dieOf c.core) q l k
      (x.1, a.2 ++ [(k, x.2)])) (u, q.taken)
    let becomes (f : QAcc → QAcc) : List QAcc := (s.ctx c).queue.map fun x => if x.seq = q.seq then f x else x
    p.1.1 ≠ [] ∧ (p.1.1 ++ p.1.2).Perm q.sectorsLeft ∧
    ∃ t, exec (.queuedAccessPerform c sp) s = .next t ∧
      (p.1.2 ≠ [] → (t.ctx c).queue = becomes fun x => { x with taken := reads.2 }) ∧
      (p.1.2 = [] → (q.kind = .store → (t.ctx c).queue = (s.ctx c).queue.filter fun x => decide (x.seq ≠ q.seq)) ∧
        ∀ spec, q.kind = .load spec → (t.ctx c).queue =
          becomes fun x => { x with taken := [], phase := .done (QAcc.found reads.2).1 (QAcc.found reads.2).2 (some l) })) ∧
  (∀ (c : CtxId) (sp : QSpace) (q : QAcc) (l : Loc) (e : Option CachedEntry) (sc : Scope) (s : State),
    s.dueAccesses c sp = [⟨q, l, e, some sc⟩] → s.leaseStops q l = false →
    ∃ t, exec (.queuedAccessPerform c sp) s = .next t ∧ (t.ctx c).early = some (match (s.ctx c).early with
      | none => (q.seq, sc)
      | some e => (max e.1 q.seq, widerScope e.2 sc))) ∧
  (∀ (o : Orphan) (s : State), s.orphans = [o] →
    (s.isOpen o.ctx o.acc o.loc = false ∨ s.leaseStops o.acc o.loc = true → s.performLeft = s.publishLeft) ∧
    (s.isOpen o.ctx o.acc o.loc = true → s.leaseStops o.acc o.loc = false →
      s.performLeft = (({ s with orphans := [] } : State).performOrphan o).publishLeft)) ∧
  (∀ s : State, (∀ e ∈ s.cores, ∀ w ∈ e.2.writes, w.after = 0) → s.publishLeft = s) ∧
  (∀ (c : CtxId) (q : QAcc) (l : Loc) (s : State), (s.ctx c).heldAt q = some .system → s.mayPerform c q l = false) ∧
  ∀ (c : CtxId) (mask : BitVec 5) (upTo bundle : Nat) (s : State), (s.ctx c).st = .blocked (.waitr mask upTo bundle) →
    (s.ctx c).badArrival mask upTo = none → (s.ctx c).allArrived mask upTo = true → (s.ctx c).regs.dupQ = [] →
    let x := (s.ctx c).arriveAll mask upTo (s.ctx c).regs.tick (s.ctx c).atMark
    ∃ t, exec (.variableResultArrive c) s = .next t ∧ (t.ctx c).st = (if x.wakesBank then .stalled (.bank 64) else .ready) ∧
      (t.ctx c).regs = x.landDue.regs

/-- Waits that end (R23, R39, R267, R268, R306, R322): the first context to have blocked on a ring, or one blocked on chip time, goes on once its
condition holds, with a freed slot for `rels` and the status due now for `awaitf`, where its ring is owed no `rels` (log entry 99); a drained `tend`
leaves its context without a task. -/
def Obligations.WaitsEnd : Prop :=
  (∀ (c : CtxId) (q d : Nat) (s : State), (s.ctx c).st = .blocked (.awaitf q d) →
    let id := (s.ctx c).ringId q
    (s.ringWaiters c.core id).head? = some c → (s.ring id).owed = [] → (s.ring id).ready = true → (s.ctx c).regs.dupQ = [] →
    let x := (s.ctx c).returnStatus (s.ring id).oldest
    ∃ t, exec (.awaitfWake c) s = .next t ∧ (t.ctx c).st = (if x.wakesBank then .stalled (.bank 64) else .ready) ∧
      (t.ctx c).regs = x.landDue.regs ∧ t.rings = s.rings) ∧
  (∀ (c : CtxId) (q : Nat) (s : State), (s.ctx c).st = .blocked (.rels q) →
    let id := (s.ctx c).ringId q
    (s.ringWaiters c.core id).head? = some c → (s.ring id).owed = [] → (s.ring id).ready = true → (s.ctx c).regs.dupQ = [] →
    ∃ t, exec (.relsWake c) s = .next t ∧ (t.ctx c).st = (if (s.ctx c).wakesBank then .stalled (.bank 64) else .ready) ∧
      t.ring id = (s.ring id).free) ∧
  (∀ (c : CtxId) (d : Nat) (s : State), (s.ctx c).st = .blocked (.wtime d) → d ≤ s.chip → (s.ctx c).regs.dupQ = [] →
    ∃ t, exec (.wtimeDeadline c) s = .next t ∧ (t.ctx c).st = (if (s.ctx c).wakesBank then .stalled (.bank 64) else .ready)) ∧
  ∀ (c : CtxId) (s : State), s.tendDrained c = true →
    ∃ t, exec (.tendDrainDone c) s = .next t ∧ (t.ctx c).st = .blocked .noTask ∧ (t.ctx c).hasTask = false ∧ (t.ctx c).queue = []

/-- Records held behind full queues (R376, R402): with one record held and room in the queue, the record is written there, with the new producer count
and the number of records now held back, and it is counted and held no more: the memories are those after that write and no other, and the notification goes
out. Without room nothing changes. -/
def Obligations.HeldRecordsAreRetried : Prop :=
  (∀ (c : CtxId) (asid : BitVec 11) (a : AddrSpace) (rec : List W64) (s : State), s.heldSpace c = some asid → s.space asid = some a →
    a.held = [(c.key, rec)] →
    let w := s.queueRecord a.args.fqHost a.args.fq.toNat a.args.fqLog.toNat a.produced rec
    (w = none → exec (.faultQueueRetry c) s = .next s) ∧
    ∀ u, w = some u →
      let v := u.queueHeld a.args.fqHost a.args.fq.toNat 0
      ∃ t, exec (.faultQueueRetry c) s = .next t ∧ t.dev = v.dev ∧ t.host = v.host ∧ t.peers = v.peers ∧
        t.space asid = some { a with produced := a.produced + 1, held := [] } ∧
        (a.args.ring = false → t.out = s.out ++ [.msix a.args.vector.toNat] ∧ t.rings = s.rings)) ∧
  ∀ (rec : List W64) (s : State), s.log.held = [rec] →
    (s.tryLog rec = none → exec .errorLogRetry s = .next s) ∧
    ∀ u, s.tryLog rec = some u →
      let v := u.queueHeld s.log.host s.log.addr 0
      ∃ t, exec .errorLogRetry s = .next t ∧ t.dev = v.dev ∧ t.host = v.host ∧ t.peers = v.peers ∧
        t.log = { s.log with held := [], produced := s.log.produced + 1 } ∧ t.out = s.out ++ [.msix 1]

/-! ### Events of the Lathe -/

/-- Tasks (R37, R38, R40, R52, R53, R367, R369): a dispatch cycle puts the task that is served into the queue of its placement core, with its template
slot, node, instance and step in its record, and marks it dispatched in its step; a task starts at its node's entry with its arguments in s1 to s8; a
step opens; the watchdog sets its bit and interrupts. -/
def Obligations.LatheEvents : Prop :=
  (∀ (die : Bool) (o : Offer) (s : State), s.pickOffer die (s.offers die) = some o →
    let img := s.imageOf o.launch
    let core := tplCore img (tplNode img o.task.node) o.task.inst
    ∃ t w, exec (.taskDispatch die) s = .next t ∧ (t.core core).tasks = (s.core core).tasks ++ [⟨o.launch.id, o.launch.stream.n, w⟩] ∧
      (taskTpl w = o.launch.args.slot) ∧
      (o.task.node < 2 ^ 12 → (taskNode w).toNat = o.task.node ∧
        (o.task.inst < 2 ^ 24 → (taskInst w).toNat = o.task.inst ∧ (o.task.step < 2 ^ 20 → (taskStep w).toNat = o.task.step))) ∧
      (∃ l ∈ (t.lathe die).launches, l.id = o.launch.id ∧ ∃ y ∈ l.steps, y.n = o.task.step) ∧
      ∀ l ∈ (t.lathe die).launches, l.id = o.launch.id → ∀ y ∈ l.steps, y.n = o.task.step →
        SMap.get false y.dispatched (taskKey o.task.node o.task.inst) = true) ∧
  (∀ (die : Bool) (s : State), s.pickOffer die (s.offers die) = none → ∃ t, exec (.taskDispatch die) s = .next t ∧ t.cores = s.cores) ∧
  (∀ (c : CtxId) (r : TaskRec) (l : Launch) (s : State), s.taskFor c = some r → (s.lathe (dieOf c.core)).launch r.launch = some l →
    let d := tplNode (s.imageOf l) (taskNode r.word).toNat
    ∃ t, exec (.taskStart c) s = .next t ∧ (t.ctx c).st = .ready ∧ (t.ctx c).yieldLeft = (s.ctx c).yieldLeft ∧ (t.ctx c).task = r.word ∧ (t.ctx c).hasTask = true ∧
      (t.ctx c).regs.pc = d.entry ∧ (t.ctx c).regs.tick = 0 ∧ (t.ctx c).regs.landing = [] ∧
      ∀ k, k < 8 → SMap.get 0 (t.ctx c).regs.s (k + 1) = tplArg (s.imageOf l) d k (taskInst r.word).toNat (taskStep r.word).toNat) ∧
  (∀ (i : StreamId) (l : Launch) (s : State), s.streamLaunch i = some l → s.runOver l = false → s.canOpen l = true →
    exec (.stepOpen i) s = .next (s.onLaunch i.die l.id fun l =>
      { l with next := l.next + 1, steps := l.steps ++ [⟨l.next, s.stepRegs l l.next, [], [], []⟩] })) ∧
  ∀ (i : StreamId) (s : State),
    let k := s.stream i
    k.running = true → k.wdog ≠ 0 → k.watchdog = false → k.progressAt + k.wdog.toNat * 1024 ≤ s.chip →
    ∃ t, exec (.watchdogExpire i) s = .next t ∧ t.stream i = { k with watchdog := true } ∧ t.out = s.out ++ [.msix 0]

/-! ### Events of the engines -/

/-- Chunks, rows and blocks (R146, R150, R160, R197, R275 to R281, R319, R320): a copy turns to a chunk among the 128 from the first without a mark,
reads it whole or goes on with its writes, and lets some of them perform in an order left open (log entry 8); with its last write a chunk is marked and
its poisoned sectors count, each sector of the destination once, and the last mark completes the copy (the counts are the model's reading, log entry
19), before or after its last writes reach the other parties (log entry 13); a changed owner stops it, or drops it where its context has been unbound,
and so does a lease that has come over the chunk, or over a row that a fill reads; a block command that meets one ends FAILED (R398, log entry 88). The
last row of a fill completes it with the count of its poisoned rows and sectors (log entry 84), one before the last moves it on. A stopped command whose
re-probe succeeds runs again, and one whose re-probe fails ends FAILED with the chunks marked; a completion held behind a full ring is posted once there
is room, which a `rels` that the ring is owed may make (log entry 99). Blocks are filled, and evicted, when no write-back has to wait; a resident block
is the same by its home address and count of lines (the model's reading, log entry 48). -/
def Obligations.EngineEvents : Prop :=
  (∀ (n : Nat) (k : Cmd) (j : CopyJob) (s : State), s.cmd n = some k → k.job = .copy j → s.forked k = true → k.st = .running →
    let f := firstUnmarked j.marked j.chunks
    let c := (s.atFork k).copyTurn k.reach j
    s.chunkHeld k j c.1 = false →
    (s.chunkLeased k j c.1 = true → exec (.copyChunkDone n) s = .next (c.2.stopAt k (.copy { j with opened := [] }))) ∧
    (s.chunkLeased k j c.1 = false →
    let ws := (j.pending c.1).getD (c.2.readChunk k.reach j c.1)
    let p := c.2.portion ws
    let u := p.2.noteChunk k j c.1 p.1.1
    let q := u.writePending k.reach j.computing true j.grain p.1.1
    let j1 := (j.wrote c.1 q.2.2 p.1.2).1
    let m := k.count + (j.wrote c.1 q.2.2 p.1.2).2
    f ≤ c.1 ∧ c.1 < f + 128 ∧ (p.1.1 ++ p.1.2).Perm ws ∧ (ws ≠ [] → p.1.1 ≠ []) ∧
    (q.2.1 = true → countMarked j1.marked j.chunks = j.chunks →
      let v := q.1.trailing k j
      (v.1 = false → exec (.copyChunkDone n) s = .next (v.2.finish k (if m = 0 then 0 else 1) m)) ∧
      (v.1 = true → exec (.copyChunkDone n) s = .next { u.finish k (if m = 0 then 0 else 1) m with
        free := v.2.free, trails := u.trails ++ [⟨k.ctx.core, j.computing, j.grain, p.1.1, none⟩] })) ∧
    (q.2.1 = true → countMarked j1.marked j.chunks ≠ j.chunks →
      ∃ t, exec (.copyChunkDone n) s = .next t ∧ t.cmd n = some { k with count := m, job := .copy j1 }) ∧
    (q.2.1 = false →
      ∃ t, exec (.copyChunkDone n) s = .next t ∧
        (q.1.kept k = true → t.cmd n = some { k with st := .stopped, job := .copy { j with opened := [] } }) ∧
        (q.1.kept k = false → t = q.1.dropCmd k.id)))) ∧
  (∀ (n : Nat) (k : Cmd) (j : CopyJob) (s : State), s.cmd n = some k → k.job = .copy j → k.st = .stopped → (s.ctx k.ctx).st.reprobes = true →
    s.owns k = true →
    (∀ tr, s.copyReprobe k j = .ok tr → ∃ t, exec (.copyReprobe n) s = .next t ∧ t.cmd n = some { k with st := .running, trans := tr }) ∧
    (∀ e, s.copyReprobe k j = .error e → exec (.copyReprobe n) s = .next (s.finish k 5 (countMarked j.marked j.chunks)))) ∧
  (∀ (id : Nat) (x : W64) (core : Option Nat) (rest : List (W64 × Option Nat)) (s : State), (s.ring id).held = (x, core) :: rest →
    ((s.ring id).full = false → (s.ring id).owed = [] →
      ∃ t, exec (.heldCompletionPost id) s = .next t ∧ (t.ring id).held = rest ∧
        SMap.get 0 (t.ring id).status (s.ring id).wp = x ∧ SMap.get false (t.ring id).filled (s.ring id).wp = true) ∧
    ∀ e, (s.ring id).owed = [e] → (s.ring id).ready = true → s.ringWaiters (BitVec.ofNat 16 e.1) id = [] →
      exec (.heldCompletionPost id) s = .next ((s.onRing id fun r => { r.free with owed := [] }).onRing id Ring.unhold)) ∧
  (∀ (n win first total done bad : Nat) (soft : List Nat) (k : Cmd) (s : State),
    s.cmd n = some k → k.job = .fill win first total done bad soft → k.st = .running → s.rowHeld k win (first + done) = false →
    (soft.contains (first + done) = true →
      (total ≤ done + 1 →
        exec (.windowRowFilled n) s =
          .next ((s.onWindow win fun w => w.fillSlot (first + done)).finish k 1 (bad + 1 + k.count))) ∧
      (done + 1 < total →
        ∃ t, exec (.windowRowFilled n) s = .next t ∧ t.cmd n = some { k with job := .fill win first total (done + 1) (bad + 1) soft })) ∧
    (soft.contains (first + done) = false → (s.rowSources k win (first + done)).any s.leasedNow = true →
      exec (.windowRowFilled n) s = .next (s.stopAt k k.job)) ∧
    (soft.contains (first + done) = false → (s.rowSources k win (first + done)).any s.leasedNow = false →
      let f := if s.noErrors then s.atFork k else (s.atFork k).noteAccess (dieOf k.ctx.core) (s.rowSources k win (first + done))
      let g := (s.window win).grain k
      let q := f.writePending k.reach false false g ((f.rowWrites k (s.window win) (first + done)).map (f.capture (dieOf k.ctx.core) g))
      let m := k.count + q.2.2.length
      q.2.1 = true →
      (total ≤ done + 1 →
        exec (.windowRowFilled n) s =
          .next ((q.1.onWindow win fun w => w.fillSlot (first + done)).finish k (if bad + m = 0 then 0 else 1) (bad + m))) ∧
      (done + 1 < total →
        ∃ t, exec (.windowRowFilled n) s = .next t ∧ t.cmd n = some { k with count := m, job := .fill win first total (done + 1) bad soft } ∧
          t.window win = (s.window win).fillSlot (first + done)))) ∧
  (∀ (n g part tensor tile first count : Nat) (k : Cmd) (s : State), s.cmd n = some k → k.job = .block g part tensor tile first count →
    s.blockHeld k g part tensor tile first count = false →
    (s.linesLeased k tensor tile first count = true → exec (.blockFillDone n) s = .next (s.finish k 5 0)) ∧
    (s.linesLeased k tensor tile first count = false → isS k.ctx.core = false → s.partFor g part ≠ 16 →
    tileCached ((transWords k.trans tensor (some tile)).getD 0 0) = true →
    let die := dieOf k.ctx.core
    let a := (s.lineAddr k tensor tile first).1
    ((clustersOf die).any fun h => (s.group h).blocks.any fun b => decide (b.addr = a) && decide (b.count = count)) = false →
    let e1 := (s.atFork k).evictDie die fun b => decide (b.addr < a + 128 * count) && decide (a < b.addr + 128 * b.count)
    let e2 := e1.2.makeRoom g (s.partFor g part) count ((e1.2.group g).blocks.length + 1)
    s.evictWaits e2.2 = false →
    ∀ p, (e2.2.group g).room (s.partFor g part) count = some p →
    exec (.blockFillDone n) s =
      .next ((e2.2.fillBlock k g tensor tile first count p.1 p.2).finish k (if k.count = 0 then 0 else 1) (e1.1 + e2.1)))) ∧
  ∀ (n g part tensor tile first : Nat) (k : Cmd) (s : State), s.cmd n = some k → k.job = .evict g part tensor tile first →
    s.blockHeld k g part tensor tile first 1 = false →
    (s.linesLeased k tensor tile first 1 = true → exec (.lbeWritebackDone n) s = .next (s.finish k 5 0)) ∧
    (s.linesLeased k tensor tile first 1 = false → tileCached ((transWords k.trans tensor (some tile)).getD 0 0) = true →
    let e := s.evictDie (dieOf k.ctx.core) fun b => decide (b.addr = (s.lineAddr k tensor tile first).1)
    s.evictWaits e.2 = false →
    exec (.lbeWritebackDone n) s = .next (e.2.finish k (if k.count = 0 then 0 else 1) e.1))

/-- The supervisor's commands finish (R197, R198, R426, R451): where no write-back has to wait, a shrinking block cache writes back and evicts the
blocks of the ways that leave it; a growing one performs the gated deck stores that it covers and discards what lay in its new ways; `ttinv` drops its
scope once nothing uses it. -/
def Obligations.SupervisorEvents : Prop :=
  (∀ (n g old new index : Nat) (k : Cmd) (s : State), s.cmd n = some k → k.job = .dpset g old new index → s.forked k = true →
    s.partBusy g index = false →
    (old < new →
      let e := s.evictWhere g fun b => decide (old ≤ b.way) && decide (b.way < new)
      s.evictWaits e.2 = false →
      exec (.dpsetDone n) s = .next ((e.2.onGroup g fun x => { x with deck := x.deck.clearWays old new }).finish k 0 e.1)) ∧
    (new < old → s.deckBusy g index = false →
      exec (.dpsetDone n) s =
        .next (((s.coverGates g index).onGroup g fun x => { x with deck := x.deck.clearWays new old, discards := x.discards ++ [(index, new)] }).finish k 0 0)) ∧
    (new = old → exec (.dpsetDone n) s = .next (s.finish k 0 0))) ∧
  ∀ (n kind tensor tile : Nat) (asid : BitVec 11) (k : Cmd) (s : State), s.cmd n = some k → k.job = .ttinv kind asid tensor tile →
    s.forked k = true → s.usesScope (inScope kind asid tensor tile) = false →
    let t := (s.atFork k).dropScope (inScope kind asid tensor tile)
    s.evictWaits t = false → exec (.ttinvDone n) s = .next (t.finish k 0 0)

/-- Collectives and signals (R283 to R286, R325, R328 to R330, R429, R434): when every other member's offer for the same `coll` of the group is there
and agrees, and the package has reached the greatest epoch, that epoch's trees are taken and the chunks marked at every member stand (the matching of
offers and what stands are the model's choices, log entry 45); without a LIVE port no offer of another member, and no signal of another package, arrives
(R431); a table that breaks the current trees and leaves a member unreachable fails the collective (R283); without a pod number, at its issue or now,
the collective fails, a chunk of it too. Over LIVE ports any chunk among the 128 from the first without a mark may be next; its mark is set, and after
the last one the collective completes. A signal for a launch of its ASID adds one to its counter, for a ring of its ASID is posted, else is dropped and
counted; it is taken once, by its package and number (the model's choice, log entry 76); its end is posted only with an acknowledgement, over a live
link where another package gives it, and says whether it was dropped; it fails in flight only when no live link leads to its target. -/
def Obligations.CollectivesAndSignals : Prop :=
  (∀ (n : Nat) (k : Cmd) (j : CollJob) (offers : List CollOffer) (s : State), s.cmd n = some k → k.job = .coll j → j.going = false →
    s.forked k = true → j.failed = false →
    (j.numbered = false ∨ s.links.selfValid = false → exec (.collProceed n offers) s = .next (s.collFail k j)) ∧
    (j.numbered = true → s.links.selfValid = true → k.st = .running → (∀ r, r < j.members.length → r ≠ j.rank → ∃ o ∈ offers, o.rank = r) →
      (∀ o ∈ offers, o.seq = j.seq ∧ j.agrees o = true ∧ o.epoch.toNat ≤ s.links.epoch.toNat) →
      (∃ o ∈ offers, o.epoch = s.links.epoch) ∨ (∀ o ∈ offers, o.rank ≠ j.rank) → (∀ e ∈ s.links.past, e.1.toNat < s.links.epoch.toNat) →
      s.onPod = true → (∀ x ∈ j.unsettled, x.2.1 ≤ s.links.epoch.toNat) → deriveTrees s.links.live j.members ≠ [] →
      ∃ t j1, exec (.collProceed n offers) s = .next t ∧ t.cmd n = some { k with job := .coll j1 } ∧ j1.going = true ∧
        j1.trees = deriveTrees s.links.live j.members ∧ j1.epoch = s.links.epoch.toNat ∧
        ∀ c, c < j.total → SMap.get false j1.marked c = (SMap.get false j.marked c && offers.all fun o => o.marks.contains c)) ∧
    (j.numbered = true → s.links.selfValid = true → s.onPod = false → (∃ r, r < j.members.length ∧ r ≠ j.rank) →
      exec (.collProceed n offers) s = .next s)) ∧
  (∀ (k : Cmd) (j : CollJob) (counted : Bool) (epoch : Nat) (live : SMap (BitVec 36)) (s : State), k.job = .coll j → j.failed = false →
    (∃ t ∈ j.trees, ∃ l ∈ t, (SMap.get 0 live l.1).getLsbD l.2 = false) → deriveTrees live j.members = [] →
    s.collRenew counted epoch live k = s.collFail k j) ∧
  (∀ (n : Nat) (k : Cmd) (j : CollJob) (x : CollChunk) (s : State), s.cmd n = some k → k.job = .coll j → j.going = true →
    j.failed = false →
    (j.numbered = false ∨ s.links.selfValid = false → exec (.collChunkDone n x) s = .next (s.collFail k j)) ∧
    (j.numbered = true → s.links.selfValid = true → k.st = .running → SMap.get false j.marked x.chunk = false → x.chunk < j.total →
    x.chunk < firstUnmarked j.marked j.total + 128 → s.collHeld k.reach j x.chunk = false → s.recordHeld k.reach j = false →
    (∀ l ∈ j.treeOf x.chunk, l.1 = s.links.self.toNat → (s.port l.2).state = 3) →
    ∃ t, exec (.collChunkDone n x) s = .next t ∧
      ((∀ i, i < j.total → i = x.chunk ∨ SMap.get false j.marked i = true) → t.cmd n = none) ∧
      ((∃ i, i < j.total ∧ i ≠ x.chunk ∧ SMap.get false j.marked i = false) →
        ∃ k1 j1, t.cmd n = some k1 ∧ k1.job = .coll j1 ∧ SMap.get false j1.marked x.chunk = true ∧
          ∀ i, i ≠ x.chunk → SMap.get false j1.marked i = SMap.get false j.marked i))) ∧
  (∀ (g : Signal) (l : Launch) (s : State), g.ring = false →
    let i : StreamId := ⟨g.target.getLsbD 8, g.target.extractLsb' 9 6⟩
    s.launchOn i = some l →
    (l.args.asid = g.asid → (g.issuerSealed = true ∨ (s.stream i).ctl.getLsbD 4 = false) →
      s.deliver g = (false, s.onLaunch i.die l.id fun l => { l with counters := SMap.upd 0 l.counters g.counter.toNat (· + 1) })) ∧
    (l.args.asid ≠ g.asid → s.deliver g = (true, s.tally 0x620 1))) ∧
  (∀ (g : Signal) (s : State), g.ring = true →
    let c : CtxId := ⟨g.target.extractLsb' 0 16, g.target.extractLsb' 16 2⟩
    let id := (s.ctx c).ringId (field g.target 21 18)
    ((s.ctx c).st ≠ .unbound → (s.ctx c).asid = g.asid → id ≠ 0 → (g.issuerSealed = true ∨ (s.ctx c).world = false) →
      s.deliver g = (false, s.post id (statusWord g.tag 0x08 0 g.count.toNat) none)) ∧
    (id = 0 → s.deliver g = (true, s.tally 0x620 1))) ∧
  (∀ (g : Signal) (s : State), s.links.selfValid = false ∨ g.src ≠ s.links.self →
    let d := s.deliver g
    (s.onPod = false → exec (.csigDeliver g) s = .next s) ∧
    (s.taken.contains (g.src, g.num) = true → exec (.csigDeliver g) s = .next s) ∧
    (s.onPod = true → s.taken.contains (g.src, g.num) = false →
      exec (.csigDeliver g) s = .next { d.2 with taken := d.2.taken ++ [(g.src, g.num)] })) ∧
  (∀ (g : Signal) (k : Cmd) (ack : Bool) (r : Option Bool) (s : State), s.links.selfValid = true → g.src = s.links.self → s.cmds = [k] →
    k.job = .csig g ack true r →
    let d := s.deliver g
    (r = none → exec (.csigDeliver g) s = .next (d.2.onCmd k.id fun k => { k with job := .csig g ack true (some d.1) })) ∧
    (r ≠ none → exec (.csigDeliver g) s = .next s)) ∧
  ∀ (n : Nat) (k : Cmd) (g : Signal) (ack : Bool) (r : Option Bool) (s : State), s.cmd n = some k →
    let ends (u : State) (code : Nat) : State := if ack then u.finish k code 0 else u.dropCmd n
    let own := (if g.ring then field g.target 29 22 else field g.target 7 0) = s.links.self.toNat
    (k.job = .csig g ack true r →
      (∀ dropped, (own → r = none → exec (.csigAck n dropped) s = .next s) ∧
        (∀ d, own → r = some d → exec (.csigAck n dropped) s = .next (ends s (if d then 6 else 0))) ∧
        (¬ own → s.reaches (sigPackage g.ring g.target) = true → exec (.csigAck n dropped) s = .next (ends s (if dropped then 6 else 0))) ∧
        (¬ own → s.reaches (sigPackage g.ring g.target) = false → exec (.csigAck n dropped) s = .next s))) ∧
    (k.job = .csig g ack false r → ∀ dropped, exec (.csigAck n dropped) s = .next s) ∧
    ∀ sent, k.job = .csig g ack sent r →
      (s.reaches (sigPackage g.ring g.target) = true → exec (.csigFail n) s = .next s) ∧
      (s.reaches (sigPackage g.ring g.target) = false → exec (.csigFail n) s = .next (ends (s.tally 0x620 1) 5))

/-- The refresh guard, repair windows and deck tag errors (R154, R298, R404, R408): outside a commander's duty the guard gives a set that falls due its
next deadline, and within it notes and refreshes a set that is late; a repair window ends the wait for it; at the cap steps open again for one REPWAIT;
a correctable tag error is counted; an uncorrectable one drops its block and leaves the home of a clean one as it is, while the home sectors of dirty
lines are poisoned in HBM, a frame among them that has not been retired is, with a record of cause 2, and a block command whose write-back meets the
error completes DONE_POISON. -/
def Obligations.MemoryServiceEvents : Prop :=
  (∀ (st : BitVec 4) (ch : BitVec 5) (set : BitVec 2) (s : State),
    let d := SMap.get 0 (s.channel st.toNat ch.toNat).deadline set.toNat
    ((∀ c, s.commander st.toNat ch.toNat = some c → (s.ctx c).st.onDuty = false) → d ≤ s.chip + 500 →
      ∃ t, exec (.refreshGuard st ch set) s = .next t ∧
        SMap.get 0 (t.channel st.toNat ch.toNat).deadline set.toNat = s.chip + (s.stack st.toNat).trefi) ∧
    ((∀ c, s.commander st.toNat ch.toNat = some c → (s.ctx c).st.onDuty = false) → s.chip + 500 < d → exec (.refreshGuard st ch set) s = .next s) ∧
    ∀ c, s.commander st.toNat ch.toNat = some c → (s.ctx c).st.onDuty = true →
      (s.chip ≤ d → exec (.refreshGuard st ch set) s = .next s) ∧
      (d < s.chip →
        ∃ t, exec (.refreshGuard st ch set) s = .next t ∧
          SMap.get 0 (t.channel st.toNat ch.toNat).deadline set.toNat = s.chip + (s.stack st.toNat).trefi ∧
          ((∀ l ∈ (s.channel st.toNat ch.toNat).late, l.1 ≠ set.toNat) →
            (t.channel st.toNat ch.toNat).late = (s.channel st.toNat ch.toNat).late ++ [(set.toNat, d)]))) ∧
  (∀ (die : Bool) (s : State), (s.lathe die).holds s.chip = true →
    (s.idleDie die = true → ∃ t, exec (.repairWindow die) s = .next t ∧ (t.lathe die).openUntil = 0 ∧
      ((t.repairs die).isEmpty = true → (t.lathe die).repwaitFrom = none)) ∧
    (s.idleDie die = false → exec (.repairWindow die) s = .next s) ∧
    ∀ from_, (s.lathe die).repwaitFrom = some from_ → from_ + s.repwait.toNat * 1000 ≤ s.chip →
      exec (.repwaitExpire die) s = .next (s.onLathe die fun l =>
        { l with repwaitFrom := some (s.chip + s.repwait.toNat * 1000), openUntil := s.chip + s.repwait.toNat * 1000 })) ∧
  ∀ (g n : Nat) (b : DeckBlock) (s : State), ((s.group g).blocks.find? fun b => decide (b.order = n)) = some b →
    exec (.deckTagError g n true) s = .next (s.tally 0x628 1) ∧
    ∃ t, exec (.deckTagError g n false) s = .next t ∧ (t.group g).blocks = ((s.group g).blocks.filter fun x => decide (x.order ≠ n)) ∧
      (b.dirty = [] → t.dev = s.dev ∧ t.log = s.log ∧ t.cmds = s.cmds) ∧
      (s.log.host = true → ∀ line ∈ b.dirty, ∀ i, i < 4 → b.addr + 128 * line + 32 * i < cxlBase → t.devPoison (b.addr + 128 * line + 32 * i) = true) ∧
      (∀ line, b.dirty = [line] → b.addr % 128 = 0 → s.log.held ≠ [] →
        let a := b.addr + 128 * line
        SMap.get false s.log.retired ((Place.dev (a / 4096 * 4096)).frameKey (a / 4096 * 4096)) = false → a < cxlBase →
        ∃ rec, t.log.held = s.log.held ++ [rec] ∧ field (rec.getD 0 0) 7 0 = 2 ∧ (rec.getD 0 0).getLsbD 8 = true ∧
          rec.getD 1 0 = BitVec.ofNat 64 (a / 4096 * 4096)) ∧
      ∀ k, s.cmds = [k] → b.dirty ≠ [] → t.cmds = [if s.meets g b k then { k with count := k.count + 1 } else k]

/-! ### Commands of the streams -/

/-- NOP, SIGNAL, WAIT_VALUE and PREEMPT_POINT (R359 to R362), where the checks of R450 let them: each completes with its status, a SIGNAL after its
write, a WAIT_VALUE once the value in memory meets its condition, else with another read 256 ns later, which a handover of its location holds (R451); a
PREEMPT of granularity point that waits stops the stream at the point. -/
def Obligations.WorkCommands : Prop :=
  (∀ (h : CmdHdr) (s : State), s.refuses s.curStream 0x00 Names.none = none → exec (.nop h) s = .next (s.complete s.curStream h 0x00 0 0)) ∧
  (∀ (h : CmdHdr) (a : SignalArgs) (s : State), s.refuses s.curStream 0x03 Names.none = none →
    let n := if a.wide then 8 else 4
    let old := ofBytes (s.rawBytes a.host a.addr.toNat n)
    let writes (v : Nat) : State := (s.rawStore a.host a.addr.toNat (toBytes n v)).complete s.curStream h 0x03 0 0
    exec (.signalWrite h a) s = .next (writes a.value.toNat) ∧ exec (.signalAdd h a) s = .next (writes (old + a.value.toNat)) ∧
      exec (.signalOr h a) s = .next (writes (old ||| a.value.toNat))) ∧
  (∀ (h : CmdHdr) (a : WaitArgs) (s : State), s.refuses s.curStream 0x02 Names.none = none →
    (s.waitMet a = true → exec (.waitValue h a) s = .next (s.complete s.curStream h 0x02 0 0)) ∧
    (s.waitMet a = false → exec (.waitValue h a) s =
      .next (s.onStream s.curStream fun k => { k with busy := some (.wait h a (s.chip + 256)) }))) ∧
  (∀ (i : StreamId) (h : CmdHdr) (a : WaitArgs) (at_ : Nat) (s : State), (s.stream i).busy = some (.wait h a at_) → (s.stream i).opens = true →
    at_ ≤ s.chip →
    (a.host = false → s.spanHeld a.addr.toNat 8 = true → exec (.waitValuePoll i) s = .next s) ∧
    (a.host = true ∨ s.spanHeld a.addr.toNat 8 = false →
    (s.waitMet a = true → exec (.waitValuePoll i) s = .next (s.complete i h 0x02 0 0)) ∧
    (s.waitMet a = false → exec (.waitValuePoll i) s = .next (s.onStream i fun k => { k with busy := some (.wait h a (s.chip + 256)) })))) ∧
  ∀ (h : CmdHdr) (s : State), s.refuses s.curStream 0x04 Names.none = none →
    ((s.stream s.curStream).preempt = none → exec (.preemptPoint h) s = .next (s.complete s.curStream h 0x04 0 0)) ∧
    ∀ r, (s.stream s.curStream).preempt = some r → r.gran = 0 →
      ∃ t, exec (.preemptPoint h) s = .next t ∧ (t.stream s.curStream).preempted = true ∧ (t.stream s.curStream).preempt = none

/-- LAUNCH (R359): with its template in the slot and a context for every placement, a launch with clear counters, reuse states and STOP runs on the
stream. -/
def Obligations.LaunchStarts : Prop :=
  ∀ (h : CmdHdr) (a : LaunchArgs) (x : Template) (s : State), s.refuses s.curStream 0x01 Names.none = none →
    s.template s.curStream.die a.slot = some x → x.asid = a.asid → s.noContext s.curStream a.asid x.image = false →
    ∃ t l, exec (.launch h a) s = .next t ∧ (t.lathe s.curStream.die).launches.getLast? = some l ∧ l.args = a ∧ l.hdr = h ∧
      l.stream = s.curStream ∧ l.stop = none ∧ l.counters = [] ∧ l.nodes = [] ∧ l.lost = 0 ∧
      (t.stream s.curStream).busy = some (.launch h l.id)

/-- Address spaces and templates (R363, R364, R382): each command, with nothing that it names in use, changes its one table entry and completes
OK. -/
def Obligations.SpaceAndTemplateCommands : Prop :=
  (∀ (h : CmdHdr) (a : SetAsArgs) (s : State),
    s.refuses s.curStream 0x10 ⟨[a.asid], if a.ring then [⟨a.core, a.slot⟩] else [], a.world⟩ = none → s.asidBusy a.asid = false →
    s.space a.asid = none → descOk (s.rawWords false a.desc.toNat 16) = true →
    exec (.setAs h a) s =
      .next (({ s with spaces := SMap.set none s.spaces a.asid.toNat (some ⟨a, s.rawWords false a.desc.toNat 16, 0, 0, []⟩) } : State).complete
        s.curStream h 0x10 0 0)) ∧
  (∀ (h : CmdHdr) (asid : BitVec 11) (s : State), s.refuses s.curStream 0x11 ⟨[asid], [], false⟩ = none → s.asidBusy asid = false →
    s.space asid ≠ none →
    exec (.clearAs h asid) s = .next (({ s with spaces := SMap.set none s.spaces asid.toNat none } : State).complete s.curStream h 0x11 0 0)) ∧
  ∀ (h : CmdHdr) (a : TplArgs) (s : State), s.slotUsed a.die a.slot = false → s.space a.asid ≠ none →
    (s.refuses s.curStream 0x12 ⟨[a.asid], [], false⟩ = none → templateError s a.die (s.imageAt a.image.toNat) = none →
      exec (.placeTpl h a) s = .next ((s.onLathe a.die fun l =>
        { l with templates := SMap.set none l.templates a.slot.toNat (some ⟨a.asid, s.imageAt a.image.toNat⟩) }).complete s.curStream h 0x12 0 0)) ∧
    ∀ x, s.refuses s.curStream 0x13 ⟨[a.asid], [], false⟩ = none → s.template a.die a.slot = some x → x.asid = a.asid →
      exec (.dropTpl h a) s = .next ((s.onLathe a.die fun l =>
        { l with templates := SMap.set none l.templates a.slot.toNat none }).complete s.curStream h 0x13 0 0)

/-- Contexts (R365, R366, R374): a bound context is Blocked with no task, with what the command names and the registers of the initial image: zeros, or
those that the image at its address holds, with s0, p0 and m0 as they always read, no tag, nothing pending, FPSTAT and VBANKPWR 0, PRB +0 and the
program state zero; an unbound one is as at reset; a resumed one is Ready at its resume bundle or, at a retry that its fault allows, at the faulting
bundle. -/
def Obligations.ContextCommands : Prop :=
  (∀ (h : CmdHdr) (a : BindArgs) (s : State), s.refuses s.curStream 0x14 ⟨[a.asid], [], a.world⟩ = none → (s.ctx a.ctx).st = .unbound →
    s.corePresent a.ctx.core = true → s.space a.asid ≠ none → s.blockOk a = true → s.bindForbidden s.curStream a = false →
    ∃ t, exec (.bindCtx h a) s = .next t ∧
      let x := t.ctx a.ctx
      x.st = .blocked .noTask ∧ x.asid = a.asid ∧ x.priv = a.priv ∧ x.world = a.world ∧ x.stream = a.stream ∧ x.prio = a.prio ∧
        x.bid = s.nextId ∧ x.gate = [] ∧ x.queue = [] ∧
        (a.image = 0 → x.regs = RegSet.zero) ∧
        (a.image ≠ 0 →
          let w (k : Nat) : W64 := s.rawWord false (a.image.toNat + k)
          let n (k len : Nat) : Nat := ofBytes (s.rawBytes false (a.image.toNat + k) len)
          (∀ k, 0 < k → k < 64 → SMap.get 0 x.regs.s k = w (0x400 + 8 * k)) ∧ (∀ k, 0 < k → k < 16 → x.regs.p.getLsbD k = (w 72).getLsbD k) ∧
          (∀ k, k < 64 → SMap.get 0 x.regs.v k = BitVec.ofNat 1024 (n (0x600 + 128 * k) 128)) ∧
          (∀ k, 0 < k → k < 8 → SMap.get 0 x.regs.m k = BitVec.ofNat 128 (n (128 + 16 * k) 16)) ∧
          (∀ k, k < 16 → SMap.get 0 x.regs.h k = (w (256 + 8 * k)).truncate 16) ∧ (∀ k, k < 2 → SMap.get 0 x.regs.lc k = w (56 + 8 * k)) ∧
          (∀ k, k < 4096 → SMap.get 0 x.regs.latches k = BitVec.ofNat 32 (n (0x4E00 + 4 * k) 4)) ∧
          (∀ k, k < 4 → SMap.get Tile.zero x.regs.tiles k =
            (Tile.ofRaw (s.rawBytes false (a.image.toNat + (0xB000 + 67648 * k)) (1056 * tileCols a.ctx.core + 64)) (tileCols a.ctx.core)).val) ∧
          x.s 0 = 0 ∧ x.p 0 = true ∧ x.m 0 = BitVec.allOnes 128 ∧
          x.regs.sTag = 0 ∧ x.regs.vTag = 0 ∧ x.regs.mTag = 0 ∧ x.regs.landing = [] ∧ x.regs.pendTiles = [] ∧ x.regs.csrQ = [] ∧ x.regs.flagQ = [] ∧
            x.regs.redirects = [] ∧ x.regs.pc = 0 ∧ x.regs.tick = 0 ∧ x.regs.rrb = 0 ∧
            x.fpstat = 0 ∧ x.vbank = 0 ∧ x.regs.prb.tag = false ∧ ∀ k, SMap.get 0 x.regs.prb.lanes k = 0)) ∧
  (∀ (h : CmdHdr) (c : CtxId) (s : State), s.refuses s.curStream 0x15 ⟨[], [c], false⟩ = none → s.corePresent c.core = true →
    (s.ctx c).st = .suspended ∨ (s.ctx c).st = .lost ∨ (s.ctx c).st = .blocked .noTask →
    ∃ t, exec (.unbindCtx h c) s = .next t ∧ t.ctx c = Ctx.init) ∧
  ∀ (h : CmdHdr) (c : CtxId) (s : State), s.refuses s.curStream 0x16 ⟨[], [c], false⟩ = none → s.corePresent c.core = true →
    (s.ctx c).st = .suspended →
    (∃ t, exec (.resumeCtx h c) s = .next t ∧ (t.ctx c).st = .ready ∧ ((s.ctx c).note.always = false → (t.ctx c).regs = (s.ctx c).regs)) ∧
    ∃ t, exec (.resumeCtxRetry h c) s = .next t ∧ (t.ctx c).st = .ready ∧
      ((s.ctx c).note.retry = true →
        (t.ctx c).regs = { (s.ctx c).regs with pc := (s.ctx c).note.retryPc, redirects := (s.ctx c).note.retryRedirects })

/-- Pre-emption (R56 to R58, R370, R372): a stream with nothing left to stop is pre-empted at once, whatever the granularity; a second PREEMPT
completes BUSY (the model's choice, log entry 32), and one of a stream already pre-empted OK; RESUME_STREAM lets it go on. -/
def Obligations.PreemptionCommands : Prop :=
  (∀ (h : CmdHdr) (p : StreamId) (s : State), s.refuses s.curStream 0x17 Names.none = none →
    (∀ i, i = Instr.preemptAtPoint h p ∨ i = Instr.preemptStep h p ∨ i = Instr.preemptTask h p ∨ i = Instr.preemptBundle h p →
      ((s.stream p).preempted = true → exec i s = .next (s.complete s.curStream h 0x17 0 0)) ∧
      ((s.stream p).preempted = false → (s.stream p).preempt ≠ none → exec i s = .next (s.complete s.curStream h 0x17 4 0)) ∧
      ((s.stream p).preempted = false → (s.stream p).preempt = none → p ≠ s.curStream → (s.stream p).busy = none → (s.stream p).running = false →
        (s.stream p).head = (s.stream p).tail → s.streamLaunch p = none → s.taskCtxs p = [] →
        ∃ t, exec i s = .next t ∧ (t.stream p).preempted = true ∧ (t.stream p).preempt = none ∧ (t.stream s.curStream).busy = none))) ∧
  (∀ (p : StreamId) (r : PreemptReq) (s : State), (s.stream p).preempt = some r → (s.stream p).busy = none → (s.stream p).running = false →
    (s.stream p).head = (s.stream p).tail → s.streamLaunch p = none → s.taskCtxs p = [] →
    ∃ t, exec (.preemptDone p) s = .next t ∧ (t.stream p).preempted = true ∧ (t.stream p).preempt = none) ∧
  ∀ (h : CmdHdr) (p : StreamId) (s : State), s.refuses s.curStream 0x1A Names.none = none →
    ((s.stream p).preempted = true ∨ (s.stream p).halted = true) →
    (∀ l, s.streamLaunch p = some l → l.lost = 0 ∧ s.noContext p l.args.asid (s.imageOf l) = false) →
    ∃ t, exec (.resumeStream h p) s = .next t ∧ (t.stream p).preempted = false ∧ (t.stream p).halted = false

/-- Context images (R58, R371): SAVE_CTX of pre-empted contexts that share nothing outside the mask completes OK with the image of each written and its
slot vacated, lowest slot first, what an image has no field for staying beside it (the model's choice, log entry 31); RESTORE_CTX of the latch bank
completes OK with each context in the state of its snapshot, and of good images with each slot holding the context that its image names. -/
def Obligations.ImageCommands : Prop :=
  (∀ (h : CmdHdr) (a : ImageArgs) (s : State), s.refuses s.curStream 0x18 ⟨[], maskCtxs a, false⟩ = none → s.corePresent a.core = true →
    (∀ c ∈ maskCtxs a, (s.ctx c).st = .preempted) → s.sharedOutside a = false →
    let t := (maskImages a).foldl (fun s e => s.saveOne e.1 e.2) s
    exec (.saveCtx h a) s = .next (t.complete s.curStream h 0x18 0 0) ∧
      ∀ c ∈ maskCtxs a, t.ctx c = Ctx.init ∧ ∃ v ∈ t.saved, v.ctx = c ∧ v.x.asid = (s.ctx c).asid) ∧
  (∀ (c : CtxId) (base : Nat) (s : State),
    let s1 := ((s.publish c (s.ctx c).seq).onCtx c fun x => { x with gate := x.gate.filter fun e => !e.gone }).settleShadow c
    (s.saveOne c base).ctx c = Ctx.init ∧ (s.saveOne c base).dev = (s1.rawStore false base (s1.contextImage c)).dev ∧
      ∃ v ∈ (s.saveOne c base).saved, v.ctx = c ∧ v.base = base ∧ v.x.regs = (s.ctx c).regs) ∧
  (∀ (h : CmdHdr) (a : ImageArgs) (s : State), a.base = 0 → s.refuses s.curStream 0x19 ⟨[], maskCtxs a, false⟩ = none →
    s.corePresent a.core = true → (∀ c ∈ maskCtxs a, (s.ctx c).st = .preempted) → s.sharedOutside a = false →
    let t := (maskCtxs a).foldl State.resumeSnap s
    exec (.restoreCtx h a) s = .next (t.complete s.curStream h 0x19 0 0) ∧
      ∀ c ∈ maskCtxs a, ((s.ctx c).snap = .ready → (t.ctx c).st = .ready) ∧ ((s.ctx c).snap = .suspended → (t.ctx c).st = .suspended)) ∧
  ∀ (h : CmdHdr) (a : ImageArgs) (s : State), a.base ≠ 0 →
    s.refuses s.curStream 0x19 ⟨[], maskCtxs a, (maskImages a).any fun e => s.imageSealed e.2⟩ = none → s.corePresent a.core = true →
    (∀ c ∈ maskCtxs a, (s.ctx c).st = .unbound) →
    (∀ e ∈ maskImages a, s.imageBad e.2 = false ∧ s.headerOk e.1 e.2 = true ∧ s.imageShares a e.1 e.2 = false) →
    let t := s.restoreAll (maskImages a)
    exec (.restoreCtx h a) s = .next (t.complete s.curStream h 0x19 0 0) ∧ ∀ e ∈ maskImages a,
      (t.ctx e.1).asid = s.imgAsid e.2 ∧ (t.ctx e.1).priv = (s.hdrWord e.2 0).getLsbD 45 ∧ (t.ctx e.1).world = (s.hdrWord e.2 0).getLsbD 46

/-- In recovery mode every command of a stream completes REJECTED and does nothing else (R418). -/
def Obligations.RecoveryRejectsCommands : Prop :=
  ∀ (h : CmdHdr) (s : State), s.power = .recovery →
    let rejected (i : Instr) (op : Nat) : Prop := exec i s = .next (s.complete s.curStream h op 1 0)
    rejected (.nop h) 0x00 ∧ (∀ a, rejected (.launch h a) 0x01) ∧ (∀ a, rejected (.waitValue h a) 0x02) ∧
    (∀ a, rejected (.signalWrite h a) 0x03 ∧ rejected (.signalAdd h a) 0x03 ∧ rejected (.signalOr h a) 0x03) ∧ rejected (.preemptPoint h) 0x04 ∧
    (∀ a, rejected (.setAs h a) 0x10) ∧ (∀ n, rejected (.clearAs h n) 0x11) ∧ (∀ a, rejected (.placeTpl h a) 0x12) ∧
    (∀ a, rejected (.dropTpl h a) 0x13) ∧ (∀ a, rejected (.bindCtx h a) 0x14) ∧ (∀ c, rejected (.unbindCtx h c) 0x15) ∧
    (∀ c, rejected (.resumeCtx h c) 0x16 ∧ rejected (.resumeCtxRetry h c) 0x16) ∧
    (∀ p, rejected (.preemptAtPoint h p) 0x17 ∧ rejected (.preemptStep h p) 0x17 ∧ rejected (.preemptTask h p) 0x17 ∧
      rejected (.preemptBundle h p) 0x17 ∧ rejected (.resumeStream h p) 0x1A) ∧
    ∀ a, rejected (.saveCtx h a) 0x18 ∧ rejected (.restoreCtx h a) 0x19

/-! ### The host, the fabric and Folkai -/

/-- Register writes of the host (R13, R355, R356, R369, R394 to R397, R405, R432, R440): leases start and end a handover, of which the last value
written counts (the model's choice, log entry 61), a mode register clears its counts, TSNAP copies the counters, key slots from 256 on take Folkai's
writes only, a doorbell more than a ring ahead overruns, the plain registers hold what is written, a port's status register takes its admin bit, and a
write that is not to a whole register does nothing (log entry 35). -/
def Obligations.HostRegisterWrites : Prop :=
  (∀ (st : BitVec 4) (ch : BitVec 5) (v : W64) (s : State),
    (∃ t, exec (.leaseWrite st ch v) s = .next t ∧
      (t.channel st.toNat ch.toNat).handover = some (s.leaseValue st.toNat ch.toNat v) ∧
      (t.channel st.toNat ch.toNat).lease = (s.channel st.toNat ch.toNat).lease) ∧
    ((s.channel st.toNat ch.toNat).handover = some v → ∃ t, exec (.leaseHandoverEnd st ch) s = .next t ∧
      (t.channel st.toNat ch.toNat).lease = v ∧ (t.channel st.toNat ch.toNat).handover = none ∧ ∀ b, (t.channel st.toNat ch.toNat).row b = none)) ∧
  (∀ (st : BitVec 4) (ch : BitVec 5) (bank : BitVec 4) (s : State), ∃ t, exec (.modeRegisterWrite st ch bank) s = .next t ∧
    (t.stack st.toNat).bank ch.toNat bank.toNat = { (s.stack st.toNat).bank ch.toNat bank.toNat with ue := 0, ce := 0 }) ∧
  (∀ (v : W64) (s : State), (v = 1 → exec (.tsnap v) s = .next { s with shadowTel := s.telemetry, tsnap := s.chip }) ∧
    (v ≠ 1 → exec (.tsnap v) s = .next s)) ∧
  (∀ (n : BitVec 9) (folkai : Bool) (dk tk : BitVec 256) (valid : Bool) (s : State),
    (n.toNat < 256 ∨ folkai = true → ∃ t, exec (.keySlotWrite n folkai dk tk valid) s = .next t ∧
      SMap.get KeySlot.init t.keys n.toNat = ⟨dk, tk, valid⟩) ∧
    (256 ≤ n.toNat → folkai = false → exec (.keySlotWrite n folkai dk tk valid) s = .next s)) ∧
  (∀ (i : StreamId) (tail : BitVec 32) (s : State),
    ((tail - (s.stream i).head).toNat ≤ 2 ^ (s.stream i).size.toNat →
      exec (.doorbell i tail) s = .next (s.onStream i fun k => { k with tail := tail })) ∧
    (2 ^ (s.stream i).size.toNat < (tail - (s.stream i).head).toNat →
      exec (.doorbell i tail) s = .next (s.onStream i fun k => { k with overrun := true }))) ∧
  (∀ (i : StreamId) (v : W64) (s : State), ∃ t, exec (.watchdogClear i v) s = .next t ∧
    (t.stream i).watchdog = ((s.stream i).watchdog && !v.getLsbD 3)) ∧
  ∀ (folkai : Bool) (v : W64) (s : State),
    exec (.registerWrite 0x190080 folkai v) s = .next { s with repwait := v.truncate 32 } ∧
    exec (.registerWrite 0x190040 folkai v) s = .next { s with log := { s.log with base := v &&& 0x800FFFFFFFFFFFFF } } ∧
    exec (.registerWrite 0x190048 folkai v) s = .next { s with log := { s.log with size := v &&& 0x1F } } ∧
    (∀ off, off % 8 ≠ 0 → exec (.registerWrite off folkai v) s = .next s) ∧
    (∀ p : BitVec 6, p.toNat < 36 → ∃ t, exec (.registerWrite (0x1C1000 + 16 * p.toNat) folkai v) s = .next t ∧
      exec (.linkAdminWrite p v) s = .next t ∧ (t.port p.toNat).admin = v.getLsbD 63) ∧
    ∀ n : BitVec 6, ∃ t, exec (.registerWrite (0x100000 + 0x40 * n.toNat + 0x20) folkai v) s = .next t ∧
      (folkai = false → (t.stream ⟨false, n⟩).ctl.extractLsb' 4 2 = (s.stream ⟨false, n⟩).ctl.extractLsb' 4 2) ∧
      (t.stream ⟨false, n⟩).ctl.getLsbD 0 = v.getLsbD 0

/-- The host's accesses to device memory (R159 to R161, R385): to sectors that exist and that no handover holds, a write gives each whole sector its
bytes with a good code and no poison, merges what it has of another into the bytes that lie there, with a new code that says whether the old sector was
faulty (a poison bit in HBM, a bad code in far memory; that it goes through the merge path is the model's reading, log entry 11), and leaves every other
byte; what it reads of a bad cell is noted in its bank (R407, log entry 82); a read sends its bytes in one packet with EP set when a sector of
them is faulty (that it is one packet is the model's reading, log entry 55). -/
def Obligations.HostDataAccesses : Prop :=
  (∀ (addr : Nat) (bytes : List Byte) (s : State), s.hostMay addr bytes.length = true →
    ∃ t, exec (.hostDataWrite addr bytes) s = .next t ∧ t = { s with dev := t.dev, stackTab := t.stackTab, lathe0 := t.lathe0, lathe1 := t.lathe1 } ∧
      (s.noErrors = true → t = { s with dev := t.dev }) ∧
      (∀ b, b < addr ∨ addr + bytes.length ≤ b → t.dev.byte b = s.dev.byte b) ∧
      (∀ i, i < bytes.length → t.dev.byte (addr + i) = bytes.getD i 0) ∧
      ∀ x ∈ sectorsOf addr bytes.length,
        let whole := addr ≤ x ∧ x + 32 ≤ addr + bytes.length
        let y := t.dev.sector x
        let old := s.atHome ⟨.dev x, none⟩
        (whole → y.bytes = (bytes.drop (x - addr)).take 32 ∧ y.bad = false ∧ y.poison = false) ∧
        (¬ whole → (x < cxlBase → y.bad = false ∧ y.poison = old.faulty) ∧ (cxlBase ≤ x → y.bad = old.faulty))) ∧
  ∀ (addr len : Nat) (s : State), s.hostMay addr len = true →
    ∃ t bs, exec (.hostDataRead addr len) s = .next t ∧
      t.out = s.out ++ [.hostTlp addr bs ((sectorsOf addr len).any fun x => (s.atHome ⟨.dev x, none⟩).faulty)] ∧
      bs = ((((sectorsOf addr len).map fun x => (s.atHome ⟨.dev x, none⟩).bytes).flatten).drop (addr % 32)).take len

/-- Mivis (R2, R429 to R436): of the ports 0 to 35 only a LIVE one carries flits, and on one in HOLD or LIVE a flit that fails its CRC is replayed and
never delivered; the states of a port; another port number does nothing. The pod's table and time (R433 to R436): change records gather for 10 µs and
the keeper floods the batch with the next epoch; a package takes the next batch in order, and one that joins or rejoins takes no batch but the table
whole, which the keeper sends behind the batch (who takes it, and who gathers, are the model's readings, log entry 56); an exchange with the time master
over the lowest LIVE port, not before 100 µs after the last, measures the offset (its rounding is log entry 57), which is zero at the master, and moves
the lock. -/
def Obligations.FabricEvents : Prop :=
  (∀ (p : BitVec 6) (crcOk : Bool) (b : FlitBody) (reported : BitVec 8) (v : W64) (s : State), 36 ≤ p.toNat →
    exec (.mivisFlit p crcOk b) s = .next s ∧ exec (.linkDown p) s = .next s ∧ exec (.linkDownTimeout p) s = .next s ∧
      exec (.linkTrained p reported) s = .next s ∧ exec (.linkHoldExpire p) s = .next s ∧ exec (.linkAdminWrite p v) s = .next s) ∧
  (∀ (p : BitVec 6) (b : FlitBody) (s : State), p.toNat < 36 →
    ((s.port p.toNat).state ≠ 3 → exec (.mivisFlit p true b) s = .next s) ∧
    ((s.port p.toNat).state = 3 → exec (.mivisFlit p true b) s = .next (s.takeBody p.toNat b) ∧
      ∀ x, b = .sync x → s.links.selfValid = true → s.links.keeper = s.links.self →
        (s.takeBody p.toNat b).out = s.out ++ [.syncAnswer p.toNat x s.chip s.chip]) ∧
    ((s.port p.toNat).state.toNat < 2 → exec (.mivisFlit p false b) s = .next s) ∧
    (2 ≤ (s.port p.toNat).state.toNat → ∃ t, exec (.mivisFlit p false b) s = .next t ∧ t.dev = s.dev ∧ t.rings = s.rings ∧
      (((s.port p.toNat).replay s.chip).length ≤ 1024 →
        (t.port p.toNat).state = (s.port p.toNat).state ∧ .replay p.toNat ∈ t.out) ∧
      (1024 < ((s.port p.toNat).replay s.chip).length → (t.port p.toNat).state = 0))) ∧
  (∀ (p : BitVec 6) (s : State), p.toNat < 36 →
    (∃ t, exec (.linkDown p) s = .next t ∧ (t.port p.toNat).state = 0 ∧ (t.port p.toNat).since = s.chip ∧
      (t.links.anyTrained = false → t.links.selfValid = false)) ∧
    ((s.port p.toNat).state = 0 → (s.port p.toNat).admin = false → (s.port p.toNat).since + 100000000 ≤ s.chip →
      ∃ t, exec (.linkDownTimeout p) s = .next t ∧ (t.port p.toNat).state = 1) ∧
    (∀ reported : BitVec 8, (s.port p.toNat).state = 1 → (s.links.selfValid = false ∨ s.links.self = reported) →
      ∃ t, exec (.linkTrained p reported) s = .next t ∧ (t.port p.toNat).state = 2 ∧ t.links.self = reported ∧ t.links.selfValid = true) ∧
    (∀ reported : BitVec 8, (s.port p.toNat).state = 1 → s.links.selfValid = true → s.links.self ≠ reported →
      ∃ t, exec (.linkTrained p reported) s = .next t ∧ (t.port p.toNat).state = 0 ∧ t.links.self = s.links.self) ∧
    ((s.port p.toNat).state = 2 → (s.port p.toNat).since + 1000000000 ≤ s.chip →
      ∃ t, exec (.linkHoldExpire p) s = .next t ∧ (t.port p.toNat).state = 3) ∧
    ∀ v : W64, ∃ t, exec (.linkAdminWrite p v) s = .next t ∧ (t.port p.toNat).admin = v.getLsbD 63 ∧
      (v.getLsbD 63 = true → (t.port p.toNat).state = 0)) ∧
  (∀ (r : LinkChange) (s : State),
    let l := s.links.take r s.chip
    let g := s.gather r
    g.links.batch = l.batch ∧ g.links.batchFrom = l.batchFrom ∧ g.links.later = l.later ∧ g.links.live = s.links.live ∧
      (s.links.joined = true → SMap.get 0 l.ahead s.links.keeper.toNat ≠ 0 → l.keeps = s.links.keeps →
        exec (.changeRecord r) s = .next { s with links := l }) ∧
      (g.links.keeper = s.links.keeper → g.links.keeps = s.links.keeps → exec (.changeRecord r) s = .next g) ∧
      (g.links.keeper ≠ s.links.keeper ∨ g.links.keeps ≠ s.links.keeps → exec (.changeRecord r) s = .next g.resend)) ∧
  (∀ l : Links, l.keeper = l.self →
    (l.alone = false → l.keeps = true) ∧
    (l.alone = true → (l.keeps = true ↔ l.anyLive = true ∧
      ((∀ e ∈ l.live, e.1 = l.self.toNat ∨ e.2 = 0) ∨ (∃ r ∈ l.batch, r.pkg ≠ l.self) ∨ ∃ e ∈ l.later, e.1.pkg ≠ l.self)))) ∧
  (∀ (r : LinkChange) (now : Nat) (l : Links),
    (l.batchFrom = none → (l.take r now).batch = l.batch ++ [r] ∧ (l.take r now).batchFrom = some now) ∧
    ∀ t, l.batchFrom = some t →
      (now ≤ t + 10000 → (l.take r now).batch = l.batch ++ [r] ∧ (l.take r now).later = l.later) ∧
      (t + 10000 < now → (l.take r now).batch = l.batch ∧ (l.take r now).later = l.later ++ [(r, now)])) ∧
  (∀ (from_ : Nat) (s : State), s.links.batchFrom = some from_ → s.links.keeps = true → from_ + 10000 ≤ s.chip →
    let live := s.links.batch.foldl applyChange s.links.live
    ∃ t, exec .keeperBatch s = .next t ∧ t.links.epoch = s.links.epoch + 1 ∧ t.links.live = live ∧
      .batch ⟨s.links.epoch + 1, s.links.batch, false⟩ ∈ t.out ∧
      (s.links.joined = false ∨ s.links.alone = true ∨ s.links.admits = true → .batch ⟨s.links.epoch + 1, tableRecords live, true⟩ ∈ t.out)) ∧
  (∀ (b : LinkBatch) (s : State), b.whole = false →
    (s.links.alone = true ∨ s.links.joined = false → exec (.epochBatchApply b) s = .next s) ∧
    (s.links.alone = false → s.links.joined = true →
    (b.epoch = s.links.epoch + 1 → s.links.waiting = [] → ∃ t, exec (.epochBatchApply b) s = .next t ∧ t.links.epoch = b.epoch ∧
      t.links.live = b.changes.foldl applyChange s.links.live) ∧
    (b.epoch.toNat ≤ s.links.epoch.toNat → b.epoch ≠ s.links.epoch + 1 → exec (.epochBatchApply b) s = .next s))) ∧
  (∀ (b : LinkBatch) (s : State), b.whole = true →
    (s.links.alone = true → s.links.joins b = s.links.anyLive) ∧
    (s.links.joins b = false → exec (.epochBatchApply b) s = .next s) ∧
    (s.links.joins b = true → ∃ t, exec (.epochBatchApply b) s = .next t ∧ t.links.epoch = b.epoch ∧ t.links.alone = false ∧
      t.links.joined = true ∧ t.links.live = b.changes.foldl applyChange [])) ∧
  ∀ (x : SyncTimes) (s : State),
    ((∀ p, p < 36 → (s.port p).state ≠ 3) → ∃ t, exec (.timeSync x) s = .next t ∧ t.links.locked = false) ∧
    ∀ p, p < 36 → (s.port p).state = 3 → (∀ q, q < p → (s.port q).state ≠ 3) →
    (s.chip < s.links.syncAt + 100000 → exec (.timeSync x) s = .next s) ∧
    (s.links.syncAt + 100000 ≤ s.chip → ∃ t, exec (.timeSync x) s = .next t ∧
      (s.links.keeper = s.links.self → t.links.offset = 0) ∧
      (s.links.keeper ≠ s.links.self → .sync p x.sent ∈ t.out ∧
        t.links.offset = (((x.sent : Int) - x.masterIn) + ((s.chip : Int) - x.masterOut)) / 2) ∧
      (t.links.offset.natAbs ≤ 20 → 10 ≤ s.links.good + 1 → t.links.locked = true) ∧
      (20 < t.links.offset.natAbs → 3 ≤ s.links.bad + 1 → t.links.locked = false) ∧
      (t.links.offset.natAbs ≤ 20 → t.links.slew = 0))

/-- Power (R437 to R439, R442): a sample, not before 100 µs after the last, sets the islands' registers from the last ten samples, at a trip
temperature it removes the power; a boundary of 1 ms or 10 ms of chip time moves every island's frequency (the averages and the boundaries are the
model's choices, log entry 64) and leaves an island throttled where it is below its cap and a limit lowers or holds it; SET_CAP takes 500 to 2,000 MHz in
steps of 100 and leaves the frequency to the boundaries (log entries 37 and 58); the loss of power leaves the host's memory and module flash. -/
def Obligations.PowerEvents : Prop :=
  (∀ (x : Sensors) (s : State),
    (s.chip < s.folkai.sampleAt + 100000 → exec (.powerSample x) s = .next s) ∧
    (s.folkai.sampleAt + 100000 ≤ s.chip →
      let l := (x :: s.folkai.samples).take 10
      (tripOf x = none → ∃ t, exec (.powerSample x) s = .next t ∧ t.sample = averages l ∧ t.folkai.samples = l ∧ t.power = s.power ∧
        ∀ i, i < 32 → (t.island i).power = mean l (fun y => y.islandPower.getD i 0) % 2 ^ 16 ∧
          (t.island i).temp = x.islandTemp.getD i 0 % 2 ^ 16) ∧
      (tripOf x ≠ none → ∃ t, exec (.powerSample x) s = .next t ∧ t.power = .off))) ∧
  (∀ (rise : Bool) (s : State),
    let n := if rise then 10000000 else 1000000
    let last := if rise then s.folkai.riseAt else s.folkai.lowerAt
    (s.chip / n ≤ last / n → exec (.frequencyAdjust rise) s = .next s) ∧
    (last / n < s.chip / n → ∃ t, exec (.frequencyAdjust rise) s = .next t ∧ ∀ i, i < 32 →
      (t.island i).freq = nextFreq rise s.sample i (s.island i) ∧ (t.island i).cap = (s.island i).cap ∧
        ((t.island i).freq < (s.island i).cap → (t.island i).freq < (s.island i).freq ∨ held95 s.sample i = true → (t.island i).throttled = true) ∧
        ((s.island i).cap ≤ (t.island i).freq → (t.island i).throttled = false))) ∧
  (∀ (n : BitVec 8) (mhz : BitVec 16) (s : State), s.serves s.boot.via false = true →
    (n.toNat < 32 → 500 ≤ mhz.toNat → mhz.toNat ≤ 2000 → mhz.toNat % 100 = 0 →
      ∃ t, exec (.setCap n mhz) s = .next t ∧ (t.island n.toNat).cap = mhz.toNat ∧ (t.island n.toNat).freq = (s.island n.toNat).freq ∧
        .mctp s.boot.via 0 [] ∈ t.out) ∧
    (32 ≤ n.toNat ∨ mhz.toNat < 500 ∨ 2000 < mhz.toNat ∨ mhz.toNat % 100 ≠ 0 →
      exec (.setCap n mhz) s = .next (s.emit (.mctp s.boot.via 4 [])))) ∧
  ∀ s : State, ∃ t, exec .powerLoss s = .next t ∧ t.power = .off ∧ t.ctxs = [] ∧ t.host = s.host ∧ t.boot.flash = s.boot.flash ∧
    t.boot.journal = s.boot.journal

/-- Worlds (R419 to R422): a cluster, stack, the Dovetail or a stream without work takes its new world, and one with work, an access that a context has
left among it, keeps its own; a region waits for what it was translated for, and for a handover that holds a write-back (R451). -/
def Obligations.WorldChanges : Prop :=
  ∀ (w : Bool) (s : State),
    let left (g : Nat) : Prop := ∃ o ∈ s.orphans, groupOf o.ctx.core = g
    (∀ n : BitVec 4, (s.groupBusy n.toNat = false → ¬ left n.toNat → ∃ t, exec (.worldChange (.cluster n) w) s = .next t ∧ t.worldmap.getLsbD n.toNat = w) ∧
      (s.groupBusy n.toNat = true ∨ left n.toNat → exec (.worldChange (.cluster n) w) s = .next s)) ∧
    (∀ n : BitVec 4, (s.groupBusy (16 + n.toNat) = false → ¬ left (16 + n.toNat) →
        ∃ t, exec (.worldChange (.stack n) w) s = .next t ∧ t.worldmap.getLsbD (16 + n.toNat) = w) ∧
      (s.groupBusy (16 + n.toNat) = true ∨ left (16 + n.toNat) → exec (.worldChange (.stack n) w) s = .next s)) ∧
    ((s.dovetailBusy = false → ∃ t, exec (.worldChange .dovetail w) s = .next t ∧ t.worldmap.getLsbD 32 = w) ∧
      (s.dovetailBusy = true → exec (.worldChange .dovetail w) s = .next s)) ∧
    (∀ i : StreamId, (s.streamBusy i = false → ∃ t, exec (.worldChange (.stream i) w) s = .next t ∧ (t.stream i).world = w) ∧
      (s.streamBusy i = true → exec (.worldChange (.stream i) w) s = .next s)) ∧
    ∀ (n : BitVec 8) (valid : Bool) (base limit : BitVec 40),
      (s.evictWaits (s.dropScope fun _ _ _ => true) = true → exec (.worldChange (.region n valid base limit) w) s = .next s) ∧
      (s.evictWaits (s.dropScope fun _ _ _ => true) = false → (s.dropScope fun _ _ _ => true).usesScope (fun _ _ _ => true) = false →
        ∃ t, exec (.worldChange (.region n valid base limit) w) s = .next t ∧
        SMap.get ⟨false, false, 0, 0⟩ t.regions n.toNat = ⟨valid, w, base, limit⟩ ∧ t.cache = [])

/-- A module start and Folkai's requests (R414 to R418, R423, R442, R443): a start leaves nothing bound, numbers itself after the journal's highest
start, and runs only if every required step was made; over a transport that is served a session writes the slot that the module does not use, and
the responses go back on it; in recovery mode nothing is written to the slot before the image verifies (R418); a request for evidence that comes before
step 12 has ended waits (the model's reading, log entry 36). The steps that a start needs, and what CLEAR_MARKS leaves, are the model's choices (log entry
38). -/
def Obligations.FolkaiOperations : Prop :=
  (∀ (x : BootIn) (s : State), ∃ t, exec (.moduleStart x) s = .next t ∧ t.ctxs = [] ∧ t.spaces = [] ∧ t.host = s.host ∧
    (s.boot.installed = false → t.boot.startNo = s.boot.nextStart) ∧
    (t.power = .up → 12 ≤ x.steps.length ∧ ∀ n y, n = 1 ∨ n = 2 ∨ n = 3 ∨ n = 6 ∨ n = 7 ∨ n = 9 ∨ n = 11 ∨ n = 12 → x.steps[n - 1]? = some y → y.ok = true) ∧
    (t.power = .recovery → t.resmap = Resmap.none)) ∧
  (∀ (kind : BitVec 8) (len : BitVec 32) (s : State), s.serves s.boot.via true = true → s.boot.session = none → 1 ≤ kind.toNat → kind.toNat ≤ 3 →
    len.toNat ≤ slotSize kind.toNat →
    ∃ t, exec (.updateBegin kind len) s = .next t ∧ t.boot.session = some (kind.toNat, len.toNat) ∧ t.out = s.out ++ [.mctp s.boot.via 0 []] ∧
      (s.power ≠ .recovery → t.boot.isVerified kind.toNat (s.boot.target kind.toNat) = false) ∧
      (s.power = .recovery → t.boot.flash = s.boot.flash ∧ t.boot.staged = [])) ∧
  (∀ (off : BitVec 32) (bytes : List Byte) (k len : Nat) (s : State), s.serves s.boot.via true = true → s.boot.session = some (k, len) →
    1 ≤ bytes.length → bytes.length ≤ 1024 → off.toNat + bytes.length ≤ len →
    ∃ t, exec (.updateData off bytes) s = .next t ∧
      (s.power ≠ .recovery → t.boot.flash = SMap.setList 0 s.boot.flash (slotBase k (s.boot.target k) + off.toNat) bytes) ∧
      (s.power = .recovery → t.boot.flash = s.boot.flash ∧ t.boot.staged = SMap.setList 0 s.boot.staged off.toNat bytes) ∧
      t.boot.session = s.boot.session ∧ t.out = s.out ++ [.mctp s.boot.via 0 []]) ∧
  (∀ (k len : Nat) (s : State), s.serves s.boot.via true = true → s.boot.session = some (k, len) →
    let b := if s.power = .recovery then s.boot.install k else s.boot
    ∃ t, exec .updateEnd s = .next t ∧ t.boot.session = none ∧
    (b.imageGood k (s.boot.target k) = true → b.counterGood k (s.boot.target k) = true →
      t.boot.isVerified k (s.boot.target k) = true ∧ t.boot.flash = b.flash ∧ t.out = s.out ++ [.mctp s.boot.via 0 []]) ∧
    (b.imageGood k (s.boot.target k) = false → t.out = s.out ++ [.mctp s.boot.via 2 []] ∧
      (s.power = .recovery → t.boot.flash = s.boot.flash))) ∧
  (∀ (kind : BitVec 8) (s : State), s.serves s.boot.via false = true → 1 ≤ kind.toNat → kind.toNat ≤ 3 →
    s.boot.isVerified kind.toNat (s.boot.target kind.toNat) = true →
    ∃ t, exec (.activate kind) s = .next t ∧ t.boot.preferredSlot kind.toNat = s.boot.target kind.toNat) ∧
  (∀ s : State, s.serves s.boot.via false = true → exec .readJournal s = .next (s.emit (.mctp s.boot.via 0 s.boot.journalBytes)) ∧
    ∃ t, exec .clearMarks s = .next t ∧ t.out = s.out ++ [.mctp s.boot.via 0 []] ∧
      ∀ k, k < 64 → stepMask (t.boot.entry k).step ≠ 0 → (t.boot.entry k).w2 = 0) ∧
  (∀ (kind : BitVec 8) (len off : BitVec 32) (bytes : List Byte) (s : State), s.serves s.boot.via true = false →
    exec (.updateBegin kind len) s = .next s ∧ exec (.updateData off bytes) s = .next s ∧ exec .updateEnd s = .next s) ∧
  ∀ (nonce : List Byte) (s : State),
    (s.power = .up → s.boot.step12 = true → nonce.length = 32 →
      exec (.evidence nonce) s = .next (s.emit (.mctp s.boot.via 0 (s.evidenceOf nonce)))) ∧
    (s.power = .recovery → s.boot.folkaiGood = true → nonce.length = 32 →
      exec (.evidence nonce) s = .next (s.emit (.mctp s.boot.via 0 (s.evidenceOf nonce)))) ∧
    (s.power = .up → s.boot.step12 = true → nonce.length ≠ 32 → exec (.evidence nonce) s = .next (s.emit (.mctp s.boot.via 4 []))) ∧
    (s.power ≠ .recovery → s.boot.step12 = false →
      exec (.evidence nonce) s = .next { s with boot := { s.boot with requests := s.boot.requests ++ [(s.boot.via, nonce)] } })

/-! ### The machine as a whole -/

/-- What a step can end in: every operation, of any kind, in any state, answers with a next state, so that a step stops in one case only, without
power and without a module start to come (R417, R439; that a module without power stays so is the model's `noPower`, log entry 4). -/
def Obligations.OnlyLackOfPowerStops : Prop :=
  (∀ (i : Instr) (s : State), ∃ t, exec i s = .next t) ∧
  (∀ s : State, s.power = .off → untilStart s.agenda = [] → step s = .fault .noPower) ∧
  ∀ s : State, s.power ≠ .off ∨ untilStart s.agenda ≠ [] → ∃ t, step s = .next t

/-- A step carries out the next action of the agenda, and, where there is none, the next cycle of the current core's issue stage (log entry 4); what
an event puts into the latch is performed in the same step. A latch that holds one unmarked bundle of one operation, which no check stops, gives the
step the effect of that operation, between the fetch of its bundle and the end of the bundle (R22, R91, R183), and behind a fence, where it reads core
store, after what the fence orders (R167, log entry 75). Before the action, and before the bundles of the latch, what some access has performed ahead of,
at a scope that the acting party belongs to, follows it, if there is such an access, and so do the last writes of completed copies that the party needs
(R165, R169, log entry 13); after it, stores that contexts have left perform, if there are any (log entry 94). -/
def Obligations.StepRunsDecoded : Prop :=
  (∀ (p : Planned) (r : List Planned) (s : State), s.power ≠ .off → s.agenda = p :: r →
    step s = carryOut p.act (({ s.pass p.ns with agenda := r } : State).settleAction p.act)) ∧
  (∀ s : State, s.power ≠ .off → s.agenda = [] →
    step s = carryOut (.event (.issueCycle s.cur.core)) (({ s.pass 1 with agenda := [] } : State).settleAction (.event (.issueCycle s.cur.core)))) ∧
  (∀ (a : Action) (l : List Issued) (s : State), (∀ e ∈ s.ctxs, e.2.early = none) → s.trails = [] → s.settleAction a = s ∧ s.meetLatch l = s) ∧
  (∀ s : State, s.orphans = [] → (∀ e ∈ s.cores, ∀ w ∈ e.2.writes, w.after = 0) → s.performLeft = s) ∧
  (∀ (i : Instr) (s t : State), exec i s = .next t → t.latch = [] →
    carryOut (.event i) s = .next ({ t with checked := false } : State).performLeft.openBarriers.sendSignals.failColls) ∧
  (∀ (v : Transport) (i : Instr) (s : State), actOn (.request v i) s = exec i { s with boot := { s.boot with via := v } }) ∧
  ∀ (a : Action) (c : CtxId) (h : Header) (i : Instr) (s t v w : State), actOn a s = .next t → t.latch = [⟨c, h, [i], false⟩] → h.mark = false →
    let t0 : State := { ({ t with latch := [] } : State).meetLatch [⟨c, h, [i], false⟩] with cur := c, hdr := h }
    let u : State := t0.orderFences ⟨c, h, [i], false⟩
    t0.refreshLate c = none → landingOverflow (landingAfter exec c [i] u) = none →
    exec i { u with checked := false } = .next v → (v.ctx c).st.isStopped = false →
    exec i { u with checked := true } = .next w →
    carryOut a s =
      .next ((({ w with checked := false } : State).commit ⟨c, h, [i], false⟩).endCycle c.core).performLeft.openBarriers.sendSignals.failColls

/-- The bytes at the program counter of the current context, where they decode to a bundle that no phase, stall or other context holds back, are
what a cycle of its core puts into the latch, and the cycle changes no register and no memory; a core without a bound context issues nothing (R22,
R73, R91, R270). Selection (R24, R25, R304): aged contexts come first, yielding ones after those that do not yield, then the higher CTXPRIO, then
the lower slot (that CTXPRIO comes before the slot among aged contexts too is the model's choice, log entry 73, and that an aged context that yields comes
after the aged ones that do not is its reading, log entry 62); of two contexts with a bundle each
both issue if they share no slot and their allotments add up to at most 6, in ascending slot order, and else the first alone, while the other
ages. -/
def Obligations.IssueOfADecodedBundle : Prop :=
  (∀ (b : Bundle) (s : State),
    let c := s.cur
    let x := s.me
    let ops := b.ops.map fun o => o.2
    let live := ops.filter x.live
    x.st = .ready → x.gap = 0 → s.frozen c = false → s.fetchHeld c = false → x.regs.pc < s.csize x.asid → decodeBundle (s.codeLine x.asid x.regs.pc) = .ok b →
    ops.findSome? (barPhase c.core) = none → x.phases c.core live = none →
    (s.onCore c.core fun k => { k with cycles := k.cycles + 1 }).stallOf c b.hdr.mark live = none →
    (∀ d : CtxId, d.core = c.core → d ≠ c → (s.ctx d).st = .unbound) → s.entriesUsed c.core < 64 →
    ∃ t, exec (.issueCycle c.core) s = .next t ∧ t.latch = s.latch ++ [⟨c, b.hdr, ops, false⟩] ∧ (t.ctx c).st = .running ∧
      (t.ctx c).regs = x.regs ∧ t.dev = s.dev ∧ t.host = s.host ∧ (t.core c.core).cycles = (s.core c.core).cycles + 1) ∧
  (∀ (core : BitVec 16) (s : State), (∀ d : CtxId, d.core = core → (s.ctx d).st = .unbound) →
    ∃ t, exec (.issueCycle core) s = .next t ∧ t.latch = s.latch ∧ (t.core core).cycles = (s.core core).cycles + 1) ∧
  (∀ (c d : CtxId) (s : State),
    let x := s.ctx c
    let y := s.ctx d
    (64 ≤ x.passed → y.passed < 64 → s.sortKey c < s.sortKey d) ∧
    ((64 ≤ x.passed ↔ 64 ≤ y.passed) →
      (x.yieldLeft = 0 → y.yieldLeft ≠ 0 → s.sortKey c < s.sortKey d) ∧
      ((x.yieldLeft = 0 ↔ y.yieldLeft = 0) →
        (y.prio.toNat < x.prio.toNat → s.sortKey c < s.sortKey d) ∧
        (x.prio = y.prio → c.slot.toNat < d.slot.toNat → s.sortKey c < s.sortKey d)))) ∧
  ∀ (c d : CtxId) (cs ds : List Slot) (m n : Nat) (a b : Bundle) (s : State),
    let s0 := s.onCore c.core fun k => { k with cycles := k.cycles + 1 }
    c.core = d.core → c ≠ d → (∀ e : CtxId, e.core = c.core → e ≠ c → e ≠ d → (s.ctx e).st = .unbound) →
    (s.ctx c).st = .ready → (s.ctx d).st = .ready → s.frozen c = false → s.frozen d = false → s.fetchHeld c = false →
    s.fetchHeld d = false →
    s0.look c = .bundle cs m a → s0.look d = .bundle ds n b → s.entriesUsed c.core + 2 ≤ 64 → s.sortKey c < s.sortKey d →
    let held (e : CtxId) (u : Bundle) : Issued := ⟨e, u.hdr, u.ops.map fun o => o.2, false⟩
    ∃ t, exec (.issueCycle c.core) s = .next t ∧ (t.ctx c).passed = 0 ∧
      (t.ctx c).yieldLeft = (s.ctx c).yieldLeft - 1 ∧ (t.ctx d).yieldLeft = (s.ctx d).yieldLeft - 1 ∧
      ((∀ sl ∈ cs, sl ∉ ds) → m + n ≤ 6 → (t.ctx d).passed = 0 ∧
        t.latch = s.latch ++ if c.slot.toNat < d.slot.toNat then [held c a, held d b] else [held d b, held c a]) ∧
      ((∃ sl ∈ cs, sl ∈ ds) ∨ 6 < m + n → t.latch = s.latch ++ [held c a] ∧ (t.ctx d).passed = (s.ctx d).passed + 1)

/-- R87 whole. The checks of phases 1 to 3 stand before any guard: a line that breaks the encodings, or a `bar` whose count its core does not have,
faults whatever the predicates hold. Of a bundle whatever its guards, those operations alone whose guard is true meet the later checks and the stalls: the
first of their faults stops it, else the first of their stalls, else it can issue. An operation whose guard is false has no effect and makes no check, and
a bundle of such operations can issue, or, marked, waits for walks. An operation without a guard names its vector registers whatever its mask: one in a
gated bank raises. -/
def Obligations.GuardedOperations : Prop :=
  (∀ (c : CtxId) (e : BundleErr) (s : State), (s.ctx c).gap = 0 → (s.ctx c).regs.pc < s.csize (s.ctx c).asid →
    decodeBundle (s.codeLine (s.ctx c).asid (s.ctx c).regs.pc) = .error e → ∃ slots allot, s.look c = .fault slots allot (bundleExn e)) ∧
  (∀ (i : Instr) (g : Guard) (s : State), i.guard? = some g → s.me.guard g = false → exec i s = .next s) ∧
  (∀ (c : CtxId) (b : Bundle) (s : State),
    let x := s.ctx c
    let ops := b.ops.map fun o => o.2
    let live := ops.filter fun i => match i.guard? with
      | some g => x.guard g
      | none => true
    x.gap = 0 → x.regs.pc < s.csize x.asid → decodeBundle (s.codeLine x.asid x.regs.pc) = .ok b → ∃ slots allot,
      s.look c = match ops.findSome? (barPhase c.core), x.phases c.core live, s.stallOf c b.hdr.mark live with
        | some e, _, _ => .fault slots allot e
        | none, some e, _ => .fault slots allot e
        | none, none, some w => .stall w.1 w.2
        | none, none, none => .bundle slots allot b) ∧
  (∀ (c : CtxId) (b : Bundle) (s : State), (s.ctx c).gap = 0 → (s.ctx c).regs.pc < s.csize (s.ctx c).asid →
    decodeBundle (s.codeLine (s.ctx c).asid (s.ctx c).regs.pc) = .ok b → (∀ o ∈ b.ops, (s.ctx c).live o.2 = false) →
    if b.hdr.mark && (s.ctx c).untranslated then s.look c = .stall .walks []
    else ∃ slots allot, s.look c = .bundle slots allot b) ∧
  ∀ (i : Instr) (v : BitVec 6) (x : Ctx), i.guard? = none → v ∈ i.vNames → x.bank (x.regs.phys v) = 2 →
    x.live i = true ∧ ∃ e, bankPhase x i = some e

/-- R61 whole. A result for s0, p0 or m0 changes nothing when it lands; s0 reads zero, p0 true and m0 all ones, at every rotation. -/
def Obligations.HardWiredRegisters : Prop :=
  ∀ c : Ctx,
    (c.s 0 = 0 ∧ c.p 0 = true ∧ c.m 0 = BitVec.allOnes 128) ∧
    (∀ r : BitVec 5, ({ c.regs with rrb := r } : RegSet).phys 0 = 0 ∧ ({ c.regs with rrb := r } : RegSet).physP 0 = 0) ∧
    ∀ l : Landing, (∃ x, l.val = .s 0 x) ∨ (∃ b, l.val = .p 0 b) ∨ (∃ m bits, l.val = .m 0 m bits) → c.apply l = c

/-- Results become visible at their tick and not before (R26, R29, R62, R113, R202 to R204, R234): the entries that are not due stay, in order; a register
of any file that no due entry names keeps its value and tag; of several due entries the last one stands, with its tag; a vector result writes the byte
lanes it names and no other; due flags are ORed into FPSTAT, and due tiles replace theirs. A result for s0, p0 or m0 enters no landing queue (the model's
reading, log entry 69). -/
def Obligations.ResultsLandWhenDue : Prop :=
  (∀ c : Ctx,
    c.landDue.regs.landing = (c.regs.landing.filter fun l => !l.isDue c.regs.tick) ∧
    c.landDue.regs.pc = c.regs.pc ∧ c.landDue.regs.tick = c.regs.tick ∧ c.landDue.regs.h = c.regs.h ∧ c.landDue.regs.lc = c.regs.lc ∧
    c.landDue.fpstat = (c.regs.flagQ.filter fun f => decide (f.due ≤ c.regs.tick)).foldl (fun x f => x ||| f.bits) c.fpstat) ∧
  (∀ (c : Ctx) (r : Nat),
    let due (l : Landing) : Prop := l ∈ c.regs.landing ∧ l.isDue c.regs.tick = true
    let y := c.landDue.regs
    ((∀ l, due l → ∀ x, l.val ≠ .s r x) → SMap.get 0 y.s r = SMap.get 0 c.regs.s r ∧ y.sTag.getLsbD r = c.regs.sTag.getLsbD r) ∧
    ((∀ l, due l → ∀ b, l.val ≠ .p r b) → y.p.getLsbD r = c.regs.p.getLsbD r) ∧
    ((∀ l, due l → ∀ x lanes, l.val ≠ .v r x lanes) → SMap.get 0 y.v r = SMap.get 0 c.regs.v r ∧ y.vTag.getLsbD r = c.regs.vTag.getLsbD r) ∧
    ((∀ l, due l → ∀ x bits, l.val ≠ .m r x bits) → SMap.get 0 y.m r = SMap.get 0 c.regs.m r ∧ y.mTag.getLsbD r = c.regs.mTag.getLsbD r)) ∧
  (∀ (c : Ctx) (lat : Nat) (x : W64) (b tag : Bool) (m bits : Mask),
    c.landS lat 0 x tag = c ∧ c.landP lat 0 b = c ∧ c.land lat (.m 0 m bits) tag = c) ∧
  (∀ (c : Ctx) (l : Landing) (first : List Landing), c.regs.landing = first ++ [l] → l.isDue c.regs.tick = true →
    (∀ r x, l.val = .s r x → r ≠ 0 → SMap.get 0 c.landDue.regs.s r = x ∧ (r < 64 → c.landDue.regs.sTag.getLsbD r = l.tag)) ∧
    (∀ r b, l.val = .p r b → 0 < r → r < 16 → c.landDue.regs.p.getLsbD r = b)) ∧
  (∀ (c : Ctx) (l : Landing) (r : Nat) (x : V1024) (lanes : Mask), c.regs.landing = [l] → l.isDue c.regs.tick = true → l.val = .v r x lanes →
    c.bank r ≠ 2 → ∀ i, i < 128 →
      (SMap.get 0 c.landDue.regs.v r).extractLsb' (8 * i) 8 =
        if lanes.getLsbD i then x.extractLsb' (8 * i) 8 else (SMap.get 0 c.regs.v r).extractLsb' (8 * i) 8) ∧
  ∀ (c : Ctx) (p : PendTile), c.regs.pendTiles = [p] →
    (p.due ≤ c.regs.tick → c.landDue.tile p.tile = p.val ∧ c.landDue.regs.pendTiles = []) ∧
    (c.regs.tick < p.due → c.landDue.regs.tiles = c.regs.tiles ∧ c.landDue.regs.pendTiles = [p])

/-- The kind, sub-kind, valid bit and bundle index that a fault leaves in FAULTINFO, which `csrr` reads, and that a task start clears valid (R379); and
what taking an exception does to its context: a precise fault leaves every register, TICK too (the model's reading, log entry 71), and moves on to the next
bundle (R378), a translation fault goes back to the shadow with an empty gate (R35), where what is due by the shadow's TICK has landed (log entry 27), and a
loss leaves no register of the context (R381; that they read as zeros is the model's choice, log entry 67). -/
def Obligations.ExceptionsAreTaken : Prop :=
  (∀ (c : CtxId) (kind sub bundle resume : Nat) (w2 w3 : W64) (note : FaultNote) (s : State), kind < 2 ^ 8 → sub < 2 ^ 4 →
    let x := (s.suspend c kind sub bundle resume w2 w3 note).ctx c
    x.st = .suspended ∧ field x.faultInfo 7 0 = kind ∧ field x.faultInfo 11 8 = sub ∧ x.faultInfo.getLsbD 12 = true ∧
      field x.faultInfo 63 32 = bundle % 2 ^ 32 ∧ (s.suspend c kind sub bundle resume w2 w3 note).csr c 0x022 = x.faultInfo) ∧
  (∀ (c : CtxId) (r : TaskRec) (l : Launch) (s : State), s.taskFor c = some r → (s.lathe (dieOf c.core)).launch r.launch = some l →
    ∃ t, exec (.taskStart c) s = .next t ∧ (t.ctx c).faultInfo.getLsbD 12 = false) ∧
  (∀ (c : CtxId) (k : Kind) (sub : Nat) (w2 w3 : W64) (s : State), sub < 2 ^ 4 →
    let x := s.ctx c
    let y := (s.raise c (.fault k sub w2 w3)).ctx c
    y.st = .suspended ∧ field y.faultInfo 7 0 = k.code ∧ field y.faultInfo 63 32 = x.regs.pc % 2 ^ 32 ∧
      (k.rolls = false → k ≠ .refreshLate →
        let n := nextIndex x.regs.redirects x.regs.pc .none
        y.regs = { x.regs with pc := n.1, redirects := n.2 } ∧ y.gate = x.gate) ∧
      (k = .refreshLate → y.regs = x.regs) ∧
      (k.rolls = true → y.gate = [] ∧ y.regs.pc = x.shadow.pc ∧ y.regs.redirects = x.shadow.redirects ∧ y.regs.tick = x.shadow.tick ∧
        y.regs.rrb = x.shadow.rrb ∧ (∀ l ∈ y.regs.landing, l ∈ x.shadow.landing ∧ l.isDue x.shadow.tick = false) ∧
        ((∀ l ∈ x.shadow.landing, l.isDue x.shadow.tick = false ∧ l.awaits = false) → (∀ p ∈ x.shadow.pendTiles, x.shadow.tick < p.due) →
          x.regs.csrQ = [] → x.shadow.csrQ = [] → (∀ f ∈ x.regs.flagQ ++ x.shadow.flagQ, x.shadow.tick < f.due) →
          (∀ r, x.bank r ≠ 2) → y.regs = x.shadow))) ∧
  ∀ (c : CtxId) (reason space addr : Nat) (p : Option Loc) (s : State), (s.ctx c).st ≠ .lost →
    let y := (s.raise c (.lost reason space addr p)).ctx c
    y.st = .lost ∧ y.gate = [] ∧ y.queue = [] ∧ y.regs = RegSet.zero

/-- THE FRAME of the slot operations (R26, R168, R174): an operation that its checks do not stop changes no visible register of any file, neither pc,
TICK nor RRB, no shadow, no other context, and no memory. What it computes waits in a queue. An M operation on a tile with
a matrix product pending commits the product first (the model's reading, log entry 21). `loop` counts its register down; `rstw` writes its row;
`rref` refreshes its set, which may find errors and log them; `awaitf` and `rels` let the contexts that blocked on the same ring before them act
first (R322), which may go on from there as the statement of the waits says. -/
def Obligations.SlotOperationsFrame : Prop :=
  ∀ (i : Instr) (s t : State), (encodeSlot i).isSome = true → exec i s = .next t → ¬ (s.checked = false ∧ ∃ e, t = s.raise s.cur e) →
    let x := s.me
    let y := t.ctx s.cur
    (∀ c, c ≠ s.cur → ((∃ ring, i = .rels ring ∨ ∃ d, i = .awaitf d ring) → ∀ id, (s.ctx c).waitsOn id = false) → t.ctx c = s.ctx c) ∧
    (y.regs.s = x.regs.s ∧ y.regs.sTag = x.regs.sTag ∧ y.regs.p = x.regs.p ∧ y.regs.v = x.regs.v ∧ y.regs.vTag = x.regs.vTag ∧
      y.regs.m = x.regs.m ∧ y.regs.mTag = x.regs.mTag ∧ y.regs.latches = x.regs.latches ∧
      y.regs.rb = x.regs.rb ∧ y.regs.prb = x.regs.prb ∧ y.regs.h = x.regs.h ∧ y.regs.rrb = x.regs.rrb ∧ y.regs.pc = x.regs.pc ∧
      y.regs.tick = x.regs.tick ∧ y.regs.redirects = x.regs.redirects) ∧
    (y.regs.tiles = x.regs.tiles ∨ ∃ k, i.tile? = some k ∧ (x.regs.pendTiles.any fun p => decide (p.tile = k) && p.mm) = true ∧
      y.regs.tiles = SMap.set Tile.zero x.regs.tiles k (x.seenTile k)) ∧
    ((∀ g l d, i ≠ .loop g l d) → y.regs.lc = x.regs.lc) ∧
    (y.shadow = x.shadow ∧ y.lp = x.lp ∧ y.fpstat = x.fpstat ∧ y.vbank = x.vbank ∧ y.asid = x.asid ∧ y.priv = x.priv ∧ y.world = x.world ∧
      y.prio = x.prio ∧ y.task = x.task ∧ y.hasTask = x.hasTask ∧ y.faultInfo = x.faultInfo) ∧
    (∀ c, (t.core c).store = (s.core c).store) ∧ (∀ g, (t.group g).deck = (s.group g).deck ∧ (t.group g).dpart = (s.group g).dpart) ∧
    t.peers = s.peers ∧ t.chip = s.chip ∧ t.worldmap = s.worldmap ∧
    (((∃ ring, i = .rels ring ∨ ∃ d, i = .awaitf d ring) → ∀ id, s.ringWaiters s.cur.core id = []) →
      ((∀ g rb ch bank, i ≠ .rstw g rb ch bank) → (∀ g ch set, i ≠ .rref g ch set) → t.dev = s.dev) ∧
      ((∀ g ch set, i ≠ .rref g ch set) → t.host = s.host))

/-- THE FRAME of the events (R13, R22, R355, R431, R442): an event of a context on a D-core that neither faults nor loses it leaves the other contexts,
the memories, the groups, the stacks and the other cores as they are; a register write of the host, and a port's change of state, leave contexts,
cores, memories, commands, address spaces and boot state; a request to Folkai leaves all but the boot state and what goes out, and SET_CAP all but
the islands, the error log with its records, and what goes out. An awakened `awaitf` or `rels` may let others that wait at its ring go first (R322): the
clause takes one that no other context waits with, and of a context whose core-store writes become due one that none of them has to follow an access. -/
def Obligations.EventsFrame : Prop :=
  (∀ (c : CtxId) (i : Instr) (s t : State), isS c.core = false →
    (i = .resultLand c ∧ unordered c s ∨ (∃ n, i = .tileFree c n) ∨ i = .bankStallEnd c ∨ i = .engineProbeDone c ∨ i = .translationWalkDone c ∨
      i = .variableResultArrive c ∨ i = .wtimeDeadline c ∨
      ((i = .awaitfWake c ∨ i = .relsWake c) ∧ ∀ d id, d ≠ c → (s.ctx d).waitsOn id = false)) →
    exec i s = .next t → (t.ctx c).st.isStopped = (s.ctx c).st.isStopped →
    (∀ d, d ≠ c → t.ctx d = s.ctx d) ∧ (∀ k, k ≠ c.core → t.core k = s.core k) ∧ t.dev = s.dev ∧ t.host = s.host ∧ t.peers = s.peers ∧
      t.groups = s.groups ∧ t.stackTab = s.stackTab ∧ t.spaces = s.spaces ∧ t.cmds = s.cmds) ∧
  (∀ (i : Instr) (s t : State),
    ((∃ st ch v, i = .leaseWrite st ch v) ∨ (∃ st ch b, i = .modeRegisterWrite st ch b) ∨ (∃ v, i = .tsnap v) ∨
      (∃ n f d k v, i = .keySlotWrite n f d k v) ∨ (∃ x v, i = .doorbell x v) ∨ (∃ x v, i = .watchdogClear x v) ∨
      (∃ o f v, i = .registerWrite o f v) ∨ (∃ p, i = .linkDown p) ∨ (∃ p, i = .linkDownTimeout p) ∨ (∃ p n, i = .linkTrained p n) ∨
      (∃ p, i = .linkHoldExpire p) ∨ (∃ p v, i = .linkAdminWrite p v) ∨ ∃ r, i = .changeRecord r) →
    exec i s = .next t →
    t.ctxs = s.ctxs ∧ t.cores = s.cores ∧ t.groups = s.groups ∧ t.dev = s.dev ∧ t.host = s.host ∧ t.peers = s.peers ∧ t.cmds = s.cmds ∧
      t.spaces = s.spaces ∧ t.boot = s.boot ∧ t.chip = s.chip) ∧
  (∀ (i : Instr) (s t : State),
    ((∃ k n, i = .updateBegin k n) ∨ (∃ o b, i = .updateData o b) ∨ i = .updateEnd ∨ (∃ k, i = .activate k) ∨ i = .readJournal ∨
      (∃ n, i = .evidence n) ∨ i = .clearMarks) →
    exec i s = .next t → t = { s with boot := t.boot, out := t.out }) ∧
  ∀ (n : BitVec 8) (m : BitVec 16) (s t : State), exec (.setCap n m) s = .next t →
    t = { s with islands := t.islands, log := t.log, dev := t.dev, host := t.host, out := t.out }

/-- What stores write, and that they write nothing else: a core-store write that has become due, with no other write waiting above it (R163, R253),
which stays hidden while what an order has it follow cannot perform (R166, R167, log entry 75), a queued store whose sectors perform in unenciphered
device memory outside the deck's blocks (R133, R160), and `rstw` (R295). Every byte is read through the model's read of one byte. -/
def Obligations.StoresWriteTheirBytes : Prop :=
  (∀ (c : CtxId) (w : CoreWrite) (s : State),
    (s.ctx c).st = .ready ∨ (∃ k, (s.ctx c).st = .stalled k) → (s.core c.core).writes = [w] → w.slot = c.slot → w.due ≤ (s.ctx c).regs.tick →
    w.bid = (s.ctx c).bid → (s.core c.core).layers = [] → (s.ctx c).holders w = [] → w.lanes.length = w.bytes.length →
    (w.whole = true → w.off % 32 = 0 ∧ w.bytes.length % 32 = 0) →
    let at_ (i : Nat) : Nat := coreOff c.core (w.off + i)
    ∃ t, exec (.resultLand c) s = .next t ∧
      (∀ a, (∀ i, i < w.bytes.length → w.lanes.getD i false = true → a ≠ at_ i) → (t.core c.core).store.byte a = (s.core c.core).store.byte a) ∧
      ((∀ i j, i < w.bytes.length → j < w.bytes.length → at_ i = at_ j → i = j) →
        ∀ i, i < w.bytes.length → w.lanes.getD i false = true → (t.core c.core).store.byte (at_ i) = w.bytes.getD i 0)) ∧
  (∀ (c : CtxId) (w : CoreWrite) (s : State),
    (s.ctx c).st = .ready ∨ (∃ k, (s.ctx c).st = .stalled k) → (s.core c.core).writes = [w] → w.slot = c.slot → w.bid = (s.ctx c).bid →
    (s.core c.core).layers = [] → (s.ctx c).holders w ≠ [] → s.dueFree c = [] → (s.ctx c).regs.dupQ = [] →
    ∃ t, exec (.resultLand c) s = .next t ∧ (t.core c.core).store = (s.core c.core).store ∧ (t.core c.core).layers = [] ∧
      (t.core c.core).writes = [w]) ∧
  (∀ (c : CtxId) (sp : QSpace) (q : QAcc) (e : Option CachedEntry) (a : Nat) (s : State),
    s.dueAccesses c sp = [⟨q, ⟨.dev a, none⟩, e, none⟩] → q.kind = .store → s.leaseStops q ⟨.dev a, none⟩ = false → s.barriers = [] →
    (∀ b, a / 32 * 32 ≤ b → b < a + q.bytes.length → s.blockAt (dieOf c.core) b = none) →
    (a % 32 = 0 ∧ q.bytes.length % 32 = 0) ∨ a % 32 + q.bytes.length ≤ 32 →
    let ks := (s.portion q.sectorsLeft).1.1
    let written (b : Nat) : Prop := ∃ k ∈ ks, a + 32 * k ≤ b ∧ b < a + 32 * k + 32 ∧ b < a + q.bytes.length
    ∃ t, exec (.queuedAccessPerform c sp) s = .next t ∧
      (∀ b, ¬ written b → t.dev.byte b = s.dev.byte b) ∧
      ∀ i, written (a + i) → t.dev.byte (a + i) = q.bytes.getD i 0) ∧
  ∀ (g : Guard) (rb : BitVec 2) (ch : Bool) (bank : BitVec 4) (s : State), s.me.guard g = true → s.checked = true →
    let a := s.openAddr ch bank.toNat
    ∃ t, exec (.rstw g rb ch bank) s = .next t ∧
      (∀ b, b < a ∨ a + 2048 ≤ b → t.dev.byte b = s.dev.byte b) ∧
      ∀ i, i < 2048 → t.dev.byte (a + i) = (SMap.get Memory.empty s.me.regs.rb rb.toNat).byte i

/-- The state after reset (R72, R298, R365, R408): no context is bound, no register holds anything but zero, no stream is enabled, REPWAIT is
1,000 µs, TREFI 3,900 ns with the first refresh of every set due after one of them, and every memory is in canonical form with zeros. (That reset is a
completed module start, and the zeros where the manual gives no value, are the model's choices, log entries 1 to 4.) -/
def Obligations.ResetState : Prop :=
  let s := State.reset
  s.power = .up ∧ (∀ c, s.ctx c = Ctx.init) ∧ Ctx.init.st = .unbound ∧
  (∀ (c : CtxId) (n : BitVec 6), (s.ctx c).s n = 0 ∧ (s.ctx c).v n = 0 ∧ (s.ctx c).regs.pc = 0) ∧
  (∀ i, s.stream i = Stream.init) ∧ Stream.init.ctl = 0 ∧ s.repwait = 1000 ∧ (∀ n, (s.stack n).trefi = 3900) ∧
  (∀ st ch j, j < 4 → SMap.get 0 (s.channel st ch).deadline j = 3900) ∧ (∀ asid, s.space asid = none) ∧
  (∀ a, s.dev.byte a = 0 ∧ s.host.byte a = 0) ∧ s.latch = [] ∧ s.agenda = [] ∧ Safety.canonical s

/-- THE INVARIANT of the memories outside the cores (headline): from every state in which device memory, host memory and the peers' memories are in
canonical form, whatever operation the step carries out, they are in canonical form after it. -/
def Obligations.StepKeepsOuterCanonical : Prop :=
  ∀ s t : State, Safety.outerCanonical s → step s = .next t → Safety.outerCanonical t

/-- THE INVARIANT of the memories inside the clusters and stacks (headline): core stores and deck slices stay in canonical form (the
model's own, log entry 3) at every step, whatever the rest of the state holds (R127, R128). -/
def Obligations.StepKeepsInnerCanonical : Prop :=
  ∀ s t : State, Safety.innerCanonical s → step s = .next t → Safety.innerCanonical t

/-! ### Encodings -/

/-- DECODE AND ENCODE AGREE for every slot operation of every family (headline): a slot's decoder reads a well-formed operation back from its bits,
and the line that holds it alone decodes to a bundle of that operation (`dup`, which needs a V0 operation beside it, R79, has no such line). -/
def Obligations.SlotEncodingRoundTrip : Prop :=
  ∀ (i : Instr) (w : SlotWord), i.wf = true → encodeSlot i = some w →
    decodeSlotWord w = .ok i ∧
    (i ≠ .dup → ∃ b, decodeBundle (w.line (soloHeader i w)) = .ok b ∧ (b.ops.map fun o => o.2) = [i])

/-- DECODE AND ENCODE AGREE for every stream command (headline). -/
def Obligations.CommandEncodingRoundTrip : Prop :=
  ∀ (i : Instr) (b : BitVec 512), i.wf = true → encodeCommand i = some b → decodeCommand b = .ok i

/-- Words written out from the tables of R81 to R86 and R357 decode to the operations they stand for. -/
def Obligations.DecodedWords : Prop :=
  -- `add s3, s1, s2`: S.R, op 0x01, d 3, a 1, b 2
  decodeSlotWord (.s 0x0100304200000000) = .ok (.add ⟨⟨0, false⟩, 3, 1, 2⟩) ∧
  -- `(!p4) add s5, s6, -1`: S.I, g 4, gn 1, bit [50] 1, d 5, a 6, imm32 all ones
  decodeSlotWord (.s 0x014C5180FFFFFFFF) = .ok (.addImm ⟨⟨4, true⟩, 5, 6, 0xFFFFFFFF⟩) ∧
  -- V0 `fma.f32 v1, v2, v3, v4` under m0 with rounding 1: op 0x04
  decodeSlotWord (.v .v0 0x0400084188800000) = .ok (.vFma ⟨.v0, 0, .f32, 1, 2, 3, 4, 1, false, 0⟩) ∧
  -- X `xs2v v7[2], s4`: op 0x01, scalar 4, vector 7, ext 2
  decodeSlotWord (.x 0x088382) = .ok (.xs2v 4 7 false 2) ∧
  -- M `mzero t3`: op 0x03, tile 3
  decodeSlotWord (.m 0x0306000000000000) = .ok (.mzero ⟨0, false⟩ 3) ∧
  -- L `ldc.d s9, [s10 + 8]`: op 0x01, register 9, base 10, width 3
  decodeSlotWord (.l 0x0100929800000008) = .ok (.ldc ⟨⟨⟨0, false⟩, false, 9, .d, .plain, .context⟩, 10, 8⟩) ∧
  -- T `stc.v v9, [s10 - 128]`: op 0x01, file 1, width 4, displacement 2^30 - 128
  decodeSlotWord (.t 0x010492A03FFFFF80) = .ok (.stc ⟨⟨⟨0, false⟩, true, 9, .v, .plain, .context⟩, 10, 0x3FFFFF80⟩) ∧
  -- E `cpy s1, s2, s3, 5, cq4`: op 0x01, a 1, b 2, c 3, [15:12] 4, [11:0] 5
  decodeSlotWord (.e 0x040084184005) = .ok (.cpy ⟨⟨0, false⟩, 1, 2, 3, 4, 5⟩) ∧
  -- Y `rels cq5`: op 0x02, [12:9] 5
  decodeSlotWord (.y 0x100A00) = .ok (.rels 5) ∧
  -- CLEAR_AS of ASID 5 with tag 7 and no completion address: op 0x11, word 1
  decodeCommand 0x50000000000070011 = .ok (.clearAs ⟨7, 0⟩ 5) ∧
  -- an S slot of opcode 0x5F is ILLEGAL_OP, and `add` with a bit of [15:0] set breaks its format
  decodeSlotWord (.s 0x5F00000000000000) = .error .op ∧ decodeSlotWord (.s 0x0100304200000001) = .error .form
end

