-- ==== Sys2Proof/Laws/SMap.lean ====
section
/-! SUPPORT. Laws/SMap.lean: sparse maps: reading after writing, and that every operation keeps the canonical form. -/

namespace Sys2Proof.Machine

variable {α : Type}

@[simp] theorem SMap.get_nil (d : α) (a : Nat) : SMap.get d [] a = d := rfl

theorem SMap.get_cons (d : α) (k : Nat) (v : α) (r : SMap α) (a : Nat) :
    SMap.get d ((k, v) :: r) a = if k = a then v else SMap.get d r a := rfl

/-- Reading a key just put gives the value put. -/
theorem SMap.get_put_same (d : α) (m : SMap α) (a : Nat) (v : α) : SMap.get d (SMap.put m a v) a = v := by
  induction m with
  | nil => simp [SMap.put, SMap.get]
  | cons e r ih =>
    obtain ⟨k, w⟩ := e
    simp only [SMap.put]
    split
    · simp [SMap.get]
    · split
      · simp [SMap.get]
      · rename_i h1 h2
        simp [SMap.get, Ne.symm h2, ih]

/-- Putting a key leaves every other key alone. -/
theorem SMap.get_put_other (d : α) (m : SMap α) {a b : Nat} (v : α) (h : b ≠ a) :
    SMap.get d (SMap.put m a v) b = SMap.get d m b := by
  induction m with
  | nil => simp [SMap.put, SMap.get, Ne.symm h]
  | cons e r ih =>
    obtain ⟨k, w⟩ := e
    simp only [SMap.put]
    split
    · simp [SMap.get, Ne.symm h]
    · split
      · rename_i h1 h2
        simp [SMap.get, Ne.symm h, ← h2]
      · simp only [SMap.get, ih]

/-- Removing a key leaves every other key alone. -/
theorem SMap.get_del_other (d : α) (m : SMap α) {a b : Nat} (h : b ≠ a) : SMap.get d (SMap.del m a) b = SMap.get d m b := by
  induction m with
  | nil => rfl
  | cons e r ih =>
    obtain ⟨k, w⟩ := e
    by_cases hk : k = a
    · subst hk; simpa [SMap.del, SMap.get, Ne.symm h] using ih
    · simp only [SMap.del] at ih
      rw [SMap.del, List.filter_cons_of_pos (by simpa using hk), SMap.get, SMap.get, ih]

/-- A removed key reads as an unlisted one. -/
theorem SMap.get_del_same (d : α) (m : SMap α) (a : Nat) : SMap.get d (SMap.del m a) a = d := by
  induction m with
  | nil => rfl
  | cons e r ih =>
    obtain ⟨k, w⟩ := e
    by_cases hk : k = a
    · subst hk; simpa [SMap.del] using ih
    · simp only [SMap.del] at ih
      rw [SMap.del, List.filter_cons_of_pos (by simpa using hk), SMap.get, if_neg hk, ih]

variable [DecidableEq α]

@[simp] theorem SMap.get_set_same (d : α) (m : SMap α) (a : Nat) (v : α) : SMap.get d (SMap.set d m a v) a = v := by
  unfold SMap.set
  split
  · rename_i h; rw [SMap.get_del_same, h]
  · exact SMap.get_put_same d m a v

theorem SMap.get_set_other (d : α) (m : SMap α) {a b : Nat} (v : α) (h : b ≠ a) :
    SMap.get d (SMap.set d m a v) b = SMap.get d m b := by
  unfold SMap.set
  split
  · exact SMap.get_del_other d m h
  · exact SMap.get_put_other d m v h

/-- Reading after writing, in one equation. -/
theorem SMap.get_set (d : α) (m : SMap α) (a b : Nat) (v : α) :
    SMap.get d (SMap.set d m a v) b = if b = a then v else SMap.get d m b := by
  by_cases h : b = a
  · subst h; simp
  · simp [SMap.get_set_other d m v h, h]

/-! ### The canonical form -/

/-- The canonical form, said of every entry and the keys' order. -/
theorem SMap.wf_iff (d : α) (m : SMap α) :
    SMap.wf d m = true ↔ m.Pairwise (fun x y => x.1 < y.1) ∧ ∀ e ∈ m, e.2 ≠ d := by
  induction m with
  | nil => simp [SMap.wf]
  | cons e r ih =>
    obtain ⟨k, v⟩ := e
    cases r with
    | nil => simp [SMap.wf]
    | cons e' r' =>
      obtain ⟨k', v'⟩ := e'
      simp only [SMap.wf, Bool.and_eq_true, Bool.not_eq_true', decide_eq_true_eq, decide_eq_false_iff_not, ih]
      constructor
      · rintro ⟨⟨hk, hv⟩, hp, hd⟩
        refine ⟨List.pairwise_cons.2 ⟨?_, hp⟩, ?_⟩
        · intro x hx
          rcases List.mem_cons.1 hx with rfl | hx
          · exact hk
          · exact Nat.lt_trans hk ((List.pairwise_cons.1 hp).1 x hx)
        · intro x hx
          rcases List.mem_cons.1 hx with rfl | hx
          · exact hv
          · exact hd x hx
      · rintro ⟨hp, hd⟩
        obtain ⟨h1, h2⟩ := List.pairwise_cons.1 hp
        exact ⟨⟨h1 (k', v') (by simp), hd (k, v) (by simp)⟩, h2, fun x hx => hd x (List.mem_cons_of_mem _ hx)⟩

theorem SMap.wf_nil (d : α) : SMap.wf d [] = true := rfl

/-- Keeping a part of the entries keeps the form. -/
theorem SMap.wf_filter (d : α) {m : SMap α} (p : Nat × α → Bool) (h : SMap.wf d m = true) : SMap.wf d (m.filter p) = true := by
  rw [SMap.wf_iff] at *
  exact ⟨h.1.filter _, fun e he => h.2 e (List.mem_filter.1 he).1⟩

theorem SMap.wf_del (d : α) {m : SMap α} (a : Nat) (h : SMap.wf d m = true) : SMap.wf d (SMap.del m a) = true :=
  SMap.wf_filter d _ h

omit [DecidableEq α] in
/-- Every entry of a map after a put is an old one or the one put. -/
theorem SMap.mem_put {m : SMap α} {a : Nat} {v : α} {e : Nat × α} (h : e ∈ SMap.put m a v) : e ∈ m ∨ e = (a, v) := by
  induction m with
  | nil => simpa [SMap.put] using h
  | cons x r ih =>
    obtain ⟨k, w⟩ := x
    simp only [SMap.put] at h
    split at h
    · rcases List.mem_cons.1 h with h | h
      · exact .inr h
      · exact .inl h
    · split at h
      · rcases List.mem_cons.1 h with h | h
        · exact .inr h
        · exact .inl (List.mem_cons_of_mem _ h)
      · rcases List.mem_cons.1 h with h | h
        · exact .inl (h ▸ List.mem_cons_self)
        · exact (ih h).imp (List.mem_cons_of_mem _) id

theorem SMap.wf_put (d : α) {m : SMap α} (a : Nat) {v : α} (hv : v ≠ d) (h : SMap.wf d m = true) :
    SMap.wf d (SMap.put m a v) = true := by
  rw [SMap.wf_iff] at *
  refine ⟨?_, ?_⟩
  · obtain ⟨hp, -⟩ := h
    induction m with
    | nil => simp [SMap.put]
    | cons x r ih =>
      obtain ⟨k, w⟩ := x
      obtain ⟨h1, h2⟩ := List.pairwise_cons.1 hp
      simp only [SMap.put]
      split
      · rename_i hlt
        refine List.pairwise_cons.2 ⟨?_, hp⟩
        intro y hy
        rcases List.mem_cons.1 hy with rfl | hy
        · exact hlt
        · exact Nat.lt_trans hlt (h1 y hy)
      · split
        · rename_i hlt heq
          exact List.pairwise_cons.2 ⟨fun y hy => heq ▸ h1 y hy, h2⟩
        · rename_i hlt hne
          refine List.pairwise_cons.2 ⟨?_, ih h2⟩
          intro y hy
          rcases SMap.mem_put hy with hy | rfl
          · exact h1 y hy
          · show k < a
            omega
  · intro e he
    rcases SMap.mem_put he with he | rfl
    · exact h.2 e he
    · exact hv

/-- Writing a key keeps the canonical form. -/
theorem SMap.wf_set (d : α) {m : SMap α} (a : Nat) (v : α) (h : SMap.wf d m = true) : SMap.wf d (SMap.set d m a v) = true := by
  unfold SMap.set
  split
  · exact SMap.wf_del d a h
  · exact SMap.wf_put d a ‹_› h

theorem SMap.wf_upd (d : α) {m : SMap α} (a : Nat) (f : α → α) (h : SMap.wf d m = true) : SMap.wf d (SMap.upd d m a f) = true :=
  SMap.wf_set d a _ h

theorem SMap.wf_setList (d : α) {m : SMap α} (a : Nat) (l : List α) (h : SMap.wf d m = true) :
    SMap.wf d (SMap.setList d m a l) = true := by
  induction l generalizing m a with
  | nil => exact h
  | cons v r ih => exact ih _ (SMap.wf_set d a v h)

/-- Writing consecutive keys leaves every other key alone. -/
theorem SMap.get_setList_other (d : α) (m : SMap α) (a : Nat) (l : List α) {b : Nat} (h : b < a ∨ a + l.length ≤ b) :
    SMap.get d (SMap.setList d m a l) b = SMap.get d m b := by
  induction l generalizing m a with
  | nil => rfl
  | cons v r ih =>
    have hb : b ≠ a := by simp only [List.length_cons] at h; omega
    simp only [SMap.setList]
    rw [ih _ _ (by simp only [List.length_cons] at h; omega), SMap.get_set_other d m v hb]

/-- Reading one of the keys just written gives its value. -/
theorem SMap.get_setList_same (d : α) (m : SMap α) (a : Nat) (l : List α) (i : Nat) (h : i < l.length) :
    SMap.get d (SMap.setList d m a l) (a + i) = l[i] := by
  induction l generalizing m a i with
  | nil => simp at h
  | cons v r ih =>
    simp only [SMap.setList]
    cases i with
    | zero =>
      rw [SMap.get_setList_other _ _ _ _ (by omega)]
      simp
    | succ j =>
      have := ih (SMap.set d m a v) (a + 1) j (by simpa using h)
      rw [show a + 1 + j = a + (j + 1) by omega] at this
      simpa using this

end Sys2Proof.Machine
end

