-- ==== Sys2Proof/Laws/State.lean ====
section
/-! SUPPORT. Laws/State.lean: what each named update of the state leaves alone, field by field, so that no proof unfolds a record update. -/

namespace Sys2Proof.Machine

variable (s : State)

/-! ### State.setCtx -/

@[simp] theorem State.setCtx_power (c : CtxId) (x : Ctx) : (s.setCtx c x).power = s.power := rfl
@[simp] theorem State.setCtx_saved (c : CtxId) (x : Ctx) : (s.setCtx c x).saved = s.saved := rfl
@[simp] theorem State.setCtx_cores (c : CtxId) (x : Ctx) : (s.setCtx c x).cores = s.cores := rfl
@[simp] theorem State.setCtx_groups (c : CtxId) (x : Ctx) : (s.setCtx c x).groups = s.groups := rfl
@[simp] theorem State.setCtx_stackTab (c : CtxId) (x : Ctx) : (s.setCtx c x).stackTab = s.stackTab := rfl
@[simp] theorem State.setCtx_rings (c : CtxId) (x : Ctx) : (s.setCtx c x).rings = s.rings := rfl
@[simp] theorem State.setCtx_windows (c : CtxId) (x : Ctx) : (s.setCtx c x).windows = s.windows := rfl
@[simp] theorem State.setCtx_barriers (c : CtxId) (x : Ctx) : (s.setCtx c x).barriers = s.barriers := rfl
@[simp] theorem State.setCtx_lathe0 (c : CtxId) (x : Ctx) : (s.setCtx c x).lathe0 = s.lathe0 := rfl
@[simp] theorem State.setCtx_lathe1 (c : CtxId) (x : Ctx) : (s.setCtx c x).lathe1 = s.lathe1 := rfl
@[simp] theorem State.setCtx_spaces (c : CtxId) (x : Ctx) : (s.setCtx c x).spaces = s.spaces := rfl
@[simp] theorem State.setCtx_cache (c : CtxId) (x : Ctx) : (s.setCtx c x).cache = s.cache := rfl
@[simp] theorem State.setCtx_cmds (c : CtxId) (x : Ctx) : (s.setCtx c x).cmds = s.cmds := rfl
@[simp] theorem State.setCtx_nextId (c : CtxId) (x : Ctx) : (s.setCtx c x).nextId = s.nextId := rfl
@[simp] theorem State.setCtx_dev (c : CtxId) (x : Ctx) : (s.setCtx c x).dev = s.dev := rfl
@[simp] theorem State.setCtx_host (c : CtxId) (x : Ctx) : (s.setCtx c x).host = s.host := rfl
@[simp] theorem State.setCtx_peers (c : CtxId) (x : Ctx) : (s.setCtx c x).peers = s.peers := rfl
@[simp] theorem State.setCtx_farCap (c : CtxId) (x : Ctx) : (s.setCtx c x).farCap = s.farCap := rfl
@[simp] theorem State.setCtx_keys (c : CtxId) (x : Ctx) : (s.setCtx c x).keys = s.keys := rfl
@[simp] theorem State.setCtx_chip (c : CtxId) (x : Ctx) : (s.setCtx c x).chip = s.chip := rfl
@[simp] theorem State.setCtx_resmap (c : CtxId) (x : Ctx) : (s.setCtx c x).resmap = s.resmap := rfl
@[simp] theorem State.setCtx_worldmap (c : CtxId) (x : Ctx) : (s.setCtx c x).worldmap = s.worldmap := rfl
@[simp] theorem State.setCtx_regions (c : CtxId) (x : Ctx) : (s.setCtx c x).regions = s.regions := rfl
@[simp] theorem State.setCtx_log (c : CtxId) (x : Ctx) : (s.setCtx c x).log = s.log := rfl
@[simp] theorem State.setCtx_repwait (c : CtxId) (x : Ctx) : (s.setCtx c x).repwait = s.repwait := rfl
@[simp] theorem State.setCtx_links (c : CtxId) (x : Ctx) : (s.setCtx c x).links = s.links := rfl
@[simp] theorem State.setCtx_islands (c : CtxId) (x : Ctx) : (s.setCtx c x).islands = s.islands := rfl
@[simp] theorem State.setCtx_sample (c : CtxId) (x : Ctx) : (s.setCtx c x).sample = s.sample := rfl
@[simp] theorem State.setCtx_folkai (c : CtxId) (x : Ctx) : (s.setCtx c x).folkai = s.folkai := rfl
@[simp] theorem State.setCtx_energy (c : CtxId) (x : Ctx) : (s.setCtx c x).energy = s.energy := rfl
@[simp] theorem State.setCtx_telemetry (c : CtxId) (x : Ctx) : (s.setCtx c x).telemetry = s.telemetry := rfl
@[simp] theorem State.setCtx_shadowTel (c : CtxId) (x : Ctx) : (s.setCtx c x).shadowTel = s.shadowTel := rfl
@[simp] theorem State.setCtx_tsnap (c : CtxId) (x : Ctx) : (s.setCtx c x).tsnap = s.tsnap := rfl
@[simp] theorem State.setCtx_boot (c : CtxId) (x : Ctx) : (s.setCtx c x).boot = s.boot := rfl
@[simp] theorem State.setCtx_collSeq (c : CtxId) (x : Ctx) : (s.setCtx c x).collSeq = s.collSeq := rfl
@[simp] theorem State.setCtx_taken (c : CtxId) (x : Ctx) : (s.setCtx c x).taken = s.taken := rfl
@[simp] theorem State.setCtx_orphans (c : CtxId) (x : Ctx) : (s.setCtx c x).orphans = s.orphans := rfl
@[simp] theorem State.setCtx_trails (c : CtxId) (x : Ctx) : (s.setCtx c x).trails = s.trails := rfl
@[simp] theorem State.setCtx_agenda (c : CtxId) (x : Ctx) : (s.setCtx c x).agenda = s.agenda := rfl
@[simp] theorem State.setCtx_out (c : CtxId) (x : Ctx) : (s.setCtx c x).out = s.out := rfl
@[simp] theorem State.setCtx_cur (c : CtxId) (x : Ctx) : (s.setCtx c x).cur = s.cur := rfl
@[simp] theorem State.setCtx_curStream (c : CtxId) (x : Ctx) : (s.setCtx c x).curStream = s.curStream := rfl
@[simp] theorem State.setCtx_hdr (c : CtxId) (x : Ctx) : (s.setCtx c x).hdr = s.hdr := rfl
@[simp] theorem State.setCtx_latch (c : CtxId) (x : Ctx) : (s.setCtx c x).latch = s.latch := rfl
@[simp] theorem State.setCtx_checked (c : CtxId) (x : Ctx) : (s.setCtx c x).checked = s.checked := rfl
@[simp] theorem State.setCtx_free (c : CtxId) (x : Ctx) : (s.setCtx c x).free = s.free := rfl

/-! ### State.onCtx -/

@[simp] theorem State.onCtx_power (c : CtxId) (f : Ctx → Ctx) : (s.onCtx c f).power = s.power := rfl
@[simp] theorem State.onCtx_saved (c : CtxId) (f : Ctx → Ctx) : (s.onCtx c f).saved = s.saved := rfl
@[simp] theorem State.onCtx_cores (c : CtxId) (f : Ctx → Ctx) : (s.onCtx c f).cores = s.cores := rfl
@[simp] theorem State.onCtx_groups (c : CtxId) (f : Ctx → Ctx) : (s.onCtx c f).groups = s.groups := rfl
@[simp] theorem State.onCtx_stackTab (c : CtxId) (f : Ctx → Ctx) : (s.onCtx c f).stackTab = s.stackTab := rfl
@[simp] theorem State.onCtx_rings (c : CtxId) (f : Ctx → Ctx) : (s.onCtx c f).rings = s.rings := rfl
@[simp] theorem State.onCtx_windows (c : CtxId) (f : Ctx → Ctx) : (s.onCtx c f).windows = s.windows := rfl
@[simp] theorem State.onCtx_barriers (c : CtxId) (f : Ctx → Ctx) : (s.onCtx c f).barriers = s.barriers := rfl
@[simp] theorem State.onCtx_lathe0 (c : CtxId) (f : Ctx → Ctx) : (s.onCtx c f).lathe0 = s.lathe0 := rfl
@[simp] theorem State.onCtx_lathe1 (c : CtxId) (f : Ctx → Ctx) : (s.onCtx c f).lathe1 = s.lathe1 := rfl
@[simp] theorem State.onCtx_spaces (c : CtxId) (f : Ctx → Ctx) : (s.onCtx c f).spaces = s.spaces := rfl
@[simp] theorem State.onCtx_cache (c : CtxId) (f : Ctx → Ctx) : (s.onCtx c f).cache = s.cache := rfl
@[simp] theorem State.onCtx_cmds (c : CtxId) (f : Ctx → Ctx) : (s.onCtx c f).cmds = s.cmds := rfl
@[simp] theorem State.onCtx_nextId (c : CtxId) (f : Ctx → Ctx) : (s.onCtx c f).nextId = s.nextId := rfl
@[simp] theorem State.onCtx_dev (c : CtxId) (f : Ctx → Ctx) : (s.onCtx c f).dev = s.dev := rfl
@[simp] theorem State.onCtx_host (c : CtxId) (f : Ctx → Ctx) : (s.onCtx c f).host = s.host := rfl
@[simp] theorem State.onCtx_peers (c : CtxId) (f : Ctx → Ctx) : (s.onCtx c f).peers = s.peers := rfl
@[simp] theorem State.onCtx_farCap (c : CtxId) (f : Ctx → Ctx) : (s.onCtx c f).farCap = s.farCap := rfl
@[simp] theorem State.onCtx_keys (c : CtxId) (f : Ctx → Ctx) : (s.onCtx c f).keys = s.keys := rfl
@[simp] theorem State.onCtx_chip (c : CtxId) (f : Ctx → Ctx) : (s.onCtx c f).chip = s.chip := rfl
@[simp] theorem State.onCtx_resmap (c : CtxId) (f : Ctx → Ctx) : (s.onCtx c f).resmap = s.resmap := rfl
@[simp] theorem State.onCtx_worldmap (c : CtxId) (f : Ctx → Ctx) : (s.onCtx c f).worldmap = s.worldmap := rfl
@[simp] theorem State.onCtx_regions (c : CtxId) (f : Ctx → Ctx) : (s.onCtx c f).regions = s.regions := rfl
@[simp] theorem State.onCtx_log (c : CtxId) (f : Ctx → Ctx) : (s.onCtx c f).log = s.log := rfl
@[simp] theorem State.onCtx_repwait (c : CtxId) (f : Ctx → Ctx) : (s.onCtx c f).repwait = s.repwait := rfl
@[simp] theorem State.onCtx_links (c : CtxId) (f : Ctx → Ctx) : (s.onCtx c f).links = s.links := rfl
@[simp] theorem State.onCtx_islands (c : CtxId) (f : Ctx → Ctx) : (s.onCtx c f).islands = s.islands := rfl
@[simp] theorem State.onCtx_sample (c : CtxId) (f : Ctx → Ctx) : (s.onCtx c f).sample = s.sample := rfl
@[simp] theorem State.onCtx_folkai (c : CtxId) (f : Ctx → Ctx) : (s.onCtx c f).folkai = s.folkai := rfl
@[simp] theorem State.onCtx_energy (c : CtxId) (f : Ctx → Ctx) : (s.onCtx c f).energy = s.energy := rfl
@[simp] theorem State.onCtx_telemetry (c : CtxId) (f : Ctx → Ctx) : (s.onCtx c f).telemetry = s.telemetry := rfl
@[simp] theorem State.onCtx_shadowTel (c : CtxId) (f : Ctx → Ctx) : (s.onCtx c f).shadowTel = s.shadowTel := rfl
@[simp] theorem State.onCtx_tsnap (c : CtxId) (f : Ctx → Ctx) : (s.onCtx c f).tsnap = s.tsnap := rfl
@[simp] theorem State.onCtx_boot (c : CtxId) (f : Ctx → Ctx) : (s.onCtx c f).boot = s.boot := rfl
@[simp] theorem State.onCtx_collSeq (c : CtxId) (f : Ctx → Ctx) : (s.onCtx c f).collSeq = s.collSeq := rfl
@[simp] theorem State.onCtx_taken (c : CtxId) (f : Ctx → Ctx) : (s.onCtx c f).taken = s.taken := rfl
@[simp] theorem State.onCtx_orphans (c : CtxId) (f : Ctx → Ctx) : (s.onCtx c f).orphans = s.orphans := rfl
@[simp] theorem State.onCtx_trails (c : CtxId) (f : Ctx → Ctx) : (s.onCtx c f).trails = s.trails := rfl
@[simp] theorem State.onCtx_agenda (c : CtxId) (f : Ctx → Ctx) : (s.onCtx c f).agenda = s.agenda := rfl
@[simp] theorem State.onCtx_out (c : CtxId) (f : Ctx → Ctx) : (s.onCtx c f).out = s.out := rfl
@[simp] theorem State.onCtx_cur (c : CtxId) (f : Ctx → Ctx) : (s.onCtx c f).cur = s.cur := rfl
@[simp] theorem State.onCtx_curStream (c : CtxId) (f : Ctx → Ctx) : (s.onCtx c f).curStream = s.curStream := rfl
@[simp] theorem State.onCtx_hdr (c : CtxId) (f : Ctx → Ctx) : (s.onCtx c f).hdr = s.hdr := rfl
@[simp] theorem State.onCtx_latch (c : CtxId) (f : Ctx → Ctx) : (s.onCtx c f).latch = s.latch := rfl
@[simp] theorem State.onCtx_checked (c : CtxId) (f : Ctx → Ctx) : (s.onCtx c f).checked = s.checked := rfl
@[simp] theorem State.onCtx_free (c : CtxId) (f : Ctx → Ctx) : (s.onCtx c f).free = s.free := rfl

/-! ### State.onMe -/

@[simp] theorem State.onMe_power (f : Ctx → Ctx) : (s.onMe f).power = s.power := rfl
@[simp] theorem State.onMe_saved (f : Ctx → Ctx) : (s.onMe f).saved = s.saved := rfl
@[simp] theorem State.onMe_cores (f : Ctx → Ctx) : (s.onMe f).cores = s.cores := rfl
@[simp] theorem State.onMe_groups (f : Ctx → Ctx) : (s.onMe f).groups = s.groups := rfl
@[simp] theorem State.onMe_stackTab (f : Ctx → Ctx) : (s.onMe f).stackTab = s.stackTab := rfl
@[simp] theorem State.onMe_rings (f : Ctx → Ctx) : (s.onMe f).rings = s.rings := rfl
@[simp] theorem State.onMe_windows (f : Ctx → Ctx) : (s.onMe f).windows = s.windows := rfl
@[simp] theorem State.onMe_barriers (f : Ctx → Ctx) : (s.onMe f).barriers = s.barriers := rfl
@[simp] theorem State.onMe_lathe0 (f : Ctx → Ctx) : (s.onMe f).lathe0 = s.lathe0 := rfl
@[simp] theorem State.onMe_lathe1 (f : Ctx → Ctx) : (s.onMe f).lathe1 = s.lathe1 := rfl
@[simp] theorem State.onMe_spaces (f : Ctx → Ctx) : (s.onMe f).spaces = s.spaces := rfl
@[simp] theorem State.onMe_cache (f : Ctx → Ctx) : (s.onMe f).cache = s.cache := rfl
@[simp] theorem State.onMe_cmds (f : Ctx → Ctx) : (s.onMe f).cmds = s.cmds := rfl
@[simp] theorem State.onMe_nextId (f : Ctx → Ctx) : (s.onMe f).nextId = s.nextId := rfl
@[simp] theorem State.onMe_dev (f : Ctx → Ctx) : (s.onMe f).dev = s.dev := rfl
@[simp] theorem State.onMe_host (f : Ctx → Ctx) : (s.onMe f).host = s.host := rfl
@[simp] theorem State.onMe_peers (f : Ctx → Ctx) : (s.onMe f).peers = s.peers := rfl
@[simp] theorem State.onMe_farCap (f : Ctx → Ctx) : (s.onMe f).farCap = s.farCap := rfl
@[simp] theorem State.onMe_keys (f : Ctx → Ctx) : (s.onMe f).keys = s.keys := rfl
@[simp] theorem State.onMe_chip (f : Ctx → Ctx) : (s.onMe f).chip = s.chip := rfl
@[simp] theorem State.onMe_resmap (f : Ctx → Ctx) : (s.onMe f).resmap = s.resmap := rfl
@[simp] theorem State.onMe_worldmap (f : Ctx → Ctx) : (s.onMe f).worldmap = s.worldmap := rfl
@[simp] theorem State.onMe_regions (f : Ctx → Ctx) : (s.onMe f).regions = s.regions := rfl
@[simp] theorem State.onMe_log (f : Ctx → Ctx) : (s.onMe f).log = s.log := rfl
@[simp] theorem State.onMe_repwait (f : Ctx → Ctx) : (s.onMe f).repwait = s.repwait := rfl
@[simp] theorem State.onMe_links (f : Ctx → Ctx) : (s.onMe f).links = s.links := rfl
@[simp] theorem State.onMe_islands (f : Ctx → Ctx) : (s.onMe f).islands = s.islands := rfl
@[simp] theorem State.onMe_sample (f : Ctx → Ctx) : (s.onMe f).sample = s.sample := rfl
@[simp] theorem State.onMe_folkai (f : Ctx → Ctx) : (s.onMe f).folkai = s.folkai := rfl
@[simp] theorem State.onMe_energy (f : Ctx → Ctx) : (s.onMe f).energy = s.energy := rfl
@[simp] theorem State.onMe_telemetry (f : Ctx → Ctx) : (s.onMe f).telemetry = s.telemetry := rfl
@[simp] theorem State.onMe_shadowTel (f : Ctx → Ctx) : (s.onMe f).shadowTel = s.shadowTel := rfl
@[simp] theorem State.onMe_tsnap (f : Ctx → Ctx) : (s.onMe f).tsnap = s.tsnap := rfl
@[simp] theorem State.onMe_boot (f : Ctx → Ctx) : (s.onMe f).boot = s.boot := rfl
@[simp] theorem State.onMe_collSeq (f : Ctx → Ctx) : (s.onMe f).collSeq = s.collSeq := rfl
@[simp] theorem State.onMe_taken (f : Ctx → Ctx) : (s.onMe f).taken = s.taken := rfl
@[simp] theorem State.onMe_orphans (f : Ctx → Ctx) : (s.onMe f).orphans = s.orphans := rfl
@[simp] theorem State.onMe_trails (f : Ctx → Ctx) : (s.onMe f).trails = s.trails := rfl
@[simp] theorem State.onMe_agenda (f : Ctx → Ctx) : (s.onMe f).agenda = s.agenda := rfl
@[simp] theorem State.onMe_out (f : Ctx → Ctx) : (s.onMe f).out = s.out := rfl
@[simp] theorem State.onMe_cur (f : Ctx → Ctx) : (s.onMe f).cur = s.cur := rfl
@[simp] theorem State.onMe_curStream (f : Ctx → Ctx) : (s.onMe f).curStream = s.curStream := rfl
@[simp] theorem State.onMe_hdr (f : Ctx → Ctx) : (s.onMe f).hdr = s.hdr := rfl
@[simp] theorem State.onMe_latch (f : Ctx → Ctx) : (s.onMe f).latch = s.latch := rfl
@[simp] theorem State.onMe_checked (f : Ctx → Ctx) : (s.onMe f).checked = s.checked := rfl
@[simp] theorem State.onMe_free (f : Ctx → Ctx) : (s.onMe f).free = s.free := rfl

/-! ### State.onCore -/

@[simp] theorem State.onCore_power (c : BitVec 16) (f : Core → Core) : (s.onCore c f).power = s.power := rfl
@[simp] theorem State.onCore_ctxs (c : BitVec 16) (f : Core → Core) : (s.onCore c f).ctxs = s.ctxs := rfl
@[simp] theorem State.onCore_saved (c : BitVec 16) (f : Core → Core) : (s.onCore c f).saved = s.saved := rfl
@[simp] theorem State.onCore_groups (c : BitVec 16) (f : Core → Core) : (s.onCore c f).groups = s.groups := rfl
@[simp] theorem State.onCore_stackTab (c : BitVec 16) (f : Core → Core) : (s.onCore c f).stackTab = s.stackTab := rfl
@[simp] theorem State.onCore_rings (c : BitVec 16) (f : Core → Core) : (s.onCore c f).rings = s.rings := rfl
@[simp] theorem State.onCore_windows (c : BitVec 16) (f : Core → Core) : (s.onCore c f).windows = s.windows := rfl
@[simp] theorem State.onCore_barriers (c : BitVec 16) (f : Core → Core) : (s.onCore c f).barriers = s.barriers := rfl
@[simp] theorem State.onCore_lathe0 (c : BitVec 16) (f : Core → Core) : (s.onCore c f).lathe0 = s.lathe0 := rfl
@[simp] theorem State.onCore_lathe1 (c : BitVec 16) (f : Core → Core) : (s.onCore c f).lathe1 = s.lathe1 := rfl
@[simp] theorem State.onCore_spaces (c : BitVec 16) (f : Core → Core) : (s.onCore c f).spaces = s.spaces := rfl
@[simp] theorem State.onCore_cache (c : BitVec 16) (f : Core → Core) : (s.onCore c f).cache = s.cache := rfl
@[simp] theorem State.onCore_cmds (c : BitVec 16) (f : Core → Core) : (s.onCore c f).cmds = s.cmds := rfl
@[simp] theorem State.onCore_nextId (c : BitVec 16) (f : Core → Core) : (s.onCore c f).nextId = s.nextId := rfl
@[simp] theorem State.onCore_dev (c : BitVec 16) (f : Core → Core) : (s.onCore c f).dev = s.dev := rfl
@[simp] theorem State.onCore_host (c : BitVec 16) (f : Core → Core) : (s.onCore c f).host = s.host := rfl
@[simp] theorem State.onCore_peers (c : BitVec 16) (f : Core → Core) : (s.onCore c f).peers = s.peers := rfl
@[simp] theorem State.onCore_farCap (c : BitVec 16) (f : Core → Core) : (s.onCore c f).farCap = s.farCap := rfl
@[simp] theorem State.onCore_keys (c : BitVec 16) (f : Core → Core) : (s.onCore c f).keys = s.keys := rfl
@[simp] theorem State.onCore_chip (c : BitVec 16) (f : Core → Core) : (s.onCore c f).chip = s.chip := rfl
@[simp] theorem State.onCore_resmap (c : BitVec 16) (f : Core → Core) : (s.onCore c f).resmap = s.resmap := rfl
@[simp] theorem State.onCore_worldmap (c : BitVec 16) (f : Core → Core) : (s.onCore c f).worldmap = s.worldmap := rfl
@[simp] theorem State.onCore_regions (c : BitVec 16) (f : Core → Core) : (s.onCore c f).regions = s.regions := rfl
@[simp] theorem State.onCore_log (c : BitVec 16) (f : Core → Core) : (s.onCore c f).log = s.log := rfl
@[simp] theorem State.onCore_repwait (c : BitVec 16) (f : Core → Core) : (s.onCore c f).repwait = s.repwait := rfl
@[simp] theorem State.onCore_links (c : BitVec 16) (f : Core → Core) : (s.onCore c f).links = s.links := rfl
@[simp] theorem State.onCore_islands (c : BitVec 16) (f : Core → Core) : (s.onCore c f).islands = s.islands := rfl
@[simp] theorem State.onCore_sample (c : BitVec 16) (f : Core → Core) : (s.onCore c f).sample = s.sample := rfl
@[simp] theorem State.onCore_folkai (c : BitVec 16) (f : Core → Core) : (s.onCore c f).folkai = s.folkai := rfl
@[simp] theorem State.onCore_energy (c : BitVec 16) (f : Core → Core) : (s.onCore c f).energy = s.energy := rfl
@[simp] theorem State.onCore_telemetry (c : BitVec 16) (f : Core → Core) : (s.onCore c f).telemetry = s.telemetry := rfl
@[simp] theorem State.onCore_shadowTel (c : BitVec 16) (f : Core → Core) : (s.onCore c f).shadowTel = s.shadowTel := rfl
@[simp] theorem State.onCore_tsnap (c : BitVec 16) (f : Core → Core) : (s.onCore c f).tsnap = s.tsnap := rfl
@[simp] theorem State.onCore_boot (c : BitVec 16) (f : Core → Core) : (s.onCore c f).boot = s.boot := rfl
@[simp] theorem State.onCore_collSeq (c : BitVec 16) (f : Core → Core) : (s.onCore c f).collSeq = s.collSeq := rfl
@[simp] theorem State.onCore_taken (c : BitVec 16) (f : Core → Core) : (s.onCore c f).taken = s.taken := rfl
@[simp] theorem State.onCore_orphans (c : BitVec 16) (f : Core → Core) : (s.onCore c f).orphans = s.orphans := rfl
@[simp] theorem State.onCore_trails (c : BitVec 16) (f : Core → Core) : (s.onCore c f).trails = s.trails := rfl
@[simp] theorem State.onCore_agenda (c : BitVec 16) (f : Core → Core) : (s.onCore c f).agenda = s.agenda := rfl
@[simp] theorem State.onCore_out (c : BitVec 16) (f : Core → Core) : (s.onCore c f).out = s.out := rfl
@[simp] theorem State.onCore_cur (c : BitVec 16) (f : Core → Core) : (s.onCore c f).cur = s.cur := rfl
@[simp] theorem State.onCore_curStream (c : BitVec 16) (f : Core → Core) : (s.onCore c f).curStream = s.curStream := rfl
@[simp] theorem State.onCore_hdr (c : BitVec 16) (f : Core → Core) : (s.onCore c f).hdr = s.hdr := rfl
@[simp] theorem State.onCore_latch (c : BitVec 16) (f : Core → Core) : (s.onCore c f).latch = s.latch := rfl
@[simp] theorem State.onCore_checked (c : BitVec 16) (f : Core → Core) : (s.onCore c f).checked = s.checked := rfl
@[simp] theorem State.onCore_free (c : BitVec 16) (f : Core → Core) : (s.onCore c f).free = s.free := rfl

/-! ### State.onGroup -/

@[simp] theorem State.onGroup_power (g : Nat) (f : Group → Group) : (s.onGroup g f).power = s.power := rfl
@[simp] theorem State.onGroup_ctxs (g : Nat) (f : Group → Group) : (s.onGroup g f).ctxs = s.ctxs := rfl
@[simp] theorem State.onGroup_saved (g : Nat) (f : Group → Group) : (s.onGroup g f).saved = s.saved := rfl
@[simp] theorem State.onGroup_cores (g : Nat) (f : Group → Group) : (s.onGroup g f).cores = s.cores := rfl
@[simp] theorem State.onGroup_stackTab (g : Nat) (f : Group → Group) : (s.onGroup g f).stackTab = s.stackTab := rfl
@[simp] theorem State.onGroup_rings (g : Nat) (f : Group → Group) : (s.onGroup g f).rings = s.rings := rfl
@[simp] theorem State.onGroup_windows (g : Nat) (f : Group → Group) : (s.onGroup g f).windows = s.windows := rfl
@[simp] theorem State.onGroup_barriers (g : Nat) (f : Group → Group) : (s.onGroup g f).barriers = s.barriers := rfl
@[simp] theorem State.onGroup_lathe0 (g : Nat) (f : Group → Group) : (s.onGroup g f).lathe0 = s.lathe0 := rfl
@[simp] theorem State.onGroup_lathe1 (g : Nat) (f : Group → Group) : (s.onGroup g f).lathe1 = s.lathe1 := rfl
@[simp] theorem State.onGroup_spaces (g : Nat) (f : Group → Group) : (s.onGroup g f).spaces = s.spaces := rfl
@[simp] theorem State.onGroup_cache (g : Nat) (f : Group → Group) : (s.onGroup g f).cache = s.cache := rfl
@[simp] theorem State.onGroup_cmds (g : Nat) (f : Group → Group) : (s.onGroup g f).cmds = s.cmds := rfl
@[simp] theorem State.onGroup_nextId (g : Nat) (f : Group → Group) : (s.onGroup g f).nextId = s.nextId := rfl
@[simp] theorem State.onGroup_dev (g : Nat) (f : Group → Group) : (s.onGroup g f).dev = s.dev := rfl
@[simp] theorem State.onGroup_host (g : Nat) (f : Group → Group) : (s.onGroup g f).host = s.host := rfl
@[simp] theorem State.onGroup_peers (g : Nat) (f : Group → Group) : (s.onGroup g f).peers = s.peers := rfl
@[simp] theorem State.onGroup_farCap (g : Nat) (f : Group → Group) : (s.onGroup g f).farCap = s.farCap := rfl
@[simp] theorem State.onGroup_keys (g : Nat) (f : Group → Group) : (s.onGroup g f).keys = s.keys := rfl
@[simp] theorem State.onGroup_chip (g : Nat) (f : Group → Group) : (s.onGroup g f).chip = s.chip := rfl
@[simp] theorem State.onGroup_resmap (g : Nat) (f : Group → Group) : (s.onGroup g f).resmap = s.resmap := rfl
@[simp] theorem State.onGroup_worldmap (g : Nat) (f : Group → Group) : (s.onGroup g f).worldmap = s.worldmap := rfl
@[simp] theorem State.onGroup_regions (g : Nat) (f : Group → Group) : (s.onGroup g f).regions = s.regions := rfl
@[simp] theorem State.onGroup_log (g : Nat) (f : Group → Group) : (s.onGroup g f).log = s.log := rfl
@[simp] theorem State.onGroup_repwait (g : Nat) (f : Group → Group) : (s.onGroup g f).repwait = s.repwait := rfl
@[simp] theorem State.onGroup_links (g : Nat) (f : Group → Group) : (s.onGroup g f).links = s.links := rfl
@[simp] theorem State.onGroup_islands (g : Nat) (f : Group → Group) : (s.onGroup g f).islands = s.islands := rfl
@[simp] theorem State.onGroup_sample (g : Nat) (f : Group → Group) : (s.onGroup g f).sample = s.sample := rfl
@[simp] theorem State.onGroup_folkai (g : Nat) (f : Group → Group) : (s.onGroup g f).folkai = s.folkai := rfl
@[simp] theorem State.onGroup_energy (g : Nat) (f : Group → Group) : (s.onGroup g f).energy = s.energy := rfl
@[simp] theorem State.onGroup_telemetry (g : Nat) (f : Group → Group) : (s.onGroup g f).telemetry = s.telemetry := rfl
@[simp] theorem State.onGroup_shadowTel (g : Nat) (f : Group → Group) : (s.onGroup g f).shadowTel = s.shadowTel := rfl
@[simp] theorem State.onGroup_tsnap (g : Nat) (f : Group → Group) : (s.onGroup g f).tsnap = s.tsnap := rfl
@[simp] theorem State.onGroup_boot (g : Nat) (f : Group → Group) : (s.onGroup g f).boot = s.boot := rfl
@[simp] theorem State.onGroup_collSeq (g : Nat) (f : Group → Group) : (s.onGroup g f).collSeq = s.collSeq := rfl
@[simp] theorem State.onGroup_taken (g : Nat) (f : Group → Group) : (s.onGroup g f).taken = s.taken := rfl
@[simp] theorem State.onGroup_orphans (g : Nat) (f : Group → Group) : (s.onGroup g f).orphans = s.orphans := rfl
@[simp] theorem State.onGroup_trails (g : Nat) (f : Group → Group) : (s.onGroup g f).trails = s.trails := rfl
@[simp] theorem State.onGroup_agenda (g : Nat) (f : Group → Group) : (s.onGroup g f).agenda = s.agenda := rfl
@[simp] theorem State.onGroup_out (g : Nat) (f : Group → Group) : (s.onGroup g f).out = s.out := rfl
@[simp] theorem State.onGroup_cur (g : Nat) (f : Group → Group) : (s.onGroup g f).cur = s.cur := rfl
@[simp] theorem State.onGroup_curStream (g : Nat) (f : Group → Group) : (s.onGroup g f).curStream = s.curStream := rfl
@[simp] theorem State.onGroup_hdr (g : Nat) (f : Group → Group) : (s.onGroup g f).hdr = s.hdr := rfl
@[simp] theorem State.onGroup_latch (g : Nat) (f : Group → Group) : (s.onGroup g f).latch = s.latch := rfl
@[simp] theorem State.onGroup_checked (g : Nat) (f : Group → Group) : (s.onGroup g f).checked = s.checked := rfl
@[simp] theorem State.onGroup_free (g : Nat) (f : Group → Group) : (s.onGroup g f).free = s.free := rfl

/-! ### State.onStack -/

@[simp] theorem State.onStack_power (n : Nat) (f : Stack → Stack) : (s.onStack n f).power = s.power := rfl
@[simp] theorem State.onStack_ctxs (n : Nat) (f : Stack → Stack) : (s.onStack n f).ctxs = s.ctxs := rfl
@[simp] theorem State.onStack_saved (n : Nat) (f : Stack → Stack) : (s.onStack n f).saved = s.saved := rfl
@[simp] theorem State.onStack_cores (n : Nat) (f : Stack → Stack) : (s.onStack n f).cores = s.cores := rfl
@[simp] theorem State.onStack_groups (n : Nat) (f : Stack → Stack) : (s.onStack n f).groups = s.groups := rfl
@[simp] theorem State.onStack_rings (n : Nat) (f : Stack → Stack) : (s.onStack n f).rings = s.rings := rfl
@[simp] theorem State.onStack_windows (n : Nat) (f : Stack → Stack) : (s.onStack n f).windows = s.windows := rfl
@[simp] theorem State.onStack_barriers (n : Nat) (f : Stack → Stack) : (s.onStack n f).barriers = s.barriers := rfl
@[simp] theorem State.onStack_lathe0 (n : Nat) (f : Stack → Stack) : (s.onStack n f).lathe0 = s.lathe0 := rfl
@[simp] theorem State.onStack_lathe1 (n : Nat) (f : Stack → Stack) : (s.onStack n f).lathe1 = s.lathe1 := rfl
@[simp] theorem State.onStack_spaces (n : Nat) (f : Stack → Stack) : (s.onStack n f).spaces = s.spaces := rfl
@[simp] theorem State.onStack_cache (n : Nat) (f : Stack → Stack) : (s.onStack n f).cache = s.cache := rfl
@[simp] theorem State.onStack_cmds (n : Nat) (f : Stack → Stack) : (s.onStack n f).cmds = s.cmds := rfl
@[simp] theorem State.onStack_nextId (n : Nat) (f : Stack → Stack) : (s.onStack n f).nextId = s.nextId := rfl
@[simp] theorem State.onStack_dev (n : Nat) (f : Stack → Stack) : (s.onStack n f).dev = s.dev := rfl
@[simp] theorem State.onStack_host (n : Nat) (f : Stack → Stack) : (s.onStack n f).host = s.host := rfl
@[simp] theorem State.onStack_peers (n : Nat) (f : Stack → Stack) : (s.onStack n f).peers = s.peers := rfl
@[simp] theorem State.onStack_farCap (n : Nat) (f : Stack → Stack) : (s.onStack n f).farCap = s.farCap := rfl
@[simp] theorem State.onStack_keys (n : Nat) (f : Stack → Stack) : (s.onStack n f).keys = s.keys := rfl
@[simp] theorem State.onStack_chip (n : Nat) (f : Stack → Stack) : (s.onStack n f).chip = s.chip := rfl
@[simp] theorem State.onStack_resmap (n : Nat) (f : Stack → Stack) : (s.onStack n f).resmap = s.resmap := rfl
@[simp] theorem State.onStack_worldmap (n : Nat) (f : Stack → Stack) : (s.onStack n f).worldmap = s.worldmap := rfl
@[simp] theorem State.onStack_regions (n : Nat) (f : Stack → Stack) : (s.onStack n f).regions = s.regions := rfl
@[simp] theorem State.onStack_log (n : Nat) (f : Stack → Stack) : (s.onStack n f).log = s.log := rfl
@[simp] theorem State.onStack_repwait (n : Nat) (f : Stack → Stack) : (s.onStack n f).repwait = s.repwait := rfl
@[simp] theorem State.onStack_links (n : Nat) (f : Stack → Stack) : (s.onStack n f).links = s.links := rfl
@[simp] theorem State.onStack_islands (n : Nat) (f : Stack → Stack) : (s.onStack n f).islands = s.islands := rfl
@[simp] theorem State.onStack_sample (n : Nat) (f : Stack → Stack) : (s.onStack n f).sample = s.sample := rfl
@[simp] theorem State.onStack_folkai (n : Nat) (f : Stack → Stack) : (s.onStack n f).folkai = s.folkai := rfl
@[simp] theorem State.onStack_energy (n : Nat) (f : Stack → Stack) : (s.onStack n f).energy = s.energy := rfl
@[simp] theorem State.onStack_telemetry (n : Nat) (f : Stack → Stack) : (s.onStack n f).telemetry = s.telemetry := rfl
@[simp] theorem State.onStack_shadowTel (n : Nat) (f : Stack → Stack) : (s.onStack n f).shadowTel = s.shadowTel := rfl
@[simp] theorem State.onStack_tsnap (n : Nat) (f : Stack → Stack) : (s.onStack n f).tsnap = s.tsnap := rfl
@[simp] theorem State.onStack_boot (n : Nat) (f : Stack → Stack) : (s.onStack n f).boot = s.boot := rfl
@[simp] theorem State.onStack_collSeq (n : Nat) (f : Stack → Stack) : (s.onStack n f).collSeq = s.collSeq := rfl
@[simp] theorem State.onStack_taken (n : Nat) (f : Stack → Stack) : (s.onStack n f).taken = s.taken := rfl
@[simp] theorem State.onStack_orphans (n : Nat) (f : Stack → Stack) : (s.onStack n f).orphans = s.orphans := rfl
@[simp] theorem State.onStack_trails (n : Nat) (f : Stack → Stack) : (s.onStack n f).trails = s.trails := rfl
@[simp] theorem State.onStack_agenda (n : Nat) (f : Stack → Stack) : (s.onStack n f).agenda = s.agenda := rfl
@[simp] theorem State.onStack_out (n : Nat) (f : Stack → Stack) : (s.onStack n f).out = s.out := rfl
@[simp] theorem State.onStack_cur (n : Nat) (f : Stack → Stack) : (s.onStack n f).cur = s.cur := rfl
@[simp] theorem State.onStack_curStream (n : Nat) (f : Stack → Stack) : (s.onStack n f).curStream = s.curStream := rfl
@[simp] theorem State.onStack_hdr (n : Nat) (f : Stack → Stack) : (s.onStack n f).hdr = s.hdr := rfl
@[simp] theorem State.onStack_latch (n : Nat) (f : Stack → Stack) : (s.onStack n f).latch = s.latch := rfl
@[simp] theorem State.onStack_checked (n : Nat) (f : Stack → Stack) : (s.onStack n f).checked = s.checked := rfl
@[simp] theorem State.onStack_free (n : Nat) (f : Stack → Stack) : (s.onStack n f).free = s.free := rfl

/-! ### State.onChannel -/

@[simp] theorem State.onChannel_power (st ch : Nat) (f : Channel → Channel) : (s.onChannel st ch f).power = s.power := rfl
@[simp] theorem State.onChannel_ctxs (st ch : Nat) (f : Channel → Channel) : (s.onChannel st ch f).ctxs = s.ctxs := rfl
@[simp] theorem State.onChannel_saved (st ch : Nat) (f : Channel → Channel) : (s.onChannel st ch f).saved = s.saved := rfl
@[simp] theorem State.onChannel_cores (st ch : Nat) (f : Channel → Channel) : (s.onChannel st ch f).cores = s.cores := rfl
@[simp] theorem State.onChannel_groups (st ch : Nat) (f : Channel → Channel) : (s.onChannel st ch f).groups = s.groups := rfl
@[simp] theorem State.onChannel_rings (st ch : Nat) (f : Channel → Channel) : (s.onChannel st ch f).rings = s.rings := rfl
@[simp] theorem State.onChannel_windows (st ch : Nat) (f : Channel → Channel) : (s.onChannel st ch f).windows = s.windows := rfl
@[simp] theorem State.onChannel_barriers (st ch : Nat) (f : Channel → Channel) : (s.onChannel st ch f).barriers = s.barriers := rfl
@[simp] theorem State.onChannel_lathe0 (st ch : Nat) (f : Channel → Channel) : (s.onChannel st ch f).lathe0 = s.lathe0 := rfl
@[simp] theorem State.onChannel_lathe1 (st ch : Nat) (f : Channel → Channel) : (s.onChannel st ch f).lathe1 = s.lathe1 := rfl
@[simp] theorem State.onChannel_spaces (st ch : Nat) (f : Channel → Channel) : (s.onChannel st ch f).spaces = s.spaces := rfl
@[simp] theorem State.onChannel_cache (st ch : Nat) (f : Channel → Channel) : (s.onChannel st ch f).cache = s.cache := rfl
@[simp] theorem State.onChannel_cmds (st ch : Nat) (f : Channel → Channel) : (s.onChannel st ch f).cmds = s.cmds := rfl
@[simp] theorem State.onChannel_nextId (st ch : Nat) (f : Channel → Channel) : (s.onChannel st ch f).nextId = s.nextId := rfl
@[simp] theorem State.onChannel_dev (st ch : Nat) (f : Channel → Channel) : (s.onChannel st ch f).dev = s.dev := rfl
@[simp] theorem State.onChannel_host (st ch : Nat) (f : Channel → Channel) : (s.onChannel st ch f).host = s.host := rfl
@[simp] theorem State.onChannel_peers (st ch : Nat) (f : Channel → Channel) : (s.onChannel st ch f).peers = s.peers := rfl
@[simp] theorem State.onChannel_farCap (st ch : Nat) (f : Channel → Channel) : (s.onChannel st ch f).farCap = s.farCap := rfl
@[simp] theorem State.onChannel_keys (st ch : Nat) (f : Channel → Channel) : (s.onChannel st ch f).keys = s.keys := rfl
@[simp] theorem State.onChannel_chip (st ch : Nat) (f : Channel → Channel) : (s.onChannel st ch f).chip = s.chip := rfl
@[simp] theorem State.onChannel_resmap (st ch : Nat) (f : Channel → Channel) : (s.onChannel st ch f).resmap = s.resmap := rfl
@[simp] theorem State.onChannel_worldmap (st ch : Nat) (f : Channel → Channel) : (s.onChannel st ch f).worldmap = s.worldmap := rfl
@[simp] theorem State.onChannel_regions (st ch : Nat) (f : Channel → Channel) : (s.onChannel st ch f).regions = s.regions := rfl
@[simp] theorem State.onChannel_log (st ch : Nat) (f : Channel → Channel) : (s.onChannel st ch f).log = s.log := rfl
@[simp] theorem State.onChannel_repwait (st ch : Nat) (f : Channel → Channel) : (s.onChannel st ch f).repwait = s.repwait := rfl
@[simp] theorem State.onChannel_links (st ch : Nat) (f : Channel → Channel) : (s.onChannel st ch f).links = s.links := rfl
@[simp] theorem State.onChannel_islands (st ch : Nat) (f : Channel → Channel) : (s.onChannel st ch f).islands = s.islands := rfl
@[simp] theorem State.onChannel_sample (st ch : Nat) (f : Channel → Channel) : (s.onChannel st ch f).sample = s.sample := rfl
@[simp] theorem State.onChannel_folkai (st ch : Nat) (f : Channel → Channel) : (s.onChannel st ch f).folkai = s.folkai := rfl
@[simp] theorem State.onChannel_energy (st ch : Nat) (f : Channel → Channel) : (s.onChannel st ch f).energy = s.energy := rfl
@[simp] theorem State.onChannel_telemetry (st ch : Nat) (f : Channel → Channel) : (s.onChannel st ch f).telemetry = s.telemetry := rfl
@[simp] theorem State.onChannel_shadowTel (st ch : Nat) (f : Channel → Channel) : (s.onChannel st ch f).shadowTel = s.shadowTel := rfl
@[simp] theorem State.onChannel_tsnap (st ch : Nat) (f : Channel → Channel) : (s.onChannel st ch f).tsnap = s.tsnap := rfl
@[simp] theorem State.onChannel_boot (st ch : Nat) (f : Channel → Channel) : (s.onChannel st ch f).boot = s.boot := rfl
@[simp] theorem State.onChannel_collSeq (st ch : Nat) (f : Channel → Channel) : (s.onChannel st ch f).collSeq = s.collSeq := rfl
@[simp] theorem State.onChannel_taken (st ch : Nat) (f : Channel → Channel) : (s.onChannel st ch f).taken = s.taken := rfl
@[simp] theorem State.onChannel_orphans (st ch : Nat) (f : Channel → Channel) : (s.onChannel st ch f).orphans = s.orphans := rfl
@[simp] theorem State.onChannel_trails (st ch : Nat) (f : Channel → Channel) : (s.onChannel st ch f).trails = s.trails := rfl
@[simp] theorem State.onChannel_agenda (st ch : Nat) (f : Channel → Channel) : (s.onChannel st ch f).agenda = s.agenda := rfl
@[simp] theorem State.onChannel_out (st ch : Nat) (f : Channel → Channel) : (s.onChannel st ch f).out = s.out := rfl
@[simp] theorem State.onChannel_cur (st ch : Nat) (f : Channel → Channel) : (s.onChannel st ch f).cur = s.cur := rfl
@[simp] theorem State.onChannel_curStream (st ch : Nat) (f : Channel → Channel) : (s.onChannel st ch f).curStream = s.curStream := rfl
@[simp] theorem State.onChannel_hdr (st ch : Nat) (f : Channel → Channel) : (s.onChannel st ch f).hdr = s.hdr := rfl
@[simp] theorem State.onChannel_latch (st ch : Nat) (f : Channel → Channel) : (s.onChannel st ch f).latch = s.latch := rfl
@[simp] theorem State.onChannel_checked (st ch : Nat) (f : Channel → Channel) : (s.onChannel st ch f).checked = s.checked := rfl
@[simp] theorem State.onChannel_free (st ch : Nat) (f : Channel → Channel) : (s.onChannel st ch f).free = s.free := rfl

/-! ### State.onRing -/

@[simp] theorem State.onRing_power (id : Nat) (f : Ring → Ring) : (s.onRing id f).power = s.power := rfl
@[simp] theorem State.onRing_ctxs (id : Nat) (f : Ring → Ring) : (s.onRing id f).ctxs = s.ctxs := rfl
@[simp] theorem State.onRing_saved (id : Nat) (f : Ring → Ring) : (s.onRing id f).saved = s.saved := rfl
@[simp] theorem State.onRing_cores (id : Nat) (f : Ring → Ring) : (s.onRing id f).cores = s.cores := rfl
@[simp] theorem State.onRing_groups (id : Nat) (f : Ring → Ring) : (s.onRing id f).groups = s.groups := rfl
@[simp] theorem State.onRing_stackTab (id : Nat) (f : Ring → Ring) : (s.onRing id f).stackTab = s.stackTab := rfl
@[simp] theorem State.onRing_windows (id : Nat) (f : Ring → Ring) : (s.onRing id f).windows = s.windows := rfl
@[simp] theorem State.onRing_barriers (id : Nat) (f : Ring → Ring) : (s.onRing id f).barriers = s.barriers := rfl
@[simp] theorem State.onRing_lathe0 (id : Nat) (f : Ring → Ring) : (s.onRing id f).lathe0 = s.lathe0 := rfl
@[simp] theorem State.onRing_lathe1 (id : Nat) (f : Ring → Ring) : (s.onRing id f).lathe1 = s.lathe1 := rfl
@[simp] theorem State.onRing_spaces (id : Nat) (f : Ring → Ring) : (s.onRing id f).spaces = s.spaces := rfl
@[simp] theorem State.onRing_cache (id : Nat) (f : Ring → Ring) : (s.onRing id f).cache = s.cache := rfl
@[simp] theorem State.onRing_cmds (id : Nat) (f : Ring → Ring) : (s.onRing id f).cmds = s.cmds := rfl
@[simp] theorem State.onRing_nextId (id : Nat) (f : Ring → Ring) : (s.onRing id f).nextId = s.nextId := rfl
@[simp] theorem State.onRing_dev (id : Nat) (f : Ring → Ring) : (s.onRing id f).dev = s.dev := rfl
@[simp] theorem State.onRing_host (id : Nat) (f : Ring → Ring) : (s.onRing id f).host = s.host := rfl
@[simp] theorem State.onRing_peers (id : Nat) (f : Ring → Ring) : (s.onRing id f).peers = s.peers := rfl
@[simp] theorem State.onRing_farCap (id : Nat) (f : Ring → Ring) : (s.onRing id f).farCap = s.farCap := rfl
@[simp] theorem State.onRing_keys (id : Nat) (f : Ring → Ring) : (s.onRing id f).keys = s.keys := rfl
@[simp] theorem State.onRing_chip (id : Nat) (f : Ring → Ring) : (s.onRing id f).chip = s.chip := rfl
@[simp] theorem State.onRing_resmap (id : Nat) (f : Ring → Ring) : (s.onRing id f).resmap = s.resmap := rfl
@[simp] theorem State.onRing_worldmap (id : Nat) (f : Ring → Ring) : (s.onRing id f).worldmap = s.worldmap := rfl
@[simp] theorem State.onRing_regions (id : Nat) (f : Ring → Ring) : (s.onRing id f).regions = s.regions := rfl
@[simp] theorem State.onRing_log (id : Nat) (f : Ring → Ring) : (s.onRing id f).log = s.log := rfl
@[simp] theorem State.onRing_repwait (id : Nat) (f : Ring → Ring) : (s.onRing id f).repwait = s.repwait := rfl
@[simp] theorem State.onRing_links (id : Nat) (f : Ring → Ring) : (s.onRing id f).links = s.links := rfl
@[simp] theorem State.onRing_islands (id : Nat) (f : Ring → Ring) : (s.onRing id f).islands = s.islands := rfl
@[simp] theorem State.onRing_sample (id : Nat) (f : Ring → Ring) : (s.onRing id f).sample = s.sample := rfl
@[simp] theorem State.onRing_folkai (id : Nat) (f : Ring → Ring) : (s.onRing id f).folkai = s.folkai := rfl
@[simp] theorem State.onRing_energy (id : Nat) (f : Ring → Ring) : (s.onRing id f).energy = s.energy := rfl
@[simp] theorem State.onRing_telemetry (id : Nat) (f : Ring → Ring) : (s.onRing id f).telemetry = s.telemetry := rfl
@[simp] theorem State.onRing_shadowTel (id : Nat) (f : Ring → Ring) : (s.onRing id f).shadowTel = s.shadowTel := rfl
@[simp] theorem State.onRing_tsnap (id : Nat) (f : Ring → Ring) : (s.onRing id f).tsnap = s.tsnap := rfl
@[simp] theorem State.onRing_boot (id : Nat) (f : Ring → Ring) : (s.onRing id f).boot = s.boot := rfl
@[simp] theorem State.onRing_collSeq (id : Nat) (f : Ring → Ring) : (s.onRing id f).collSeq = s.collSeq := rfl
@[simp] theorem State.onRing_taken (id : Nat) (f : Ring → Ring) : (s.onRing id f).taken = s.taken := rfl
@[simp] theorem State.onRing_orphans (id : Nat) (f : Ring → Ring) : (s.onRing id f).orphans = s.orphans := rfl
@[simp] theorem State.onRing_trails (id : Nat) (f : Ring → Ring) : (s.onRing id f).trails = s.trails := rfl
@[simp] theorem State.onRing_agenda (id : Nat) (f : Ring → Ring) : (s.onRing id f).agenda = s.agenda := rfl
@[simp] theorem State.onRing_out (id : Nat) (f : Ring → Ring) : (s.onRing id f).out = s.out := rfl
@[simp] theorem State.onRing_cur (id : Nat) (f : Ring → Ring) : (s.onRing id f).cur = s.cur := rfl
@[simp] theorem State.onRing_curStream (id : Nat) (f : Ring → Ring) : (s.onRing id f).curStream = s.curStream := rfl
@[simp] theorem State.onRing_hdr (id : Nat) (f : Ring → Ring) : (s.onRing id f).hdr = s.hdr := rfl
@[simp] theorem State.onRing_latch (id : Nat) (f : Ring → Ring) : (s.onRing id f).latch = s.latch := rfl
@[simp] theorem State.onRing_checked (id : Nat) (f : Ring → Ring) : (s.onRing id f).checked = s.checked := rfl
@[simp] theorem State.onRing_free (id : Nat) (f : Ring → Ring) : (s.onRing id f).free = s.free := rfl

/-! ### State.onSpace -/

@[simp] theorem State.onSpace_power (a : BitVec 11) (f : AddrSpace → AddrSpace) : (s.onSpace a f).power = s.power := rfl
@[simp] theorem State.onSpace_ctxs (a : BitVec 11) (f : AddrSpace → AddrSpace) : (s.onSpace a f).ctxs = s.ctxs := rfl
@[simp] theorem State.onSpace_saved (a : BitVec 11) (f : AddrSpace → AddrSpace) : (s.onSpace a f).saved = s.saved := rfl
@[simp] theorem State.onSpace_cores (a : BitVec 11) (f : AddrSpace → AddrSpace) : (s.onSpace a f).cores = s.cores := rfl
@[simp] theorem State.onSpace_groups (a : BitVec 11) (f : AddrSpace → AddrSpace) : (s.onSpace a f).groups = s.groups := rfl
@[simp] theorem State.onSpace_stackTab (a : BitVec 11) (f : AddrSpace → AddrSpace) : (s.onSpace a f).stackTab = s.stackTab := rfl
@[simp] theorem State.onSpace_rings (a : BitVec 11) (f : AddrSpace → AddrSpace) : (s.onSpace a f).rings = s.rings := rfl
@[simp] theorem State.onSpace_windows (a : BitVec 11) (f : AddrSpace → AddrSpace) : (s.onSpace a f).windows = s.windows := rfl
@[simp] theorem State.onSpace_barriers (a : BitVec 11) (f : AddrSpace → AddrSpace) : (s.onSpace a f).barriers = s.barriers := rfl
@[simp] theorem State.onSpace_lathe0 (a : BitVec 11) (f : AddrSpace → AddrSpace) : (s.onSpace a f).lathe0 = s.lathe0 := rfl
@[simp] theorem State.onSpace_lathe1 (a : BitVec 11) (f : AddrSpace → AddrSpace) : (s.onSpace a f).lathe1 = s.lathe1 := rfl
@[simp] theorem State.onSpace_cache (a : BitVec 11) (f : AddrSpace → AddrSpace) : (s.onSpace a f).cache = s.cache := rfl
@[simp] theorem State.onSpace_cmds (a : BitVec 11) (f : AddrSpace → AddrSpace) : (s.onSpace a f).cmds = s.cmds := rfl
@[simp] theorem State.onSpace_nextId (a : BitVec 11) (f : AddrSpace → AddrSpace) : (s.onSpace a f).nextId = s.nextId := rfl
@[simp] theorem State.onSpace_dev (a : BitVec 11) (f : AddrSpace → AddrSpace) : (s.onSpace a f).dev = s.dev := rfl
@[simp] theorem State.onSpace_host (a : BitVec 11) (f : AddrSpace → AddrSpace) : (s.onSpace a f).host = s.host := rfl
@[simp] theorem State.onSpace_peers (a : BitVec 11) (f : AddrSpace → AddrSpace) : (s.onSpace a f).peers = s.peers := rfl
@[simp] theorem State.onSpace_farCap (a : BitVec 11) (f : AddrSpace → AddrSpace) : (s.onSpace a f).farCap = s.farCap := rfl
@[simp] theorem State.onSpace_keys (a : BitVec 11) (f : AddrSpace → AddrSpace) : (s.onSpace a f).keys = s.keys := rfl
@[simp] theorem State.onSpace_chip (a : BitVec 11) (f : AddrSpace → AddrSpace) : (s.onSpace a f).chip = s.chip := rfl
@[simp] theorem State.onSpace_resmap (a : BitVec 11) (f : AddrSpace → AddrSpace) : (s.onSpace a f).resmap = s.resmap := rfl
@[simp] theorem State.onSpace_worldmap (a : BitVec 11) (f : AddrSpace → AddrSpace) : (s.onSpace a f).worldmap = s.worldmap := rfl
@[simp] theorem State.onSpace_regions (a : BitVec 11) (f : AddrSpace → AddrSpace) : (s.onSpace a f).regions = s.regions := rfl
@[simp] theorem State.onSpace_log (a : BitVec 11) (f : AddrSpace → AddrSpace) : (s.onSpace a f).log = s.log := rfl
@[simp] theorem State.onSpace_repwait (a : BitVec 11) (f : AddrSpace → AddrSpace) : (s.onSpace a f).repwait = s.repwait := rfl
@[simp] theorem State.onSpace_links (a : BitVec 11) (f : AddrSpace → AddrSpace) : (s.onSpace a f).links = s.links := rfl
@[simp] theorem State.onSpace_islands (a : BitVec 11) (f : AddrSpace → AddrSpace) : (s.onSpace a f).islands = s.islands := rfl
@[simp] theorem State.onSpace_sample (a : BitVec 11) (f : AddrSpace → AddrSpace) : (s.onSpace a f).sample = s.sample := rfl
@[simp] theorem State.onSpace_folkai (a : BitVec 11) (f : AddrSpace → AddrSpace) : (s.onSpace a f).folkai = s.folkai := rfl
@[simp] theorem State.onSpace_energy (a : BitVec 11) (f : AddrSpace → AddrSpace) : (s.onSpace a f).energy = s.energy := rfl
@[simp] theorem State.onSpace_telemetry (a : BitVec 11) (f : AddrSpace → AddrSpace) : (s.onSpace a f).telemetry = s.telemetry := rfl
@[simp] theorem State.onSpace_shadowTel (a : BitVec 11) (f : AddrSpace → AddrSpace) : (s.onSpace a f).shadowTel = s.shadowTel := rfl
@[simp] theorem State.onSpace_tsnap (a : BitVec 11) (f : AddrSpace → AddrSpace) : (s.onSpace a f).tsnap = s.tsnap := rfl
@[simp] theorem State.onSpace_boot (a : BitVec 11) (f : AddrSpace → AddrSpace) : (s.onSpace a f).boot = s.boot := rfl
@[simp] theorem State.onSpace_collSeq (a : BitVec 11) (f : AddrSpace → AddrSpace) : (s.onSpace a f).collSeq = s.collSeq := rfl
@[simp] theorem State.onSpace_taken (a : BitVec 11) (f : AddrSpace → AddrSpace) : (s.onSpace a f).taken = s.taken := rfl
@[simp] theorem State.onSpace_orphans (a : BitVec 11) (f : AddrSpace → AddrSpace) : (s.onSpace a f).orphans = s.orphans := rfl
@[simp] theorem State.onSpace_trails (a : BitVec 11) (f : AddrSpace → AddrSpace) : (s.onSpace a f).trails = s.trails := rfl
@[simp] theorem State.onSpace_agenda (a : BitVec 11) (f : AddrSpace → AddrSpace) : (s.onSpace a f).agenda = s.agenda := rfl
@[simp] theorem State.onSpace_out (a : BitVec 11) (f : AddrSpace → AddrSpace) : (s.onSpace a f).out = s.out := rfl
@[simp] theorem State.onSpace_cur (a : BitVec 11) (f : AddrSpace → AddrSpace) : (s.onSpace a f).cur = s.cur := rfl
@[simp] theorem State.onSpace_curStream (a : BitVec 11) (f : AddrSpace → AddrSpace) : (s.onSpace a f).curStream = s.curStream := rfl
@[simp] theorem State.onSpace_hdr (a : BitVec 11) (f : AddrSpace → AddrSpace) : (s.onSpace a f).hdr = s.hdr := rfl
@[simp] theorem State.onSpace_latch (a : BitVec 11) (f : AddrSpace → AddrSpace) : (s.onSpace a f).latch = s.latch := rfl
@[simp] theorem State.onSpace_checked (a : BitVec 11) (f : AddrSpace → AddrSpace) : (s.onSpace a f).checked = s.checked := rfl
@[simp] theorem State.onSpace_free (a : BitVec 11) (f : AddrSpace → AddrSpace) : (s.onSpace a f).free = s.free := rfl

/-! ### State.tally -/

@[simp] theorem State.tally_power (o n : Nat) : (s.tally o n).power = s.power := rfl
@[simp] theorem State.tally_ctxs (o n : Nat) : (s.tally o n).ctxs = s.ctxs := rfl
@[simp] theorem State.tally_saved (o n : Nat) : (s.tally o n).saved = s.saved := rfl
@[simp] theorem State.tally_cores (o n : Nat) : (s.tally o n).cores = s.cores := rfl
@[simp] theorem State.tally_groups (o n : Nat) : (s.tally o n).groups = s.groups := rfl
@[simp] theorem State.tally_stackTab (o n : Nat) : (s.tally o n).stackTab = s.stackTab := rfl
@[simp] theorem State.tally_rings (o n : Nat) : (s.tally o n).rings = s.rings := rfl
@[simp] theorem State.tally_windows (o n : Nat) : (s.tally o n).windows = s.windows := rfl
@[simp] theorem State.tally_barriers (o n : Nat) : (s.tally o n).barriers = s.barriers := rfl
@[simp] theorem State.tally_lathe0 (o n : Nat) : (s.tally o n).lathe0 = s.lathe0 := rfl
@[simp] theorem State.tally_lathe1 (o n : Nat) : (s.tally o n).lathe1 = s.lathe1 := rfl
@[simp] theorem State.tally_spaces (o n : Nat) : (s.tally o n).spaces = s.spaces := rfl
@[simp] theorem State.tally_cache (o n : Nat) : (s.tally o n).cache = s.cache := rfl
@[simp] theorem State.tally_cmds (o n : Nat) : (s.tally o n).cmds = s.cmds := rfl
@[simp] theorem State.tally_nextId (o n : Nat) : (s.tally o n).nextId = s.nextId := rfl
@[simp] theorem State.tally_dev (o n : Nat) : (s.tally o n).dev = s.dev := rfl
@[simp] theorem State.tally_host (o n : Nat) : (s.tally o n).host = s.host := rfl
@[simp] theorem State.tally_peers (o n : Nat) : (s.tally o n).peers = s.peers := rfl
@[simp] theorem State.tally_farCap (o n : Nat) : (s.tally o n).farCap = s.farCap := rfl
@[simp] theorem State.tally_keys (o n : Nat) : (s.tally o n).keys = s.keys := rfl
@[simp] theorem State.tally_chip (o n : Nat) : (s.tally o n).chip = s.chip := rfl
@[simp] theorem State.tally_resmap (o n : Nat) : (s.tally o n).resmap = s.resmap := rfl
@[simp] theorem State.tally_worldmap (o n : Nat) : (s.tally o n).worldmap = s.worldmap := rfl
@[simp] theorem State.tally_regions (o n : Nat) : (s.tally o n).regions = s.regions := rfl
@[simp] theorem State.tally_log (o n : Nat) : (s.tally o n).log = s.log := rfl
@[simp] theorem State.tally_repwait (o n : Nat) : (s.tally o n).repwait = s.repwait := rfl
@[simp] theorem State.tally_links (o n : Nat) : (s.tally o n).links = s.links := rfl
@[simp] theorem State.tally_islands (o n : Nat) : (s.tally o n).islands = s.islands := rfl
@[simp] theorem State.tally_sample (o n : Nat) : (s.tally o n).sample = s.sample := rfl
@[simp] theorem State.tally_folkai (o n : Nat) : (s.tally o n).folkai = s.folkai := rfl
@[simp] theorem State.tally_energy (o n : Nat) : (s.tally o n).energy = s.energy := rfl
@[simp] theorem State.tally_shadowTel (o n : Nat) : (s.tally o n).shadowTel = s.shadowTel := rfl
@[simp] theorem State.tally_tsnap (o n : Nat) : (s.tally o n).tsnap = s.tsnap := rfl
@[simp] theorem State.tally_boot (o n : Nat) : (s.tally o n).boot = s.boot := rfl
@[simp] theorem State.tally_collSeq (o n : Nat) : (s.tally o n).collSeq = s.collSeq := rfl
@[simp] theorem State.tally_taken (o n : Nat) : (s.tally o n).taken = s.taken := rfl
@[simp] theorem State.tally_orphans (o n : Nat) : (s.tally o n).orphans = s.orphans := rfl
@[simp] theorem State.tally_trails (o n : Nat) : (s.tally o n).trails = s.trails := rfl
@[simp] theorem State.tally_agenda (o n : Nat) : (s.tally o n).agenda = s.agenda := rfl
@[simp] theorem State.tally_out (o n : Nat) : (s.tally o n).out = s.out := rfl
@[simp] theorem State.tally_cur (o n : Nat) : (s.tally o n).cur = s.cur := rfl
@[simp] theorem State.tally_curStream (o n : Nat) : (s.tally o n).curStream = s.curStream := rfl
@[simp] theorem State.tally_hdr (o n : Nat) : (s.tally o n).hdr = s.hdr := rfl
@[simp] theorem State.tally_latch (o n : Nat) : (s.tally o n).latch = s.latch := rfl
@[simp] theorem State.tally_checked (o n : Nat) : (s.tally o n).checked = s.checked := rfl
@[simp] theorem State.tally_free (o n : Nat) : (s.tally o n).free = s.free := rfl

/-! ### State.emit -/

@[simp] theorem State.emit_power (o : Output) : (s.emit o).power = s.power := rfl
@[simp] theorem State.emit_ctxs (o : Output) : (s.emit o).ctxs = s.ctxs := rfl
@[simp] theorem State.emit_saved (o : Output) : (s.emit o).saved = s.saved := rfl
@[simp] theorem State.emit_cores (o : Output) : (s.emit o).cores = s.cores := rfl
@[simp] theorem State.emit_groups (o : Output) : (s.emit o).groups = s.groups := rfl
@[simp] theorem State.emit_stackTab (o : Output) : (s.emit o).stackTab = s.stackTab := rfl
@[simp] theorem State.emit_rings (o : Output) : (s.emit o).rings = s.rings := rfl
@[simp] theorem State.emit_windows (o : Output) : (s.emit o).windows = s.windows := rfl
@[simp] theorem State.emit_barriers (o : Output) : (s.emit o).barriers = s.barriers := rfl
@[simp] theorem State.emit_lathe0 (o : Output) : (s.emit o).lathe0 = s.lathe0 := rfl
@[simp] theorem State.emit_lathe1 (o : Output) : (s.emit o).lathe1 = s.lathe1 := rfl
@[simp] theorem State.emit_spaces (o : Output) : (s.emit o).spaces = s.spaces := rfl
@[simp] theorem State.emit_cache (o : Output) : (s.emit o).cache = s.cache := rfl
@[simp] theorem State.emit_cmds (o : Output) : (s.emit o).cmds = s.cmds := rfl
@[simp] theorem State.emit_nextId (o : Output) : (s.emit o).nextId = s.nextId := rfl
@[simp] theorem State.emit_dev (o : Output) : (s.emit o).dev = s.dev := rfl
@[simp] theorem State.emit_host (o : Output) : (s.emit o).host = s.host := rfl
@[simp] theorem State.emit_peers (o : Output) : (s.emit o).peers = s.peers := rfl
@[simp] theorem State.emit_farCap (o : Output) : (s.emit o).farCap = s.farCap := rfl
@[simp] theorem State.emit_keys (o : Output) : (s.emit o).keys = s.keys := rfl
@[simp] theorem State.emit_chip (o : Output) : (s.emit o).chip = s.chip := rfl
@[simp] theorem State.emit_resmap (o : Output) : (s.emit o).resmap = s.resmap := rfl
@[simp] theorem State.emit_worldmap (o : Output) : (s.emit o).worldmap = s.worldmap := rfl
@[simp] theorem State.emit_regions (o : Output) : (s.emit o).regions = s.regions := rfl
@[simp] theorem State.emit_log (o : Output) : (s.emit o).log = s.log := rfl
@[simp] theorem State.emit_repwait (o : Output) : (s.emit o).repwait = s.repwait := rfl
@[simp] theorem State.emit_links (o : Output) : (s.emit o).links = s.links := rfl
@[simp] theorem State.emit_islands (o : Output) : (s.emit o).islands = s.islands := rfl
@[simp] theorem State.emit_sample (o : Output) : (s.emit o).sample = s.sample := rfl
@[simp] theorem State.emit_folkai (o : Output) : (s.emit o).folkai = s.folkai := rfl
@[simp] theorem State.emit_energy (o : Output) : (s.emit o).energy = s.energy := rfl
@[simp] theorem State.emit_telemetry (o : Output) : (s.emit o).telemetry = s.telemetry := rfl
@[simp] theorem State.emit_shadowTel (o : Output) : (s.emit o).shadowTel = s.shadowTel := rfl
@[simp] theorem State.emit_tsnap (o : Output) : (s.emit o).tsnap = s.tsnap := rfl
@[simp] theorem State.emit_boot (o : Output) : (s.emit o).boot = s.boot := rfl
@[simp] theorem State.emit_collSeq (o : Output) : (s.emit o).collSeq = s.collSeq := rfl
@[simp] theorem State.emit_taken (o : Output) : (s.emit o).taken = s.taken := rfl
@[simp] theorem State.emit_orphans (o : Output) : (s.emit o).orphans = s.orphans := rfl
@[simp] theorem State.emit_trails (o : Output) : (s.emit o).trails = s.trails := rfl
@[simp] theorem State.emit_agenda (o : Output) : (s.emit o).agenda = s.agenda := rfl
@[simp] theorem State.emit_cur (o : Output) : (s.emit o).cur = s.cur := rfl
@[simp] theorem State.emit_curStream (o : Output) : (s.emit o).curStream = s.curStream := rfl
@[simp] theorem State.emit_hdr (o : Output) : (s.emit o).hdr = s.hdr := rfl
@[simp] theorem State.emit_latch (o : Output) : (s.emit o).latch = s.latch := rfl
@[simp] theorem State.emit_checked (o : Output) : (s.emit o).checked = s.checked := rfl
@[simp] theorem State.emit_free (o : Output) : (s.emit o).free = s.free := rfl

/-! ### State.onLinks -/

@[simp] theorem State.onLinks_power (f : Links → Links) : (s.onLinks f).power = s.power := rfl
@[simp] theorem State.onLinks_ctxs (f : Links → Links) : (s.onLinks f).ctxs = s.ctxs := rfl
@[simp] theorem State.onLinks_saved (f : Links → Links) : (s.onLinks f).saved = s.saved := rfl
@[simp] theorem State.onLinks_cores (f : Links → Links) : (s.onLinks f).cores = s.cores := rfl
@[simp] theorem State.onLinks_groups (f : Links → Links) : (s.onLinks f).groups = s.groups := rfl
@[simp] theorem State.onLinks_stackTab (f : Links → Links) : (s.onLinks f).stackTab = s.stackTab := rfl
@[simp] theorem State.onLinks_rings (f : Links → Links) : (s.onLinks f).rings = s.rings := rfl
@[simp] theorem State.onLinks_windows (f : Links → Links) : (s.onLinks f).windows = s.windows := rfl
@[simp] theorem State.onLinks_barriers (f : Links → Links) : (s.onLinks f).barriers = s.barriers := rfl
@[simp] theorem State.onLinks_lathe0 (f : Links → Links) : (s.onLinks f).lathe0 = s.lathe0 := rfl
@[simp] theorem State.onLinks_lathe1 (f : Links → Links) : (s.onLinks f).lathe1 = s.lathe1 := rfl
@[simp] theorem State.onLinks_spaces (f : Links → Links) : (s.onLinks f).spaces = s.spaces := rfl
@[simp] theorem State.onLinks_cache (f : Links → Links) : (s.onLinks f).cache = s.cache := rfl
@[simp] theorem State.onLinks_cmds (f : Links → Links) : (s.onLinks f).cmds = s.cmds := rfl
@[simp] theorem State.onLinks_nextId (f : Links → Links) : (s.onLinks f).nextId = s.nextId := rfl
@[simp] theorem State.onLinks_dev (f : Links → Links) : (s.onLinks f).dev = s.dev := rfl
@[simp] theorem State.onLinks_host (f : Links → Links) : (s.onLinks f).host = s.host := rfl
@[simp] theorem State.onLinks_peers (f : Links → Links) : (s.onLinks f).peers = s.peers := rfl
@[simp] theorem State.onLinks_farCap (f : Links → Links) : (s.onLinks f).farCap = s.farCap := rfl
@[simp] theorem State.onLinks_keys (f : Links → Links) : (s.onLinks f).keys = s.keys := rfl
@[simp] theorem State.onLinks_chip (f : Links → Links) : (s.onLinks f).chip = s.chip := rfl
@[simp] theorem State.onLinks_resmap (f : Links → Links) : (s.onLinks f).resmap = s.resmap := rfl
@[simp] theorem State.onLinks_worldmap (f : Links → Links) : (s.onLinks f).worldmap = s.worldmap := rfl
@[simp] theorem State.onLinks_regions (f : Links → Links) : (s.onLinks f).regions = s.regions := rfl
@[simp] theorem State.onLinks_log (f : Links → Links) : (s.onLinks f).log = s.log := rfl
@[simp] theorem State.onLinks_repwait (f : Links → Links) : (s.onLinks f).repwait = s.repwait := rfl
@[simp] theorem State.onLinks_islands (f : Links → Links) : (s.onLinks f).islands = s.islands := rfl
@[simp] theorem State.onLinks_sample (f : Links → Links) : (s.onLinks f).sample = s.sample := rfl
@[simp] theorem State.onLinks_folkai (f : Links → Links) : (s.onLinks f).folkai = s.folkai := rfl
@[simp] theorem State.onLinks_energy (f : Links → Links) : (s.onLinks f).energy = s.energy := rfl
@[simp] theorem State.onLinks_telemetry (f : Links → Links) : (s.onLinks f).telemetry = s.telemetry := rfl
@[simp] theorem State.onLinks_shadowTel (f : Links → Links) : (s.onLinks f).shadowTel = s.shadowTel := rfl
@[simp] theorem State.onLinks_tsnap (f : Links → Links) : (s.onLinks f).tsnap = s.tsnap := rfl
@[simp] theorem State.onLinks_boot (f : Links → Links) : (s.onLinks f).boot = s.boot := rfl
@[simp] theorem State.onLinks_collSeq (f : Links → Links) : (s.onLinks f).collSeq = s.collSeq := rfl
@[simp] theorem State.onLinks_taken (f : Links → Links) : (s.onLinks f).taken = s.taken := rfl
@[simp] theorem State.onLinks_orphans (f : Links → Links) : (s.onLinks f).orphans = s.orphans := rfl
@[simp] theorem State.onLinks_trails (f : Links → Links) : (s.onLinks f).trails = s.trails := rfl
@[simp] theorem State.onLinks_agenda (f : Links → Links) : (s.onLinks f).agenda = s.agenda := rfl
@[simp] theorem State.onLinks_out (f : Links → Links) : (s.onLinks f).out = s.out := rfl
@[simp] theorem State.onLinks_cur (f : Links → Links) : (s.onLinks f).cur = s.cur := rfl
@[simp] theorem State.onLinks_curStream (f : Links → Links) : (s.onLinks f).curStream = s.curStream := rfl
@[simp] theorem State.onLinks_hdr (f : Links → Links) : (s.onLinks f).hdr = s.hdr := rfl
@[simp] theorem State.onLinks_latch (f : Links → Links) : (s.onLinks f).latch = s.latch := rfl
@[simp] theorem State.onLinks_checked (f : Links → Links) : (s.onLinks f).checked = s.checked := rfl
@[simp] theorem State.onLinks_free (f : Links → Links) : (s.onLinks f).free = s.free := rfl

/-! ### State.onPort -/

@[simp] theorem State.onPort_power (n : Nat) (f : Port → Port) : (s.onPort n f).power = s.power := rfl
@[simp] theorem State.onPort_ctxs (n : Nat) (f : Port → Port) : (s.onPort n f).ctxs = s.ctxs := rfl
@[simp] theorem State.onPort_saved (n : Nat) (f : Port → Port) : (s.onPort n f).saved = s.saved := rfl
@[simp] theorem State.onPort_cores (n : Nat) (f : Port → Port) : (s.onPort n f).cores = s.cores := rfl
@[simp] theorem State.onPort_groups (n : Nat) (f : Port → Port) : (s.onPort n f).groups = s.groups := rfl
@[simp] theorem State.onPort_stackTab (n : Nat) (f : Port → Port) : (s.onPort n f).stackTab = s.stackTab := rfl
@[simp] theorem State.onPort_rings (n : Nat) (f : Port → Port) : (s.onPort n f).rings = s.rings := rfl
@[simp] theorem State.onPort_windows (n : Nat) (f : Port → Port) : (s.onPort n f).windows = s.windows := rfl
@[simp] theorem State.onPort_barriers (n : Nat) (f : Port → Port) : (s.onPort n f).barriers = s.barriers := rfl
@[simp] theorem State.onPort_lathe0 (n : Nat) (f : Port → Port) : (s.onPort n f).lathe0 = s.lathe0 := rfl
@[simp] theorem State.onPort_lathe1 (n : Nat) (f : Port → Port) : (s.onPort n f).lathe1 = s.lathe1 := rfl
@[simp] theorem State.onPort_spaces (n : Nat) (f : Port → Port) : (s.onPort n f).spaces = s.spaces := rfl
@[simp] theorem State.onPort_cache (n : Nat) (f : Port → Port) : (s.onPort n f).cache = s.cache := rfl
@[simp] theorem State.onPort_cmds (n : Nat) (f : Port → Port) : (s.onPort n f).cmds = s.cmds := rfl
@[simp] theorem State.onPort_nextId (n : Nat) (f : Port → Port) : (s.onPort n f).nextId = s.nextId := rfl
@[simp] theorem State.onPort_dev (n : Nat) (f : Port → Port) : (s.onPort n f).dev = s.dev := rfl
@[simp] theorem State.onPort_host (n : Nat) (f : Port → Port) : (s.onPort n f).host = s.host := rfl
@[simp] theorem State.onPort_peers (n : Nat) (f : Port → Port) : (s.onPort n f).peers = s.peers := rfl
@[simp] theorem State.onPort_farCap (n : Nat) (f : Port → Port) : (s.onPort n f).farCap = s.farCap := rfl
@[simp] theorem State.onPort_keys (n : Nat) (f : Port → Port) : (s.onPort n f).keys = s.keys := rfl
@[simp] theorem State.onPort_chip (n : Nat) (f : Port → Port) : (s.onPort n f).chip = s.chip := rfl
@[simp] theorem State.onPort_resmap (n : Nat) (f : Port → Port) : (s.onPort n f).resmap = s.resmap := rfl
@[simp] theorem State.onPort_worldmap (n : Nat) (f : Port → Port) : (s.onPort n f).worldmap = s.worldmap := rfl
@[simp] theorem State.onPort_regions (n : Nat) (f : Port → Port) : (s.onPort n f).regions = s.regions := rfl
@[simp] theorem State.onPort_log (n : Nat) (f : Port → Port) : (s.onPort n f).log = s.log := rfl
@[simp] theorem State.onPort_repwait (n : Nat) (f : Port → Port) : (s.onPort n f).repwait = s.repwait := rfl
@[simp] theorem State.onPort_islands (n : Nat) (f : Port → Port) : (s.onPort n f).islands = s.islands := rfl
@[simp] theorem State.onPort_sample (n : Nat) (f : Port → Port) : (s.onPort n f).sample = s.sample := rfl
@[simp] theorem State.onPort_folkai (n : Nat) (f : Port → Port) : (s.onPort n f).folkai = s.folkai := rfl
@[simp] theorem State.onPort_energy (n : Nat) (f : Port → Port) : (s.onPort n f).energy = s.energy := rfl
@[simp] theorem State.onPort_telemetry (n : Nat) (f : Port → Port) : (s.onPort n f).telemetry = s.telemetry := rfl
@[simp] theorem State.onPort_shadowTel (n : Nat) (f : Port → Port) : (s.onPort n f).shadowTel = s.shadowTel := rfl
@[simp] theorem State.onPort_tsnap (n : Nat) (f : Port → Port) : (s.onPort n f).tsnap = s.tsnap := rfl
@[simp] theorem State.onPort_boot (n : Nat) (f : Port → Port) : (s.onPort n f).boot = s.boot := rfl
@[simp] theorem State.onPort_collSeq (n : Nat) (f : Port → Port) : (s.onPort n f).collSeq = s.collSeq := rfl
@[simp] theorem State.onPort_taken (n : Nat) (f : Port → Port) : (s.onPort n f).taken = s.taken := rfl
@[simp] theorem State.onPort_orphans (n : Nat) (f : Port → Port) : (s.onPort n f).orphans = s.orphans := rfl
@[simp] theorem State.onPort_trails (n : Nat) (f : Port → Port) : (s.onPort n f).trails = s.trails := rfl
@[simp] theorem State.onPort_agenda (n : Nat) (f : Port → Port) : (s.onPort n f).agenda = s.agenda := rfl
@[simp] theorem State.onPort_out (n : Nat) (f : Port → Port) : (s.onPort n f).out = s.out := rfl
@[simp] theorem State.onPort_cur (n : Nat) (f : Port → Port) : (s.onPort n f).cur = s.cur := rfl
@[simp] theorem State.onPort_curStream (n : Nat) (f : Port → Port) : (s.onPort n f).curStream = s.curStream := rfl
@[simp] theorem State.onPort_hdr (n : Nat) (f : Port → Port) : (s.onPort n f).hdr = s.hdr := rfl
@[simp] theorem State.onPort_latch (n : Nat) (f : Port → Port) : (s.onPort n f).latch = s.latch := rfl
@[simp] theorem State.onPort_checked (n : Nat) (f : Port → Port) : (s.onPort n f).checked = s.checked := rfl
@[simp] theorem State.onPort_free (n : Nat) (f : Port → Port) : (s.onPort n f).free = s.free := rfl

/-! ### State.onBoot -/

@[simp] theorem State.onBoot_power (f : Boot → Boot) : (s.onBoot f).power = s.power := rfl
@[simp] theorem State.onBoot_ctxs (f : Boot → Boot) : (s.onBoot f).ctxs = s.ctxs := rfl
@[simp] theorem State.onBoot_saved (f : Boot → Boot) : (s.onBoot f).saved = s.saved := rfl
@[simp] theorem State.onBoot_cores (f : Boot → Boot) : (s.onBoot f).cores = s.cores := rfl
@[simp] theorem State.onBoot_groups (f : Boot → Boot) : (s.onBoot f).groups = s.groups := rfl
@[simp] theorem State.onBoot_stackTab (f : Boot → Boot) : (s.onBoot f).stackTab = s.stackTab := rfl
@[simp] theorem State.onBoot_rings (f : Boot → Boot) : (s.onBoot f).rings = s.rings := rfl
@[simp] theorem State.onBoot_windows (f : Boot → Boot) : (s.onBoot f).windows = s.windows := rfl
@[simp] theorem State.onBoot_barriers (f : Boot → Boot) : (s.onBoot f).barriers = s.barriers := rfl
@[simp] theorem State.onBoot_lathe0 (f : Boot → Boot) : (s.onBoot f).lathe0 = s.lathe0 := rfl
@[simp] theorem State.onBoot_lathe1 (f : Boot → Boot) : (s.onBoot f).lathe1 = s.lathe1 := rfl
@[simp] theorem State.onBoot_spaces (f : Boot → Boot) : (s.onBoot f).spaces = s.spaces := rfl
@[simp] theorem State.onBoot_cache (f : Boot → Boot) : (s.onBoot f).cache = s.cache := rfl
@[simp] theorem State.onBoot_cmds (f : Boot → Boot) : (s.onBoot f).cmds = s.cmds := rfl
@[simp] theorem State.onBoot_nextId (f : Boot → Boot) : (s.onBoot f).nextId = s.nextId := rfl
@[simp] theorem State.onBoot_dev (f : Boot → Boot) : (s.onBoot f).dev = s.dev := rfl
@[simp] theorem State.onBoot_host (f : Boot → Boot) : (s.onBoot f).host = s.host := rfl
@[simp] theorem State.onBoot_peers (f : Boot → Boot) : (s.onBoot f).peers = s.peers := rfl
@[simp] theorem State.onBoot_farCap (f : Boot → Boot) : (s.onBoot f).farCap = s.farCap := rfl
@[simp] theorem State.onBoot_keys (f : Boot → Boot) : (s.onBoot f).keys = s.keys := rfl
@[simp] theorem State.onBoot_chip (f : Boot → Boot) : (s.onBoot f).chip = s.chip := rfl
@[simp] theorem State.onBoot_resmap (f : Boot → Boot) : (s.onBoot f).resmap = s.resmap := rfl
@[simp] theorem State.onBoot_worldmap (f : Boot → Boot) : (s.onBoot f).worldmap = s.worldmap := rfl
@[simp] theorem State.onBoot_regions (f : Boot → Boot) : (s.onBoot f).regions = s.regions := rfl
@[simp] theorem State.onBoot_log (f : Boot → Boot) : (s.onBoot f).log = s.log := rfl
@[simp] theorem State.onBoot_repwait (f : Boot → Boot) : (s.onBoot f).repwait = s.repwait := rfl
@[simp] theorem State.onBoot_links (f : Boot → Boot) : (s.onBoot f).links = s.links := rfl
@[simp] theorem State.onBoot_islands (f : Boot → Boot) : (s.onBoot f).islands = s.islands := rfl
@[simp] theorem State.onBoot_sample (f : Boot → Boot) : (s.onBoot f).sample = s.sample := rfl
@[simp] theorem State.onBoot_folkai (f : Boot → Boot) : (s.onBoot f).folkai = s.folkai := rfl
@[simp] theorem State.onBoot_energy (f : Boot → Boot) : (s.onBoot f).energy = s.energy := rfl
@[simp] theorem State.onBoot_telemetry (f : Boot → Boot) : (s.onBoot f).telemetry = s.telemetry := rfl
@[simp] theorem State.onBoot_shadowTel (f : Boot → Boot) : (s.onBoot f).shadowTel = s.shadowTel := rfl
@[simp] theorem State.onBoot_tsnap (f : Boot → Boot) : (s.onBoot f).tsnap = s.tsnap := rfl
@[simp] theorem State.onBoot_collSeq (f : Boot → Boot) : (s.onBoot f).collSeq = s.collSeq := rfl
@[simp] theorem State.onBoot_taken (f : Boot → Boot) : (s.onBoot f).taken = s.taken := rfl
@[simp] theorem State.onBoot_orphans (f : Boot → Boot) : (s.onBoot f).orphans = s.orphans := rfl
@[simp] theorem State.onBoot_trails (f : Boot → Boot) : (s.onBoot f).trails = s.trails := rfl
@[simp] theorem State.onBoot_agenda (f : Boot → Boot) : (s.onBoot f).agenda = s.agenda := rfl
@[simp] theorem State.onBoot_out (f : Boot → Boot) : (s.onBoot f).out = s.out := rfl
@[simp] theorem State.onBoot_cur (f : Boot → Boot) : (s.onBoot f).cur = s.cur := rfl
@[simp] theorem State.onBoot_curStream (f : Boot → Boot) : (s.onBoot f).curStream = s.curStream := rfl
@[simp] theorem State.onBoot_hdr (f : Boot → Boot) : (s.onBoot f).hdr = s.hdr := rfl
@[simp] theorem State.onBoot_latch (f : Boot → Boot) : (s.onBoot f).latch = s.latch := rfl
@[simp] theorem State.onBoot_checked (f : Boot → Boot) : (s.onBoot f).checked = s.checked := rfl
@[simp] theorem State.onBoot_free (f : Boot → Boot) : (s.onBoot f).free = s.free := rfl

/-! ### State.onIsland -/

@[simp] theorem State.onIsland_power (i : Nat) (f : Island → Island) : (s.onIsland i f).power = s.power := rfl
@[simp] theorem State.onIsland_ctxs (i : Nat) (f : Island → Island) : (s.onIsland i f).ctxs = s.ctxs := rfl
@[simp] theorem State.onIsland_saved (i : Nat) (f : Island → Island) : (s.onIsland i f).saved = s.saved := rfl
@[simp] theorem State.onIsland_cores (i : Nat) (f : Island → Island) : (s.onIsland i f).cores = s.cores := rfl
@[simp] theorem State.onIsland_groups (i : Nat) (f : Island → Island) : (s.onIsland i f).groups = s.groups := rfl
@[simp] theorem State.onIsland_stackTab (i : Nat) (f : Island → Island) : (s.onIsland i f).stackTab = s.stackTab := rfl
@[simp] theorem State.onIsland_rings (i : Nat) (f : Island → Island) : (s.onIsland i f).rings = s.rings := rfl
@[simp] theorem State.onIsland_windows (i : Nat) (f : Island → Island) : (s.onIsland i f).windows = s.windows := rfl
@[simp] theorem State.onIsland_barriers (i : Nat) (f : Island → Island) : (s.onIsland i f).barriers = s.barriers := rfl
@[simp] theorem State.onIsland_lathe0 (i : Nat) (f : Island → Island) : (s.onIsland i f).lathe0 = s.lathe0 := rfl
@[simp] theorem State.onIsland_lathe1 (i : Nat) (f : Island → Island) : (s.onIsland i f).lathe1 = s.lathe1 := rfl
@[simp] theorem State.onIsland_spaces (i : Nat) (f : Island → Island) : (s.onIsland i f).spaces = s.spaces := rfl
@[simp] theorem State.onIsland_cache (i : Nat) (f : Island → Island) : (s.onIsland i f).cache = s.cache := rfl
@[simp] theorem State.onIsland_cmds (i : Nat) (f : Island → Island) : (s.onIsland i f).cmds = s.cmds := rfl
@[simp] theorem State.onIsland_nextId (i : Nat) (f : Island → Island) : (s.onIsland i f).nextId = s.nextId := rfl
@[simp] theorem State.onIsland_dev (i : Nat) (f : Island → Island) : (s.onIsland i f).dev = s.dev := rfl
@[simp] theorem State.onIsland_host (i : Nat) (f : Island → Island) : (s.onIsland i f).host = s.host := rfl
@[simp] theorem State.onIsland_peers (i : Nat) (f : Island → Island) : (s.onIsland i f).peers = s.peers := rfl
@[simp] theorem State.onIsland_farCap (i : Nat) (f : Island → Island) : (s.onIsland i f).farCap = s.farCap := rfl
@[simp] theorem State.onIsland_keys (i : Nat) (f : Island → Island) : (s.onIsland i f).keys = s.keys := rfl
@[simp] theorem State.onIsland_chip (i : Nat) (f : Island → Island) : (s.onIsland i f).chip = s.chip := rfl
@[simp] theorem State.onIsland_resmap (i : Nat) (f : Island → Island) : (s.onIsland i f).resmap = s.resmap := rfl
@[simp] theorem State.onIsland_worldmap (i : Nat) (f : Island → Island) : (s.onIsland i f).worldmap = s.worldmap := rfl
@[simp] theorem State.onIsland_regions (i : Nat) (f : Island → Island) : (s.onIsland i f).regions = s.regions := rfl
@[simp] theorem State.onIsland_log (i : Nat) (f : Island → Island) : (s.onIsland i f).log = s.log := rfl
@[simp] theorem State.onIsland_repwait (i : Nat) (f : Island → Island) : (s.onIsland i f).repwait = s.repwait := rfl
@[simp] theorem State.onIsland_links (i : Nat) (f : Island → Island) : (s.onIsland i f).links = s.links := rfl
@[simp] theorem State.onIsland_sample (i : Nat) (f : Island → Island) : (s.onIsland i f).sample = s.sample := rfl
@[simp] theorem State.onIsland_folkai (i : Nat) (f : Island → Island) : (s.onIsland i f).folkai = s.folkai := rfl
@[simp] theorem State.onIsland_energy (i : Nat) (f : Island → Island) : (s.onIsland i f).energy = s.energy := rfl
@[simp] theorem State.onIsland_telemetry (i : Nat) (f : Island → Island) : (s.onIsland i f).telemetry = s.telemetry := rfl
@[simp] theorem State.onIsland_shadowTel (i : Nat) (f : Island → Island) : (s.onIsland i f).shadowTel = s.shadowTel := rfl
@[simp] theorem State.onIsland_tsnap (i : Nat) (f : Island → Island) : (s.onIsland i f).tsnap = s.tsnap := rfl
@[simp] theorem State.onIsland_boot (i : Nat) (f : Island → Island) : (s.onIsland i f).boot = s.boot := rfl
@[simp] theorem State.onIsland_collSeq (i : Nat) (f : Island → Island) : (s.onIsland i f).collSeq = s.collSeq := rfl
@[simp] theorem State.onIsland_taken (i : Nat) (f : Island → Island) : (s.onIsland i f).taken = s.taken := rfl
@[simp] theorem State.onIsland_orphans (i : Nat) (f : Island → Island) : (s.onIsland i f).orphans = s.orphans := rfl
@[simp] theorem State.onIsland_trails (i : Nat) (f : Island → Island) : (s.onIsland i f).trails = s.trails := rfl
@[simp] theorem State.onIsland_agenda (i : Nat) (f : Island → Island) : (s.onIsland i f).agenda = s.agenda := rfl
@[simp] theorem State.onIsland_out (i : Nat) (f : Island → Island) : (s.onIsland i f).out = s.out := rfl
@[simp] theorem State.onIsland_cur (i : Nat) (f : Island → Island) : (s.onIsland i f).cur = s.cur := rfl
@[simp] theorem State.onIsland_curStream (i : Nat) (f : Island → Island) : (s.onIsland i f).curStream = s.curStream := rfl
@[simp] theorem State.onIsland_hdr (i : Nat) (f : Island → Island) : (s.onIsland i f).hdr = s.hdr := rfl
@[simp] theorem State.onIsland_latch (i : Nat) (f : Island → Island) : (s.onIsland i f).latch = s.latch := rfl
@[simp] theorem State.onIsland_checked (i : Nat) (f : Island → Island) : (s.onIsland i f).checked = s.checked := rfl
@[simp] theorem State.onIsland_free (i : Nat) (f : Island → Island) : (s.onIsland i f).free = s.free := rfl

/-! ### State.leave -/

@[simp] theorem State.leave_power (c : CtxId) (n : Nat) : (s.leave c n).power = s.power := rfl
@[simp] theorem State.leave_ctxs (c : CtxId) (n : Nat) : (s.leave c n).ctxs = s.ctxs := rfl
@[simp] theorem State.leave_saved (c : CtxId) (n : Nat) : (s.leave c n).saved = s.saved := rfl
@[simp] theorem State.leave_cores (c : CtxId) (n : Nat) : (s.leave c n).cores = s.cores := rfl
@[simp] theorem State.leave_groups (c : CtxId) (n : Nat) : (s.leave c n).groups = s.groups := rfl
@[simp] theorem State.leave_stackTab (c : CtxId) (n : Nat) : (s.leave c n).stackTab = s.stackTab := rfl
@[simp] theorem State.leave_rings (c : CtxId) (n : Nat) : (s.leave c n).rings = s.rings := rfl
@[simp] theorem State.leave_windows (c : CtxId) (n : Nat) : (s.leave c n).windows = s.windows := rfl
@[simp] theorem State.leave_barriers (c : CtxId) (n : Nat) : (s.leave c n).barriers = s.barriers := rfl
@[simp] theorem State.leave_lathe0 (c : CtxId) (n : Nat) : (s.leave c n).lathe0 = s.lathe0 := rfl
@[simp] theorem State.leave_lathe1 (c : CtxId) (n : Nat) : (s.leave c n).lathe1 = s.lathe1 := rfl
@[simp] theorem State.leave_spaces (c : CtxId) (n : Nat) : (s.leave c n).spaces = s.spaces := rfl
@[simp] theorem State.leave_cache (c : CtxId) (n : Nat) : (s.leave c n).cache = s.cache := rfl
@[simp] theorem State.leave_cmds (c : CtxId) (n : Nat) : (s.leave c n).cmds = s.cmds := rfl
@[simp] theorem State.leave_nextId (c : CtxId) (n : Nat) : (s.leave c n).nextId = s.nextId := rfl
@[simp] theorem State.leave_dev (c : CtxId) (n : Nat) : (s.leave c n).dev = s.dev := rfl
@[simp] theorem State.leave_host (c : CtxId) (n : Nat) : (s.leave c n).host = s.host := rfl
@[simp] theorem State.leave_peers (c : CtxId) (n : Nat) : (s.leave c n).peers = s.peers := rfl
@[simp] theorem State.leave_farCap (c : CtxId) (n : Nat) : (s.leave c n).farCap = s.farCap := rfl
@[simp] theorem State.leave_keys (c : CtxId) (n : Nat) : (s.leave c n).keys = s.keys := rfl
@[simp] theorem State.leave_chip (c : CtxId) (n : Nat) : (s.leave c n).chip = s.chip := rfl
@[simp] theorem State.leave_resmap (c : CtxId) (n : Nat) : (s.leave c n).resmap = s.resmap := rfl
@[simp] theorem State.leave_worldmap (c : CtxId) (n : Nat) : (s.leave c n).worldmap = s.worldmap := rfl
@[simp] theorem State.leave_regions (c : CtxId) (n : Nat) : (s.leave c n).regions = s.regions := rfl
@[simp] theorem State.leave_log (c : CtxId) (n : Nat) : (s.leave c n).log = s.log := rfl
@[simp] theorem State.leave_repwait (c : CtxId) (n : Nat) : (s.leave c n).repwait = s.repwait := rfl
@[simp] theorem State.leave_links (c : CtxId) (n : Nat) : (s.leave c n).links = s.links := rfl
@[simp] theorem State.leave_islands (c : CtxId) (n : Nat) : (s.leave c n).islands = s.islands := rfl
@[simp] theorem State.leave_sample (c : CtxId) (n : Nat) : (s.leave c n).sample = s.sample := rfl
@[simp] theorem State.leave_folkai (c : CtxId) (n : Nat) : (s.leave c n).folkai = s.folkai := rfl
@[simp] theorem State.leave_energy (c : CtxId) (n : Nat) : (s.leave c n).energy = s.energy := rfl
@[simp] theorem State.leave_telemetry (c : CtxId) (n : Nat) : (s.leave c n).telemetry = s.telemetry := rfl
@[simp] theorem State.leave_shadowTel (c : CtxId) (n : Nat) : (s.leave c n).shadowTel = s.shadowTel := rfl
@[simp] theorem State.leave_tsnap (c : CtxId) (n : Nat) : (s.leave c n).tsnap = s.tsnap := rfl
@[simp] theorem State.leave_boot (c : CtxId) (n : Nat) : (s.leave c n).boot = s.boot := rfl
@[simp] theorem State.leave_collSeq (c : CtxId) (n : Nat) : (s.leave c n).collSeq = s.collSeq := rfl
@[simp] theorem State.leave_taken (c : CtxId) (n : Nat) : (s.leave c n).taken = s.taken := rfl
@[simp] theorem State.leave_trails (c : CtxId) (n : Nat) : (s.leave c n).trails = s.trails := rfl
@[simp] theorem State.leave_agenda (c : CtxId) (n : Nat) : (s.leave c n).agenda = s.agenda := rfl
@[simp] theorem State.leave_out (c : CtxId) (n : Nat) : (s.leave c n).out = s.out := rfl
@[simp] theorem State.leave_cur (c : CtxId) (n : Nat) : (s.leave c n).cur = s.cur := rfl
@[simp] theorem State.leave_curStream (c : CtxId) (n : Nat) : (s.leave c n).curStream = s.curStream := rfl
@[simp] theorem State.leave_hdr (c : CtxId) (n : Nat) : (s.leave c n).hdr = s.hdr := rfl
@[simp] theorem State.leave_latch (c : CtxId) (n : Nat) : (s.leave c n).latch = s.latch := rfl
@[simp] theorem State.leave_checked (c : CtxId) (n : Nat) : (s.leave c n).checked = s.checked := rfl
@[simp] theorem State.leave_free (c : CtxId) (n : Nat) : (s.leave c n).free = s.free := rfl

/-! ### State.leaveWrites -/

@[simp] theorem State.leaveWrites_power (c : CtxId) : (s.leaveWrites c).power = s.power := rfl
@[simp] theorem State.leaveWrites_ctxs (c : CtxId) : (s.leaveWrites c).ctxs = s.ctxs := rfl
@[simp] theorem State.leaveWrites_saved (c : CtxId) : (s.leaveWrites c).saved = s.saved := rfl
@[simp] theorem State.leaveWrites_groups (c : CtxId) : (s.leaveWrites c).groups = s.groups := rfl
@[simp] theorem State.leaveWrites_stackTab (c : CtxId) : (s.leaveWrites c).stackTab = s.stackTab := rfl
@[simp] theorem State.leaveWrites_rings (c : CtxId) : (s.leaveWrites c).rings = s.rings := rfl
@[simp] theorem State.leaveWrites_windows (c : CtxId) : (s.leaveWrites c).windows = s.windows := rfl
@[simp] theorem State.leaveWrites_barriers (c : CtxId) : (s.leaveWrites c).barriers = s.barriers := rfl
@[simp] theorem State.leaveWrites_lathe0 (c : CtxId) : (s.leaveWrites c).lathe0 = s.lathe0 := rfl
@[simp] theorem State.leaveWrites_lathe1 (c : CtxId) : (s.leaveWrites c).lathe1 = s.lathe1 := rfl
@[simp] theorem State.leaveWrites_spaces (c : CtxId) : (s.leaveWrites c).spaces = s.spaces := rfl
@[simp] theorem State.leaveWrites_cache (c : CtxId) : (s.leaveWrites c).cache = s.cache := rfl
@[simp] theorem State.leaveWrites_cmds (c : CtxId) : (s.leaveWrites c).cmds = s.cmds := rfl
@[simp] theorem State.leaveWrites_nextId (c : CtxId) : (s.leaveWrites c).nextId = s.nextId := rfl
@[simp] theorem State.leaveWrites_dev (c : CtxId) : (s.leaveWrites c).dev = s.dev := rfl
@[simp] theorem State.leaveWrites_host (c : CtxId) : (s.leaveWrites c).host = s.host := rfl
@[simp] theorem State.leaveWrites_peers (c : CtxId) : (s.leaveWrites c).peers = s.peers := rfl
@[simp] theorem State.leaveWrites_farCap (c : CtxId) : (s.leaveWrites c).farCap = s.farCap := rfl
@[simp] theorem State.leaveWrites_keys (c : CtxId) : (s.leaveWrites c).keys = s.keys := rfl
@[simp] theorem State.leaveWrites_chip (c : CtxId) : (s.leaveWrites c).chip = s.chip := rfl
@[simp] theorem State.leaveWrites_resmap (c : CtxId) : (s.leaveWrites c).resmap = s.resmap := rfl
@[simp] theorem State.leaveWrites_worldmap (c : CtxId) : (s.leaveWrites c).worldmap = s.worldmap := rfl
@[simp] theorem State.leaveWrites_regions (c : CtxId) : (s.leaveWrites c).regions = s.regions := rfl
@[simp] theorem State.leaveWrites_log (c : CtxId) : (s.leaveWrites c).log = s.log := rfl
@[simp] theorem State.leaveWrites_repwait (c : CtxId) : (s.leaveWrites c).repwait = s.repwait := rfl
@[simp] theorem State.leaveWrites_links (c : CtxId) : (s.leaveWrites c).links = s.links := rfl
@[simp] theorem State.leaveWrites_islands (c : CtxId) : (s.leaveWrites c).islands = s.islands := rfl
@[simp] theorem State.leaveWrites_sample (c : CtxId) : (s.leaveWrites c).sample = s.sample := rfl
@[simp] theorem State.leaveWrites_folkai (c : CtxId) : (s.leaveWrites c).folkai = s.folkai := rfl
@[simp] theorem State.leaveWrites_energy (c : CtxId) : (s.leaveWrites c).energy = s.energy := rfl
@[simp] theorem State.leaveWrites_telemetry (c : CtxId) : (s.leaveWrites c).telemetry = s.telemetry := rfl
@[simp] theorem State.leaveWrites_shadowTel (c : CtxId) : (s.leaveWrites c).shadowTel = s.shadowTel := rfl
@[simp] theorem State.leaveWrites_tsnap (c : CtxId) : (s.leaveWrites c).tsnap = s.tsnap := rfl
@[simp] theorem State.leaveWrites_boot (c : CtxId) : (s.leaveWrites c).boot = s.boot := rfl
@[simp] theorem State.leaveWrites_collSeq (c : CtxId) : (s.leaveWrites c).collSeq = s.collSeq := rfl
@[simp] theorem State.leaveWrites_taken (c : CtxId) : (s.leaveWrites c).taken = s.taken := rfl
@[simp] theorem State.leaveWrites_orphans (c : CtxId) : (s.leaveWrites c).orphans = s.orphans := rfl
@[simp] theorem State.leaveWrites_trails (c : CtxId) : (s.leaveWrites c).trails = s.trails := rfl
@[simp] theorem State.leaveWrites_agenda (c : CtxId) : (s.leaveWrites c).agenda = s.agenda := rfl
@[simp] theorem State.leaveWrites_out (c : CtxId) : (s.leaveWrites c).out = s.out := rfl
@[simp] theorem State.leaveWrites_cur (c : CtxId) : (s.leaveWrites c).cur = s.cur := rfl
@[simp] theorem State.leaveWrites_curStream (c : CtxId) : (s.leaveWrites c).curStream = s.curStream := rfl
@[simp] theorem State.leaveWrites_hdr (c : CtxId) : (s.leaveWrites c).hdr = s.hdr := rfl
@[simp] theorem State.leaveWrites_latch (c : CtxId) : (s.leaveWrites c).latch = s.latch := rfl
@[simp] theorem State.leaveWrites_checked (c : CtxId) : (s.leaveWrites c).checked = s.checked := rfl
@[simp] theorem State.leaveWrites_free (c : CtxId) : (s.leaveWrites c).free = s.free := rfl

/-! ### State.takeEffect -/

@[simp] theorem State.takeEffect_power (c : CtxId) (p : CoreWrite → Bool) : (s.takeEffect c p).power = s.power := rfl
@[simp] theorem State.takeEffect_ctxs (c : CtxId) (p : CoreWrite → Bool) : (s.takeEffect c p).ctxs = s.ctxs := rfl
@[simp] theorem State.takeEffect_saved (c : CtxId) (p : CoreWrite → Bool) : (s.takeEffect c p).saved = s.saved := rfl
@[simp] theorem State.takeEffect_groups (c : CtxId) (p : CoreWrite → Bool) : (s.takeEffect c p).groups = s.groups := rfl
@[simp] theorem State.takeEffect_stackTab (c : CtxId) (p : CoreWrite → Bool) : (s.takeEffect c p).stackTab = s.stackTab := rfl
@[simp] theorem State.takeEffect_rings (c : CtxId) (p : CoreWrite → Bool) : (s.takeEffect c p).rings = s.rings := rfl
@[simp] theorem State.takeEffect_windows (c : CtxId) (p : CoreWrite → Bool) : (s.takeEffect c p).windows = s.windows := rfl
@[simp] theorem State.takeEffect_barriers (c : CtxId) (p : CoreWrite → Bool) : (s.takeEffect c p).barriers = s.barriers := rfl
@[simp] theorem State.takeEffect_lathe0 (c : CtxId) (p : CoreWrite → Bool) : (s.takeEffect c p).lathe0 = s.lathe0 := rfl
@[simp] theorem State.takeEffect_lathe1 (c : CtxId) (p : CoreWrite → Bool) : (s.takeEffect c p).lathe1 = s.lathe1 := rfl
@[simp] theorem State.takeEffect_spaces (c : CtxId) (p : CoreWrite → Bool) : (s.takeEffect c p).spaces = s.spaces := rfl
@[simp] theorem State.takeEffect_cache (c : CtxId) (p : CoreWrite → Bool) : (s.takeEffect c p).cache = s.cache := rfl
@[simp] theorem State.takeEffect_cmds (c : CtxId) (p : CoreWrite → Bool) : (s.takeEffect c p).cmds = s.cmds := rfl
@[simp] theorem State.takeEffect_nextId (c : CtxId) (p : CoreWrite → Bool) : (s.takeEffect c p).nextId = s.nextId := rfl
@[simp] theorem State.takeEffect_dev (c : CtxId) (p : CoreWrite → Bool) : (s.takeEffect c p).dev = s.dev := rfl
@[simp] theorem State.takeEffect_host (c : CtxId) (p : CoreWrite → Bool) : (s.takeEffect c p).host = s.host := rfl
@[simp] theorem State.takeEffect_peers (c : CtxId) (p : CoreWrite → Bool) : (s.takeEffect c p).peers = s.peers := rfl
@[simp] theorem State.takeEffect_farCap (c : CtxId) (p : CoreWrite → Bool) : (s.takeEffect c p).farCap = s.farCap := rfl
@[simp] theorem State.takeEffect_keys (c : CtxId) (p : CoreWrite → Bool) : (s.takeEffect c p).keys = s.keys := rfl
@[simp] theorem State.takeEffect_chip (c : CtxId) (p : CoreWrite → Bool) : (s.takeEffect c p).chip = s.chip := rfl
@[simp] theorem State.takeEffect_resmap (c : CtxId) (p : CoreWrite → Bool) : (s.takeEffect c p).resmap = s.resmap := rfl
@[simp] theorem State.takeEffect_worldmap (c : CtxId) (p : CoreWrite → Bool) : (s.takeEffect c p).worldmap = s.worldmap := rfl
@[simp] theorem State.takeEffect_regions (c : CtxId) (p : CoreWrite → Bool) : (s.takeEffect c p).regions = s.regions := rfl
@[simp] theorem State.takeEffect_log (c : CtxId) (p : CoreWrite → Bool) : (s.takeEffect c p).log = s.log := rfl
@[simp] theorem State.takeEffect_repwait (c : CtxId) (p : CoreWrite → Bool) : (s.takeEffect c p).repwait = s.repwait := rfl
@[simp] theorem State.takeEffect_links (c : CtxId) (p : CoreWrite → Bool) : (s.takeEffect c p).links = s.links := rfl
@[simp] theorem State.takeEffect_islands (c : CtxId) (p : CoreWrite → Bool) : (s.takeEffect c p).islands = s.islands := rfl
@[simp] theorem State.takeEffect_sample (c : CtxId) (p : CoreWrite → Bool) : (s.takeEffect c p).sample = s.sample := rfl
@[simp] theorem State.takeEffect_folkai (c : CtxId) (p : CoreWrite → Bool) : (s.takeEffect c p).folkai = s.folkai := rfl
@[simp] theorem State.takeEffect_energy (c : CtxId) (p : CoreWrite → Bool) : (s.takeEffect c p).energy = s.energy := rfl
@[simp] theorem State.takeEffect_telemetry (c : CtxId) (p : CoreWrite → Bool) : (s.takeEffect c p).telemetry = s.telemetry := rfl
@[simp] theorem State.takeEffect_shadowTel (c : CtxId) (p : CoreWrite → Bool) : (s.takeEffect c p).shadowTel = s.shadowTel := rfl
@[simp] theorem State.takeEffect_tsnap (c : CtxId) (p : CoreWrite → Bool) : (s.takeEffect c p).tsnap = s.tsnap := rfl
@[simp] theorem State.takeEffect_boot (c : CtxId) (p : CoreWrite → Bool) : (s.takeEffect c p).boot = s.boot := rfl
@[simp] theorem State.takeEffect_collSeq (c : CtxId) (p : CoreWrite → Bool) : (s.takeEffect c p).collSeq = s.collSeq := rfl
@[simp] theorem State.takeEffect_taken (c : CtxId) (p : CoreWrite → Bool) : (s.takeEffect c p).taken = s.taken := rfl
@[simp] theorem State.takeEffect_orphans (c : CtxId) (p : CoreWrite → Bool) : (s.takeEffect c p).orphans = s.orphans := rfl
@[simp] theorem State.takeEffect_trails (c : CtxId) (p : CoreWrite → Bool) : (s.takeEffect c p).trails = s.trails := rfl
@[simp] theorem State.takeEffect_agenda (c : CtxId) (p : CoreWrite → Bool) : (s.takeEffect c p).agenda = s.agenda := rfl
@[simp] theorem State.takeEffect_out (c : CtxId) (p : CoreWrite → Bool) : (s.takeEffect c p).out = s.out := rfl
@[simp] theorem State.takeEffect_cur (c : CtxId) (p : CoreWrite → Bool) : (s.takeEffect c p).cur = s.cur := rfl
@[simp] theorem State.takeEffect_curStream (c : CtxId) (p : CoreWrite → Bool) : (s.takeEffect c p).curStream = s.curStream := rfl
@[simp] theorem State.takeEffect_hdr (c : CtxId) (p : CoreWrite → Bool) : (s.takeEffect c p).hdr = s.hdr := rfl
@[simp] theorem State.takeEffect_latch (c : CtxId) (p : CoreWrite → Bool) : (s.takeEffect c p).latch = s.latch := rfl
@[simp] theorem State.takeEffect_checked (c : CtxId) (p : CoreWrite → Bool) : (s.takeEffect c p).checked = s.checked := rfl
@[simp] theorem State.takeEffect_free (c : CtxId) (p : CoreWrite → Bool) : (s.takeEffect c p).free = s.free := rfl

/-! ### State.coreWrites -/

@[simp] theorem State.coreWrites_power (c : CtxId) (all : Bool) : (s.coreWrites c all).power = s.power := rfl
@[simp] theorem State.coreWrites_ctxs (c : CtxId) (all : Bool) : (s.coreWrites c all).ctxs = s.ctxs := rfl
@[simp] theorem State.coreWrites_saved (c : CtxId) (all : Bool) : (s.coreWrites c all).saved = s.saved := rfl
@[simp] theorem State.coreWrites_groups (c : CtxId) (all : Bool) : (s.coreWrites c all).groups = s.groups := rfl
@[simp] theorem State.coreWrites_stackTab (c : CtxId) (all : Bool) : (s.coreWrites c all).stackTab = s.stackTab := rfl
@[simp] theorem State.coreWrites_rings (c : CtxId) (all : Bool) : (s.coreWrites c all).rings = s.rings := rfl
@[simp] theorem State.coreWrites_windows (c : CtxId) (all : Bool) : (s.coreWrites c all).windows = s.windows := rfl
@[simp] theorem State.coreWrites_barriers (c : CtxId) (all : Bool) : (s.coreWrites c all).barriers = s.barriers := rfl
@[simp] theorem State.coreWrites_lathe0 (c : CtxId) (all : Bool) : (s.coreWrites c all).lathe0 = s.lathe0 := rfl
@[simp] theorem State.coreWrites_lathe1 (c : CtxId) (all : Bool) : (s.coreWrites c all).lathe1 = s.lathe1 := rfl
@[simp] theorem State.coreWrites_spaces (c : CtxId) (all : Bool) : (s.coreWrites c all).spaces = s.spaces := rfl
@[simp] theorem State.coreWrites_cache (c : CtxId) (all : Bool) : (s.coreWrites c all).cache = s.cache := rfl
@[simp] theorem State.coreWrites_cmds (c : CtxId) (all : Bool) : (s.coreWrites c all).cmds = s.cmds := rfl
@[simp] theorem State.coreWrites_nextId (c : CtxId) (all : Bool) : (s.coreWrites c all).nextId = s.nextId := rfl
@[simp] theorem State.coreWrites_dev (c : CtxId) (all : Bool) : (s.coreWrites c all).dev = s.dev := rfl
@[simp] theorem State.coreWrites_host (c : CtxId) (all : Bool) : (s.coreWrites c all).host = s.host := rfl
@[simp] theorem State.coreWrites_peers (c : CtxId) (all : Bool) : (s.coreWrites c all).peers = s.peers := rfl
@[simp] theorem State.coreWrites_farCap (c : CtxId) (all : Bool) : (s.coreWrites c all).farCap = s.farCap := rfl
@[simp] theorem State.coreWrites_keys (c : CtxId) (all : Bool) : (s.coreWrites c all).keys = s.keys := rfl
@[simp] theorem State.coreWrites_chip (c : CtxId) (all : Bool) : (s.coreWrites c all).chip = s.chip := rfl
@[simp] theorem State.coreWrites_resmap (c : CtxId) (all : Bool) : (s.coreWrites c all).resmap = s.resmap := rfl
@[simp] theorem State.coreWrites_worldmap (c : CtxId) (all : Bool) : (s.coreWrites c all).worldmap = s.worldmap := rfl
@[simp] theorem State.coreWrites_regions (c : CtxId) (all : Bool) : (s.coreWrites c all).regions = s.regions := rfl
@[simp] theorem State.coreWrites_log (c : CtxId) (all : Bool) : (s.coreWrites c all).log = s.log := rfl
@[simp] theorem State.coreWrites_repwait (c : CtxId) (all : Bool) : (s.coreWrites c all).repwait = s.repwait := rfl
@[simp] theorem State.coreWrites_links (c : CtxId) (all : Bool) : (s.coreWrites c all).links = s.links := rfl
@[simp] theorem State.coreWrites_islands (c : CtxId) (all : Bool) : (s.coreWrites c all).islands = s.islands := rfl
@[simp] theorem State.coreWrites_sample (c : CtxId) (all : Bool) : (s.coreWrites c all).sample = s.sample := rfl
@[simp] theorem State.coreWrites_folkai (c : CtxId) (all : Bool) : (s.coreWrites c all).folkai = s.folkai := rfl
@[simp] theorem State.coreWrites_energy (c : CtxId) (all : Bool) : (s.coreWrites c all).energy = s.energy := rfl
@[simp] theorem State.coreWrites_telemetry (c : CtxId) (all : Bool) : (s.coreWrites c all).telemetry = s.telemetry := rfl
@[simp] theorem State.coreWrites_shadowTel (c : CtxId) (all : Bool) : (s.coreWrites c all).shadowTel = s.shadowTel := rfl
@[simp] theorem State.coreWrites_tsnap (c : CtxId) (all : Bool) : (s.coreWrites c all).tsnap = s.tsnap := rfl
@[simp] theorem State.coreWrites_boot (c : CtxId) (all : Bool) : (s.coreWrites c all).boot = s.boot := rfl
@[simp] theorem State.coreWrites_collSeq (c : CtxId) (all : Bool) : (s.coreWrites c all).collSeq = s.collSeq := rfl
@[simp] theorem State.coreWrites_taken (c : CtxId) (all : Bool) : (s.coreWrites c all).taken = s.taken := rfl
@[simp] theorem State.coreWrites_orphans (c : CtxId) (all : Bool) : (s.coreWrites c all).orphans = s.orphans := rfl
@[simp] theorem State.coreWrites_trails (c : CtxId) (all : Bool) : (s.coreWrites c all).trails = s.trails := rfl
@[simp] theorem State.coreWrites_agenda (c : CtxId) (all : Bool) : (s.coreWrites c all).agenda = s.agenda := rfl
@[simp] theorem State.coreWrites_out (c : CtxId) (all : Bool) : (s.coreWrites c all).out = s.out := rfl
@[simp] theorem State.coreWrites_cur (c : CtxId) (all : Bool) : (s.coreWrites c all).cur = s.cur := rfl
@[simp] theorem State.coreWrites_curStream (c : CtxId) (all : Bool) : (s.coreWrites c all).curStream = s.curStream := rfl
@[simp] theorem State.coreWrites_hdr (c : CtxId) (all : Bool) : (s.coreWrites c all).hdr = s.hdr := rfl
@[simp] theorem State.coreWrites_latch (c : CtxId) (all : Bool) : (s.coreWrites c all).latch = s.latch := rfl
@[simp] theorem State.coreWrites_checked (c : CtxId) (all : Bool) : (s.coreWrites c all).checked = s.checked := rfl
@[simp] theorem State.coreWrites_free (c : CtxId) (all : Bool) : (s.coreWrites c all).free = s.free := rfl

/-! ### The Lathes -/

@[simp] theorem State.onLathe_power (d : Bool) (f : Lathe → Lathe) : (s.onLathe d f).power = s.power := by cases d <;> rfl
@[simp] theorem State.onLathe_ctxs (d : Bool) (f : Lathe → Lathe) : (s.onLathe d f).ctxs = s.ctxs := by cases d <;> rfl
@[simp] theorem State.onLathe_saved (d : Bool) (f : Lathe → Lathe) : (s.onLathe d f).saved = s.saved := by cases d <;> rfl
@[simp] theorem State.onLathe_cores (d : Bool) (f : Lathe → Lathe) : (s.onLathe d f).cores = s.cores := by cases d <;> rfl
@[simp] theorem State.onLathe_groups (d : Bool) (f : Lathe → Lathe) : (s.onLathe d f).groups = s.groups := by cases d <;> rfl
@[simp] theorem State.onLathe_stackTab (d : Bool) (f : Lathe → Lathe) : (s.onLathe d f).stackTab = s.stackTab := by cases d <;> rfl
@[simp] theorem State.onLathe_rings (d : Bool) (f : Lathe → Lathe) : (s.onLathe d f).rings = s.rings := by cases d <;> rfl
@[simp] theorem State.onLathe_windows (d : Bool) (f : Lathe → Lathe) : (s.onLathe d f).windows = s.windows := by cases d <;> rfl
@[simp] theorem State.onLathe_barriers (d : Bool) (f : Lathe → Lathe) : (s.onLathe d f).barriers = s.barriers := by cases d <;> rfl
@[simp] theorem State.onLathe_spaces (d : Bool) (f : Lathe → Lathe) : (s.onLathe d f).spaces = s.spaces := by cases d <;> rfl
@[simp] theorem State.onLathe_cache (d : Bool) (f : Lathe → Lathe) : (s.onLathe d f).cache = s.cache := by cases d <;> rfl
@[simp] theorem State.onLathe_cmds (d : Bool) (f : Lathe → Lathe) : (s.onLathe d f).cmds = s.cmds := by cases d <;> rfl
@[simp] theorem State.onLathe_nextId (d : Bool) (f : Lathe → Lathe) : (s.onLathe d f).nextId = s.nextId := by cases d <;> rfl
@[simp] theorem State.onLathe_dev (d : Bool) (f : Lathe → Lathe) : (s.onLathe d f).dev = s.dev := by cases d <;> rfl
@[simp] theorem State.onLathe_host (d : Bool) (f : Lathe → Lathe) : (s.onLathe d f).host = s.host := by cases d <;> rfl
@[simp] theorem State.onLathe_peers (d : Bool) (f : Lathe → Lathe) : (s.onLathe d f).peers = s.peers := by cases d <;> rfl
@[simp] theorem State.onLathe_farCap (d : Bool) (f : Lathe → Lathe) : (s.onLathe d f).farCap = s.farCap := by cases d <;> rfl
@[simp] theorem State.onLathe_keys (d : Bool) (f : Lathe → Lathe) : (s.onLathe d f).keys = s.keys := by cases d <;> rfl
@[simp] theorem State.onLathe_chip (d : Bool) (f : Lathe → Lathe) : (s.onLathe d f).chip = s.chip := by cases d <;> rfl
@[simp] theorem State.onLathe_resmap (d : Bool) (f : Lathe → Lathe) : (s.onLathe d f).resmap = s.resmap := by cases d <;> rfl
@[simp] theorem State.onLathe_worldmap (d : Bool) (f : Lathe → Lathe) : (s.onLathe d f).worldmap = s.worldmap := by cases d <;> rfl
@[simp] theorem State.onLathe_regions (d : Bool) (f : Lathe → Lathe) : (s.onLathe d f).regions = s.regions := by cases d <;> rfl
@[simp] theorem State.onLathe_log (d : Bool) (f : Lathe → Lathe) : (s.onLathe d f).log = s.log := by cases d <;> rfl
@[simp] theorem State.onLathe_repwait (d : Bool) (f : Lathe → Lathe) : (s.onLathe d f).repwait = s.repwait := by cases d <;> rfl
@[simp] theorem State.onLathe_links (d : Bool) (f : Lathe → Lathe) : (s.onLathe d f).links = s.links := by cases d <;> rfl
@[simp] theorem State.onLathe_islands (d : Bool) (f : Lathe → Lathe) : (s.onLathe d f).islands = s.islands := by cases d <;> rfl
@[simp] theorem State.onLathe_sample (d : Bool) (f : Lathe → Lathe) : (s.onLathe d f).sample = s.sample := by cases d <;> rfl
@[simp] theorem State.onLathe_folkai (d : Bool) (f : Lathe → Lathe) : (s.onLathe d f).folkai = s.folkai := by cases d <;> rfl
@[simp] theorem State.onLathe_energy (d : Bool) (f : Lathe → Lathe) : (s.onLathe d f).energy = s.energy := by cases d <;> rfl
@[simp] theorem State.onLathe_telemetry (d : Bool) (f : Lathe → Lathe) : (s.onLathe d f).telemetry = s.telemetry := by cases d <;> rfl
@[simp] theorem State.onLathe_shadowTel (d : Bool) (f : Lathe → Lathe) : (s.onLathe d f).shadowTel = s.shadowTel := by cases d <;> rfl
@[simp] theorem State.onLathe_tsnap (d : Bool) (f : Lathe → Lathe) : (s.onLathe d f).tsnap = s.tsnap := by cases d <;> rfl
@[simp] theorem State.onLathe_boot (d : Bool) (f : Lathe → Lathe) : (s.onLathe d f).boot = s.boot := by cases d <;> rfl
@[simp] theorem State.onLathe_collSeq (d : Bool) (f : Lathe → Lathe) : (s.onLathe d f).collSeq = s.collSeq := by cases d <;> rfl
@[simp] theorem State.onLathe_taken (d : Bool) (f : Lathe → Lathe) : (s.onLathe d f).taken = s.taken := by cases d <;> rfl
@[simp] theorem State.onLathe_orphans (d : Bool) (f : Lathe → Lathe) : (s.onLathe d f).orphans = s.orphans := by cases d <;> rfl
@[simp] theorem State.onLathe_trails (d : Bool) (f : Lathe → Lathe) : (s.onLathe d f).trails = s.trails := by cases d <;> rfl
@[simp] theorem State.onLathe_agenda (d : Bool) (f : Lathe → Lathe) : (s.onLathe d f).agenda = s.agenda := by cases d <;> rfl
@[simp] theorem State.onLathe_out (d : Bool) (f : Lathe → Lathe) : (s.onLathe d f).out = s.out := by cases d <;> rfl
@[simp] theorem State.onLathe_cur (d : Bool) (f : Lathe → Lathe) : (s.onLathe d f).cur = s.cur := by cases d <;> rfl
@[simp] theorem State.onLathe_curStream (d : Bool) (f : Lathe → Lathe) : (s.onLathe d f).curStream = s.curStream := by cases d <;> rfl
@[simp] theorem State.onLathe_hdr (d : Bool) (f : Lathe → Lathe) : (s.onLathe d f).hdr = s.hdr := by cases d <;> rfl
@[simp] theorem State.onLathe_latch (d : Bool) (f : Lathe → Lathe) : (s.onLathe d f).latch = s.latch := by cases d <;> rfl
@[simp] theorem State.onLathe_checked (d : Bool) (f : Lathe → Lathe) : (s.onLathe d f).checked = s.checked := by cases d <;> rfl
@[simp] theorem State.onLathe_free (d : Bool) (f : Lathe → Lathe) : (s.onLathe d f).free = s.free := by cases d <;> rfl

@[simp] theorem State.onStream_power (d : StreamId) (f : Stream → Stream) : (s.onStream d f).power = s.power := State.onLathe_power _ _ _
@[simp] theorem State.onStream_ctxs (d : StreamId) (f : Stream → Stream) : (s.onStream d f).ctxs = s.ctxs := State.onLathe_ctxs _ _ _
@[simp] theorem State.onStream_saved (d : StreamId) (f : Stream → Stream) : (s.onStream d f).saved = s.saved := State.onLathe_saved _ _ _
@[simp] theorem State.onStream_cores (d : StreamId) (f : Stream → Stream) : (s.onStream d f).cores = s.cores := State.onLathe_cores _ _ _
@[simp] theorem State.onStream_groups (d : StreamId) (f : Stream → Stream) : (s.onStream d f).groups = s.groups := State.onLathe_groups _ _ _
@[simp] theorem State.onStream_stackTab (d : StreamId) (f : Stream → Stream) : (s.onStream d f).stackTab = s.stackTab := State.onLathe_stackTab _ _ _
@[simp] theorem State.onStream_rings (d : StreamId) (f : Stream → Stream) : (s.onStream d f).rings = s.rings := State.onLathe_rings _ _ _
@[simp] theorem State.onStream_windows (d : StreamId) (f : Stream → Stream) : (s.onStream d f).windows = s.windows := State.onLathe_windows _ _ _
@[simp] theorem State.onStream_barriers (d : StreamId) (f : Stream → Stream) : (s.onStream d f).barriers = s.barriers := State.onLathe_barriers _ _ _
@[simp] theorem State.onStream_spaces (d : StreamId) (f : Stream → Stream) : (s.onStream d f).spaces = s.spaces := State.onLathe_spaces _ _ _
@[simp] theorem State.onStream_cache (d : StreamId) (f : Stream → Stream) : (s.onStream d f).cache = s.cache := State.onLathe_cache _ _ _
@[simp] theorem State.onStream_cmds (d : StreamId) (f : Stream → Stream) : (s.onStream d f).cmds = s.cmds := State.onLathe_cmds _ _ _
@[simp] theorem State.onStream_nextId (d : StreamId) (f : Stream → Stream) : (s.onStream d f).nextId = s.nextId := State.onLathe_nextId _ _ _
@[simp] theorem State.onStream_dev (d : StreamId) (f : Stream → Stream) : (s.onStream d f).dev = s.dev := State.onLathe_dev _ _ _
@[simp] theorem State.onStream_host (d : StreamId) (f : Stream → Stream) : (s.onStream d f).host = s.host := State.onLathe_host _ _ _
@[simp] theorem State.onStream_peers (d : StreamId) (f : Stream → Stream) : (s.onStream d f).peers = s.peers := State.onLathe_peers _ _ _
@[simp] theorem State.onStream_farCap (d : StreamId) (f : Stream → Stream) : (s.onStream d f).farCap = s.farCap := State.onLathe_farCap _ _ _
@[simp] theorem State.onStream_keys (d : StreamId) (f : Stream → Stream) : (s.onStream d f).keys = s.keys := State.onLathe_keys _ _ _
@[simp] theorem State.onStream_chip (d : StreamId) (f : Stream → Stream) : (s.onStream d f).chip = s.chip := State.onLathe_chip _ _ _
@[simp] theorem State.onStream_resmap (d : StreamId) (f : Stream → Stream) : (s.onStream d f).resmap = s.resmap := State.onLathe_resmap _ _ _
@[simp] theorem State.onStream_worldmap (d : StreamId) (f : Stream → Stream) : (s.onStream d f).worldmap = s.worldmap := State.onLathe_worldmap _ _ _
@[simp] theorem State.onStream_regions (d : StreamId) (f : Stream → Stream) : (s.onStream d f).regions = s.regions := State.onLathe_regions _ _ _
@[simp] theorem State.onStream_log (d : StreamId) (f : Stream → Stream) : (s.onStream d f).log = s.log := State.onLathe_log _ _ _
@[simp] theorem State.onStream_repwait (d : StreamId) (f : Stream → Stream) : (s.onStream d f).repwait = s.repwait := State.onLathe_repwait _ _ _
@[simp] theorem State.onStream_links (d : StreamId) (f : Stream → Stream) : (s.onStream d f).links = s.links := State.onLathe_links _ _ _
@[simp] theorem State.onStream_islands (d : StreamId) (f : Stream → Stream) : (s.onStream d f).islands = s.islands := State.onLathe_islands _ _ _
@[simp] theorem State.onStream_sample (d : StreamId) (f : Stream → Stream) : (s.onStream d f).sample = s.sample := State.onLathe_sample _ _ _
@[simp] theorem State.onStream_folkai (d : StreamId) (f : Stream → Stream) : (s.onStream d f).folkai = s.folkai := State.onLathe_folkai _ _ _
@[simp] theorem State.onStream_energy (d : StreamId) (f : Stream → Stream) : (s.onStream d f).energy = s.energy := State.onLathe_energy _ _ _
@[simp] theorem State.onStream_telemetry (d : StreamId) (f : Stream → Stream) : (s.onStream d f).telemetry = s.telemetry := State.onLathe_telemetry _ _ _
@[simp] theorem State.onStream_shadowTel (d : StreamId) (f : Stream → Stream) : (s.onStream d f).shadowTel = s.shadowTel := State.onLathe_shadowTel _ _ _
@[simp] theorem State.onStream_tsnap (d : StreamId) (f : Stream → Stream) : (s.onStream d f).tsnap = s.tsnap := State.onLathe_tsnap _ _ _
@[simp] theorem State.onStream_boot (d : StreamId) (f : Stream → Stream) : (s.onStream d f).boot = s.boot := State.onLathe_boot _ _ _
@[simp] theorem State.onStream_collSeq (d : StreamId) (f : Stream → Stream) : (s.onStream d f).collSeq = s.collSeq := State.onLathe_collSeq _ _ _
@[simp] theorem State.onStream_taken (d : StreamId) (f : Stream → Stream) : (s.onStream d f).taken = s.taken := State.onLathe_taken _ _ _
@[simp] theorem State.onStream_orphans (d : StreamId) (f : Stream → Stream) : (s.onStream d f).orphans = s.orphans := State.onLathe_orphans _ _ _
@[simp] theorem State.onStream_trails (d : StreamId) (f : Stream → Stream) : (s.onStream d f).trails = s.trails := State.onLathe_trails _ _ _
@[simp] theorem State.onStream_agenda (d : StreamId) (f : Stream → Stream) : (s.onStream d f).agenda = s.agenda := State.onLathe_agenda _ _ _
@[simp] theorem State.onStream_out (d : StreamId) (f : Stream → Stream) : (s.onStream d f).out = s.out := State.onLathe_out _ _ _
@[simp] theorem State.onStream_cur (d : StreamId) (f : Stream → Stream) : (s.onStream d f).cur = s.cur := State.onLathe_cur _ _ _
@[simp] theorem State.onStream_curStream (d : StreamId) (f : Stream → Stream) : (s.onStream d f).curStream = s.curStream := State.onLathe_curStream _ _ _
@[simp] theorem State.onStream_hdr (d : StreamId) (f : Stream → Stream) : (s.onStream d f).hdr = s.hdr := State.onLathe_hdr _ _ _
@[simp] theorem State.onStream_latch (d : StreamId) (f : Stream → Stream) : (s.onStream d f).latch = s.latch := State.onLathe_latch _ _ _
@[simp] theorem State.onStream_checked (d : StreamId) (f : Stream → Stream) : (s.onStream d f).checked = s.checked := State.onLathe_checked _ _ _
@[simp] theorem State.onStream_free (d : StreamId) (f : Stream → Stream) : (s.onStream d f).free = s.free := State.onLathe_free _ _ _

@[simp] theorem State.onLaunch_power (d : Bool) (k : Nat) (f : Launch → Launch) : (s.onLaunch d k f).power = s.power := State.onLathe_power _ _ _
@[simp] theorem State.onLaunch_ctxs (d : Bool) (k : Nat) (f : Launch → Launch) : (s.onLaunch d k f).ctxs = s.ctxs := State.onLathe_ctxs _ _ _
@[simp] theorem State.onLaunch_saved (d : Bool) (k : Nat) (f : Launch → Launch) : (s.onLaunch d k f).saved = s.saved := State.onLathe_saved _ _ _
@[simp] theorem State.onLaunch_cores (d : Bool) (k : Nat) (f : Launch → Launch) : (s.onLaunch d k f).cores = s.cores := State.onLathe_cores _ _ _
@[simp] theorem State.onLaunch_groups (d : Bool) (k : Nat) (f : Launch → Launch) : (s.onLaunch d k f).groups = s.groups := State.onLathe_groups _ _ _
@[simp] theorem State.onLaunch_stackTab (d : Bool) (k : Nat) (f : Launch → Launch) : (s.onLaunch d k f).stackTab = s.stackTab := State.onLathe_stackTab _ _ _
@[simp] theorem State.onLaunch_rings (d : Bool) (k : Nat) (f : Launch → Launch) : (s.onLaunch d k f).rings = s.rings := State.onLathe_rings _ _ _
@[simp] theorem State.onLaunch_windows (d : Bool) (k : Nat) (f : Launch → Launch) : (s.onLaunch d k f).windows = s.windows := State.onLathe_windows _ _ _
@[simp] theorem State.onLaunch_barriers (d : Bool) (k : Nat) (f : Launch → Launch) : (s.onLaunch d k f).barriers = s.barriers := State.onLathe_barriers _ _ _
@[simp] theorem State.onLaunch_spaces (d : Bool) (k : Nat) (f : Launch → Launch) : (s.onLaunch d k f).spaces = s.spaces := State.onLathe_spaces _ _ _
@[simp] theorem State.onLaunch_cache (d : Bool) (k : Nat) (f : Launch → Launch) : (s.onLaunch d k f).cache = s.cache := State.onLathe_cache _ _ _
@[simp] theorem State.onLaunch_cmds (d : Bool) (k : Nat) (f : Launch → Launch) : (s.onLaunch d k f).cmds = s.cmds := State.onLathe_cmds _ _ _
@[simp] theorem State.onLaunch_nextId (d : Bool) (k : Nat) (f : Launch → Launch) : (s.onLaunch d k f).nextId = s.nextId := State.onLathe_nextId _ _ _
@[simp] theorem State.onLaunch_dev (d : Bool) (k : Nat) (f : Launch → Launch) : (s.onLaunch d k f).dev = s.dev := State.onLathe_dev _ _ _
@[simp] theorem State.onLaunch_host (d : Bool) (k : Nat) (f : Launch → Launch) : (s.onLaunch d k f).host = s.host := State.onLathe_host _ _ _
@[simp] theorem State.onLaunch_peers (d : Bool) (k : Nat) (f : Launch → Launch) : (s.onLaunch d k f).peers = s.peers := State.onLathe_peers _ _ _
@[simp] theorem State.onLaunch_farCap (d : Bool) (k : Nat) (f : Launch → Launch) : (s.onLaunch d k f).farCap = s.farCap := State.onLathe_farCap _ _ _
@[simp] theorem State.onLaunch_keys (d : Bool) (k : Nat) (f : Launch → Launch) : (s.onLaunch d k f).keys = s.keys := State.onLathe_keys _ _ _
@[simp] theorem State.onLaunch_chip (d : Bool) (k : Nat) (f : Launch → Launch) : (s.onLaunch d k f).chip = s.chip := State.onLathe_chip _ _ _
@[simp] theorem State.onLaunch_resmap (d : Bool) (k : Nat) (f : Launch → Launch) : (s.onLaunch d k f).resmap = s.resmap := State.onLathe_resmap _ _ _
@[simp] theorem State.onLaunch_worldmap (d : Bool) (k : Nat) (f : Launch → Launch) : (s.onLaunch d k f).worldmap = s.worldmap := State.onLathe_worldmap _ _ _
@[simp] theorem State.onLaunch_regions (d : Bool) (k : Nat) (f : Launch → Launch) : (s.onLaunch d k f).regions = s.regions := State.onLathe_regions _ _ _
@[simp] theorem State.onLaunch_log (d : Bool) (k : Nat) (f : Launch → Launch) : (s.onLaunch d k f).log = s.log := State.onLathe_log _ _ _
@[simp] theorem State.onLaunch_repwait (d : Bool) (k : Nat) (f : Launch → Launch) : (s.onLaunch d k f).repwait = s.repwait := State.onLathe_repwait _ _ _
@[simp] theorem State.onLaunch_links (d : Bool) (k : Nat) (f : Launch → Launch) : (s.onLaunch d k f).links = s.links := State.onLathe_links _ _ _
@[simp] theorem State.onLaunch_islands (d : Bool) (k : Nat) (f : Launch → Launch) : (s.onLaunch d k f).islands = s.islands := State.onLathe_islands _ _ _
@[simp] theorem State.onLaunch_sample (d : Bool) (k : Nat) (f : Launch → Launch) : (s.onLaunch d k f).sample = s.sample := State.onLathe_sample _ _ _
@[simp] theorem State.onLaunch_folkai (d : Bool) (k : Nat) (f : Launch → Launch) : (s.onLaunch d k f).folkai = s.folkai := State.onLathe_folkai _ _ _
@[simp] theorem State.onLaunch_energy (d : Bool) (k : Nat) (f : Launch → Launch) : (s.onLaunch d k f).energy = s.energy := State.onLathe_energy _ _ _
@[simp] theorem State.onLaunch_telemetry (d : Bool) (k : Nat) (f : Launch → Launch) : (s.onLaunch d k f).telemetry = s.telemetry := State.onLathe_telemetry _ _ _
@[simp] theorem State.onLaunch_shadowTel (d : Bool) (k : Nat) (f : Launch → Launch) : (s.onLaunch d k f).shadowTel = s.shadowTel := State.onLathe_shadowTel _ _ _
@[simp] theorem State.onLaunch_tsnap (d : Bool) (k : Nat) (f : Launch → Launch) : (s.onLaunch d k f).tsnap = s.tsnap := State.onLathe_tsnap _ _ _
@[simp] theorem State.onLaunch_boot (d : Bool) (k : Nat) (f : Launch → Launch) : (s.onLaunch d k f).boot = s.boot := State.onLathe_boot _ _ _
@[simp] theorem State.onLaunch_collSeq (d : Bool) (k : Nat) (f : Launch → Launch) : (s.onLaunch d k f).collSeq = s.collSeq := State.onLathe_collSeq _ _ _
@[simp] theorem State.onLaunch_taken (d : Bool) (k : Nat) (f : Launch → Launch) : (s.onLaunch d k f).taken = s.taken := State.onLathe_taken _ _ _
@[simp] theorem State.onLaunch_orphans (d : Bool) (k : Nat) (f : Launch → Launch) : (s.onLaunch d k f).orphans = s.orphans := State.onLathe_orphans _ _ _
@[simp] theorem State.onLaunch_trails (d : Bool) (k : Nat) (f : Launch → Launch) : (s.onLaunch d k f).trails = s.trails := State.onLathe_trails _ _ _
@[simp] theorem State.onLaunch_agenda (d : Bool) (k : Nat) (f : Launch → Launch) : (s.onLaunch d k f).agenda = s.agenda := State.onLathe_agenda _ _ _
@[simp] theorem State.onLaunch_out (d : Bool) (k : Nat) (f : Launch → Launch) : (s.onLaunch d k f).out = s.out := State.onLathe_out _ _ _
@[simp] theorem State.onLaunch_cur (d : Bool) (k : Nat) (f : Launch → Launch) : (s.onLaunch d k f).cur = s.cur := State.onLathe_cur _ _ _
@[simp] theorem State.onLaunch_curStream (d : Bool) (k : Nat) (f : Launch → Launch) : (s.onLaunch d k f).curStream = s.curStream := State.onLathe_curStream _ _ _
@[simp] theorem State.onLaunch_hdr (d : Bool) (k : Nat) (f : Launch → Launch) : (s.onLaunch d k f).hdr = s.hdr := State.onLathe_hdr _ _ _
@[simp] theorem State.onLaunch_latch (d : Bool) (k : Nat) (f : Launch → Launch) : (s.onLaunch d k f).latch = s.latch := State.onLathe_latch _ _ _
@[simp] theorem State.onLaunch_checked (d : Bool) (k : Nat) (f : Launch → Launch) : (s.onLaunch d k f).checked = s.checked := State.onLathe_checked _ _ _
@[simp] theorem State.onLaunch_free (d : Bool) (k : Nat) (f : Launch → Launch) : (s.onLaunch d k f).free = s.free := State.onLathe_free _ _ _

/-! ### Reading what was written -/

@[simp] theorem State.ctx_setCtx_same (c : CtxId) (x : Ctx) : (s.setCtx c x).ctx c = x := SMap.get_set_same _ _ _ _
@[simp] theorem State.ctx_onCtx_same (c : CtxId) (f : Ctx → Ctx) : (s.onCtx c f).ctx c = f (s.ctx c) := SMap.get_set_same _ _ _ _
@[simp] theorem State.me_onMe (f : Ctx → Ctx) : (s.onMe f).me = f s.me := SMap.get_set_same _ _ _ _
theorem State.ctx_onCtx_other {c d : CtxId} (f : Ctx → Ctx) (h : d.key ≠ c.key) : (s.onCtx c f).ctx d = s.ctx d :=
  SMap.get_set_other _ _ _ h
theorem State.ctx_onMe_other {d : CtxId} (f : Ctx → Ctx) (h : d.key ≠ s.cur.key) : (s.onMe f).ctx d = s.ctx d :=
  SMap.get_set_other _ _ _ h
@[simp] theorem State.core_onCore_same (c : BitVec 16) (f : Core → Core) : (s.onCore c f).core c = f (s.core c) := SMap.get_set_same _ _ _ _
theorem State.core_onCore_other {c d : BitVec 16} (f : Core → Core) (h : d.toNat ≠ c.toNat) : (s.onCore c f).core d = s.core d :=
  SMap.get_set_other _ _ _ h
@[simp] theorem State.group_onGroup_same (g : Nat) (f : Group → Group) : (s.onGroup g f).group g = f (s.group g) := SMap.get_set_same _ _ _ _
theorem State.group_onGroup_other {g k : Nat} (f : Group → Group) (h : k ≠ g) : (s.onGroup g f).group k = s.group k :=
  SMap.get_set_other _ _ _ h
@[simp] theorem State.stack_onStack_same (n : Nat) (f : Stack → Stack) : (s.onStack n f).stack n = f (s.stack n) := SMap.get_set_same _ _ _ _
@[simp] theorem State.ring_onRing_same (n : Nat) (f : Ring → Ring) : (s.onRing n f).ring n = f (s.ring n) := SMap.get_set_same _ _ _ _
theorem State.ring_onRing_other {n k : Nat} (f : Ring → Ring) (h : k ≠ n) : (s.onRing n f).ring k = s.ring k := SMap.get_set_other _ _ _ h
@[simp] theorem State.lathe_onLathe_same (d : Bool) (f : Lathe → Lathe) : (s.onLathe d f).lathe d = f (s.lathe d) := by cases d <;> rfl
@[simp] theorem State.stream_onStream_same (i : StreamId) (f : Stream → Stream) : (s.onStream i f).stream i = f (s.stream i) := by
  simp [State.stream, State.onStream]
@[simp] theorem State.port_onPort_same (n : Nat) (f : Port → Port) : (s.onPort n f).port n = f (s.port n) := SMap.get_set_same _ _ _ _
@[simp] theorem State.island_onIsland_same (n : Nat) (f : Island → Island) : (s.onIsland n f).island n = f (s.island n) := SMap.get_set_same _ _ _ _

end Sys2Proof.Machine
end

