-- ==== Sys2Proof/Laws/Access.lean ====
section
/-! SUPPORT. Laws/Access.lean: what noting the errors of accesses can change, and when what an order holds back has nothing to do. -/

namespace Sys2Proof.Machine

/-! ### Errors that accesses meet (R407) -/

/-- Two states that differ at most in their stacks and in the dies' waits for a repair. -/
def State.sameButErrors (s t : State) : Prop := t = { s with stackTab := t.stackTab, lathe0 := t.lathe0, lathe1 := t.lathe1 }

theorem State.sameButErrors_refl (s : State) : s.sameButErrors s := rfl

theorem State.sameButErrors_trans {s t u : State} (h : s.sameButErrors t) (g : t.sameButErrors u) : s.sameButErrors u := by
  unfold State.sameButErrors at *; rw [g, h]

theorem State.onStack_sameButErrors (s : State) (n : Nat) (f : Stack → Stack) : s.sameButErrors (s.onStack n f) := rfl

theorem State.onLathe_sameButErrors (s : State) (die : Bool) (f : Lathe → Lathe) : s.sameButErrors (s.onLathe die f) := by
  cases die <;> rfl

theorem State.noteUe_sameButErrors (s : State) (st ch bank row : Nat) (column : Option Nat) : s.sameButErrors (s.noteUe st ch bank row column) := by
  unfold State.noteUe State.noteRepair
  split
  · rfl
  · exact State.sameButErrors_trans (t := s.onBank st ch bank fun b => b.noteUe row column) rfl (State.onLathe_sameButErrors _ _ _)

theorem State.meetUe_sameButErrors (s : State) (a : Nat) : s.sameButErrors (s.meetUe a) := by
  unfold State.meetUe
  split
  · exact s.sameButErrors_refl
  · exact s.noteUe_sameButErrors _ _ _ _ _

/-- What reads of sectors can change. -/
theorem State.noteReads_sameButErrors (s : State) (ls : List Place) : s.sameButErrors (s.noteReads ls) := by
  unfold State.noteReads
  split
  · exact s.sameButErrors_refl
  · rename_i h
    clear h
    induction ls generalizing s with
    | nil => exact s.sameButErrors_refl
    | cons pl ls ih =>
      refine State.sameButErrors_trans ?_ (ih _)
      show s.sameButErrors (match pl with
        | .dev a => if s.cellBad a then s.meetUe a else s
        | _ => s)
      split
      · split
        · exact s.meetUe_sameButErrors _
        · exact s.sameButErrors_refl
      · exact s.sameButErrors_refl

/-- What accesses of a die can change by what they read. -/
theorem State.noteAccess_sameButErrors (s : State) (die : Bool) (ls : List Place) : s.sameButErrors (s.noteAccess die ls) :=
  s.noteReads_sameButErrors _

/-- Where no error stands, a read notes none. -/
theorem State.noteReads_noErrors {s : State} (h : s.noErrors = true) (ls : List Place) : s.noteReads ls = s := by simp [State.noteReads, h]

theorem State.noteAccess_noErrors {s : State} (h : s.noErrors = true) (die : Bool) (ls : List Place) : s.noteAccess die ls = s :=
  State.noteReads_noErrors h _

/-! ### Core-store writes that follow no access (R163, R166) -/

/-- Where no write of a context that is due has to follow an access, nothing has to perform before them. -/
theorem State.meetWrites_free {s : State} {c : CtxId}
    (h : ∀ w ∈ (s.core c.core).writes, w.of c.slot (s.ctx c).bid = true → (s.ctx c).holders w = []) : s.meetWrites c = s := by
  have hn : (((s.core c.core).writes.filter fun w => w.of c.slot (s.ctx c).bid && decide (w.due ≤ (s.ctx c).regs.tick)).flatMap (s.ctx c).holders) = [] := by
    rw [List.flatMap_eq_nil_iff]
    intro w hw
    rw [List.mem_filter, Bool.and_eq_true] at hw
    exact h w hw.1 hw.2.1
  simp only [State.meetWrites, hn]

/-- Where no write that copies have left concerns a party, none is made before it acts. -/
theorem State.settleTrails_none {s : State} {p : Trail → Bool} (h : s.trails.any p = false) : s.settleTrails p = s := by
  simp [State.settleTrails, h]

end Sys2Proof.Machine
end

