-- ==== Sys2Proof/Laws/Exec.lean ====
section
/-! SUPPORT. Laws/Exec.lean: `exec` at each constructor is its meaning. -/

namespace Sys2Proof.Machine

@[simp] theorem exec_add (o : _) (s : State) : exec (.add o) s = execAdd o s := rfl
@[simp] theorem exec_addImm (o : _) (s : State) : exec (.addImm o) s = execAddImm o s := rfl
@[simp] theorem exec_sub (o : _) (s : State) : exec (.sub o) s = execSub o s := rfl
@[simp] theorem exec_subImm (o : _) (s : State) : exec (.subImm o) s = execSubImm o s := rfl
@[simp] theorem exec_mul (o : _) (s : State) : exec (.mul o) s = execMul o s := rfl
@[simp] theorem exec_mulImm (o : _) (s : State) : exec (.mulImm o) s = execMulImm o s := rfl
@[simp] theorem exec_mulh (o : _) (s : State) : exec (.mulh o) s = execMulh o s := rfl
@[simp] theorem exec_mulhImm (o : _) (s : State) : exec (.mulhImm o) s = execMulhImm o s := rfl
@[simp] theorem exec_mulhu (o : _) (s : State) : exec (.mulhu o) s = execMulhu o s := rfl
@[simp] theorem exec_mulhuImm (o : _) (s : State) : exec (.mulhuImm o) s = execMulhuImm o s := rfl
@[simp] theorem exec_and (o : _) (s : State) : exec (.and o) s = execAnd o s := rfl
@[simp] theorem exec_andImm (o : _) (s : State) : exec (.andImm o) s = execAndImm o s := rfl
@[simp] theorem exec_or (o : _) (s : State) : exec (.or o) s = execOr o s := rfl
@[simp] theorem exec_orImm (o : _) (s : State) : exec (.orImm o) s = execOrImm o s := rfl
@[simp] theorem exec_xor (o : _) (s : State) : exec (.xor o) s = execXor o s := rfl
@[simp] theorem exec_xorImm (o : _) (s : State) : exec (.xorImm o) s = execXorImm o s := rfl
@[simp] theorem exec_andn (o : _) (s : State) : exec (.andn o) s = execAndn o s := rfl
@[simp] theorem exec_andnImm (o : _) (s : State) : exec (.andnImm o) s = execAndnImm o s := rfl
@[simp] theorem exec_shl (o : _) (s : State) : exec (.shl o) s = execShl o s := rfl
@[simp] theorem exec_shlImm (o : _) (n : _) (s : State) : exec (.shlImm o n) s = execShlImm o n s := rfl
@[simp] theorem exec_shr (o : _) (s : State) : exec (.shr o) s = execShr o s := rfl
@[simp] theorem exec_shrImm (o : _) (n : _) (s : State) : exec (.shrImm o n) s = execShrImm o n s := rfl
@[simp] theorem exec_sar (o : _) (s : State) : exec (.sar o) s = execSar o s := rfl
@[simp] theorem exec_sarImm (o : _) (n : _) (s : State) : exec (.sarImm o n) s = execSarImm o n s := rfl
@[simp] theorem exec_rot (o : _) (s : State) : exec (.rot o) s = execRot o s := rfl
@[simp] theorem exec_rotImm (o : _) (n : _) (s : State) : exec (.rotImm o n) s = execRotImm o n s := rfl
@[simp] theorem exec_min (o : _) (s : State) : exec (.min o) s = execMin o s := rfl
@[simp] theorem exec_minImm (o : _) (s : State) : exec (.minImm o) s = execMinImm o s := rfl
@[simp] theorem exec_max (o : _) (s : State) : exec (.max o) s = execMax o s := rfl
@[simp] theorem exec_maxImm (o : _) (s : State) : exec (.maxImm o) s = execMaxImm o s := rfl
@[simp] theorem exec_minu (o : _) (s : State) : exec (.minu o) s = execMinu o s := rfl
@[simp] theorem exec_minuImm (o : _) (s : State) : exec (.minuImm o) s = execMinuImm o s := rfl
@[simp] theorem exec_maxu (o : _) (s : State) : exec (.maxu o) s = execMaxu o s := rfl
@[simp] theorem exec_maxuImm (o : _) (s : State) : exec (.maxuImm o) s = execMaxuImm o s := rfl
@[simp] theorem exec_clz (o : _) (s : State) : exec (.clz o) s = execClz o s := rfl
@[simp] theorem exec_ctz (o : _) (s : State) : exec (.ctz o) s = execCtz o s := rfl
@[simp] theorem exec_popc (o : _) (s : State) : exec (.popc o) s = execPopc o s := rfl
@[simp] theorem exec_bext (o : _) (sgn : _) (pos : _) (len1 : _) (s : State) : exec (.bext o sgn pos len1) s = execBext o sgn pos len1 s := rfl
@[simp] theorem exec_bins (o : _) (pos : _) (len1 : _) (s : State) : exec (.bins o pos len1) s = execBins o pos len1 s := rfl
@[simp] theorem exec_sext (o : _) (n1 : _) (s : State) : exec (.sext o n1) s = execSext o n1 s := rfl
@[simp] theorem exec_zext (o : _) (n1 : _) (s : State) : exec (.zext o n1) s = execZext o n1 s := rfl
@[simp] theorem exec_abs (o : _) (s : State) : exec (.abs o) s = execAbs o s := rfl
@[simp] theorem exec_sel (o : _) (neg : _) (p : _) (s : State) : exec (.sel o neg p) s = execSel o neg p s := rfl
@[simp] theorem exec_mov (o : _) (s : State) : exec (.mov o) s = execMov o s := rfl
@[simp] theorem exec_li (g : _) (d : _) (imm : _) (s : State) : exec (.li g d imm) s = execLi g d imm s := rfl
@[simp] theorem exec_lih (o : _) (s : State) : exec (.lih o) s = execLih o s := rfl
@[simp] theorem exec_cmp (g : _) (d : _) (a : _) (b : _) (cond : _) (s : State) : exec (.cmp g d a b cond) s = execCmp g d a b cond s := rfl
@[simp] theorem exec_cmpImm (g : _) (d : _) (a : _) (imm : _) (cond : _) (s : State) : exec (.cmpImm g d a imm cond) s = execCmpImm g d a imm cond s := rfl
@[simp] theorem exec_pand (o : _) (s : State) : exec (.pand o) s = execPand o s := rfl
@[simp] theorem exec_por (o : _) (s : State) : exec (.por o) s = execPor o s := rfl
@[simp] theorem exec_pxor (o : _) (s : State) : exec (.pxor o) s = execPxor o s := rfl
@[simp] theorem exec_pnot (g : _) (d : _) (a : _) (s : State) : exec (.pnot g d a) s = execPnot g d a s := rfl
@[simp] theorem exec_pmov (g : _) (d : _) (a : _) (s : State) : exec (.pmov g d a) s = execPmov g d a s := rfl
@[simp] theorem exec_pset (g : _) (d : _) (v : _) (s : State) : exec (.pset g d v) s = execPset g d v s := rfl
@[simp] theorem exec_br (g : _) (c : _) (n : _) (disp : _) (s : State) : exec (.br g c n disp) s = execBr g c n disp s := rfl
@[simp] theorem exec_jmp (g : _) (disp : _) (s : State) : exec (.jmp g disp) s = execJmp g disp s := rfl
@[simp] theorem exec_call (g : _) (a : _) (disp : _) (s : State) : exec (.call g a disp) s = execCall g a disp s := rfl
@[simp] theorem exec_ret (g : _) (a : _) (s : State) : exec (.ret g a) s = execRet g a s := rfl
@[simp] theorem exec_jr (o : _) (s : State) : exec (.jr o) s = execJr o s := rfl
@[simp] theorem exec_bsw (g : _) (a : _) (n1 : _) (disp : _) (s : State) : exec (.bsw g a n1 disp) s = execBsw g a n1 disp s := rfl
@[simp] theorem exec_chk (g : _) (file : _) (a : _) (disp : _) (s : State) : exec (.chk g file a disp) s = execChk g file a disp s := rfl
@[simp] theorem exec_loop (g : _) (lc1 : _) (disp : _) (s : State) : exec (.loop g lc1 disp) s = execLoop g lc1 disp s := rfl
@[simp] theorem exec_lea (o : _) (sh : _) (s : State) : exec (.lea o sh) s = execLea o sh s := rfl
@[simp] theorem exec_leaImm (o : _) (s : State) : exec (.leaImm o) s = execLeaImm o s := rfl
@[simp] theorem exec_madd (o : _) (s : State) : exec (.madd o) s = execMadd o s := rfl
@[simp] theorem exec_maddImm (o : _) (s : State) : exec (.maddImm o) s = execMaddImm o s := rfl
@[simp] theorem exec_cinc (o : _) (k : _) (s : State) : exec (.cinc o k) s = execCinc o k s := rfl
@[simp] theorem exec_cincImm (o : _) (k : _) (s : State) : exec (.cincImm o k) s = execCincImm o k s := rfl
@[simp] theorem exec_rotinit (g : _) (n : _) (s : State) : exec (.rotinit g n) s = execRotinit g n s := rfl
@[simp] theorem exec_stg (g : _) (a : _) (imm : _) (s : State) : exec (.stg g a imm) s = execStg g a imm s := rfl
@[simp] theorem exec_lpr (g : _) (d : _) (n : _) (s : State) : exec (.lpr g d n) s = execLpr g d n s := rfl
@[simp] theorem exec_csrr (g : _) (d : _) (csr : _) (s : State) : exec (.csrr g d csr) s = execCsrr g d csr s := rfl
@[simp] theorem exec_csrw (o : _) (s : State) : exec (.csrw o) s = execCsrw o s := rfl
@[simp] theorem exec_csrs (o : _) (s : State) : exec (.csrs o) s = execCsrs o s := rfl
@[simp] theorem exec_csrc (o : _) (s : State) : exec (.csrc o) s = execCsrc o s := rfl
@[simp] theorem exec_trap (g : _) (code : _) (s : State) : exec (.trap g code) s = execTrap g code s := rfl
@[simp] theorem exec_brk (g : _) (code : _) (s : State) : exec (.brk g code) s = execBrk g code s := rfl
@[simp] theorem exec_dpset (g : _) (a : _) (ring : _) (s : State) : exec (.dpset g a ring) s = execDpset g a ring s := rfl
@[simp] theorem exec_ttinv (g : _) (a : _) (b : _) (ring : _) (kind : _) (s : State) : exec (.ttinv g a b ring kind) s = execTtinv g a b ring kind s := rfl
@[simp] theorem exec_ownset (g : _) (a : _) (b : _) (count1 : _) (s : State) : exec (.ownset g a b count1) s = execOwnset g a b count1 s := rfl
@[simp] theorem exec_vAdd (o : _) (s : State) : exec (.vAdd o) s = execVAdd o s := rfl
@[simp] theorem exec_vSub (o : _) (s : State) : exec (.vSub o) s = execVSub o s := rfl
@[simp] theorem exec_vMul (o : _) (s : State) : exec (.vMul o) s = execVMul o s := rfl
@[simp] theorem exec_vFma (o : _) (s : State) : exec (.vFma o) s = execVFma o s := rfl
@[simp] theorem exec_vFms (o : _) (s : State) : exec (.vFms o) s = execVFms o s := rfl
@[simp] theorem exec_vFnma (o : _) (s : State) : exec (.vFnma o) s = execVFnma o s := rfl
@[simp] theorem exec_vMin (o : _) (s : State) : exec (.vMin o) s = execVMin o s := rfl
@[simp] theorem exec_vMax (o : _) (s : State) : exec (.vMax o) s = execVMax o s := rfl
@[simp] theorem exec_vAbs (o : _) (s : State) : exec (.vAbs o) s = execVAbs o s := rfl
@[simp] theorem exec_vNeg (o : _) (s : State) : exec (.vNeg o) s = execVNeg o s := rfl
@[simp] theorem exec_vDot4 (o : _) (s : State) : exec (.vDot4 o) s = execVDot4 o s := rfl
@[simp] theorem exec_vCmp (o : _) (s : State) : exec (.vCmp o) s = execVCmp o s := rfl
@[simp] theorem exec_vSel (o : _) (s : State) : exec (.vSel o) s = execVSel o s := rfl
@[simp] theorem exec_vAnd (o : _) (s : State) : exec (.vAnd o) s = execVAnd o s := rfl
@[simp] theorem exec_vOr (o : _) (s : State) : exec (.vOr o) s = execVOr o s := rfl
@[simp] theorem exec_vXor (o : _) (s : State) : exec (.vXor o) s = execVXor o s := rfl
@[simp] theorem exec_vNot (o : _) (s : State) : exec (.vNot o) s = execVNot o s := rfl
@[simp] theorem exec_vShl (o : _) (s : State) : exec (.vShl o) s = execVShl o s := rfl
@[simp] theorem exec_vShr (o : _) (s : State) : exec (.vShr o) s = execVShr o s := rfl
@[simp] theorem exec_vSar (o : _) (s : State) : exec (.vSar o) s = execVSar o s := rfl
@[simp] theorem exec_vCvt (o : _) (s : State) : exec (.vCvt o) s = execVCvt o s := rfl
@[simp] theorem exec_vPack (o : _) (s : State) : exec (.vPack o) s = execVPack o s := rfl
@[simp] theorem exec_vUnpack (o : _) (s : State) : exec (.vUnpack o) s = execVUnpack o s := rfl
@[simp] theorem exec_vExp2 (o : _) (s : State) : exec (.vExp2 o) s = execVExp2 o s := rfl
@[simp] theorem exec_vLog2 (o : _) (s : State) : exec (.vLog2 o) s = execVLog2 o s := rfl
@[simp] theorem exec_vRcp (o : _) (s : State) : exec (.vRcp o) s = execVRcp o s := rfl
@[simp] theorem exec_vRsqrt (o : _) (s : State) : exec (.vRsqrt o) s = execVRsqrt o s := rfl
@[simp] theorem exec_vSqrt (o : _) (s : State) : exec (.vSqrt o) s = execVSqrt o s := rfl
@[simp] theorem exec_vTanh (o : _) (s : State) : exec (.vTanh o) s = execVTanh o s := rfl
@[simp] theorem exec_vRadd (o : _) (s : State) : exec (.vRadd o) s = execVRadd o s := rfl
@[simp] theorem exec_vRmax (o : _) (s : State) : exec (.vRmax o) s = execVRmax o s := rfl
@[simp] theorem exec_vRmin (o : _) (s : State) : exec (.vRmin o) s = execVRmin o s := rfl
@[simp] theorem exec_vSadd (o : _) (s : State) : exec (.vSadd o) s = execVSadd o s := rfl
@[simp] theorem exec_vPerm (o : _) (s : State) : exec (.vPerm o) s = execVPerm o s := rfl
@[simp] theorem exec_vShuf (o : _) (s : State) : exec (.vShuf o) s = execVShuf o s := rfl
@[simp] theorem exec_vBcast (o : _) (s : State) : exec (.vBcast o) s = execVBcast o s := rfl
@[simp] theorem exec_vSlide (o : _) (s : State) : exec (.vSlide o) s = execVSlide o s := rfl
@[simp] theorem exec_vMov (o : _) (s : State) : exec (.vMov o) s = execVMov o s := rfl
@[simp] theorem exec_vMovi (u : _) (m : _) (ty : _) (vd : _) (imm : _) (s : State) : exec (.vMovi u m ty vd imm) s = execVMovi u m ty vd imm s := rfl
@[simp] theorem exec_vMand (o : _) (s : State) : exec (.vMand o) s = execVMand o s := rfl
@[simp] theorem exec_vMor (o : _) (s : State) : exec (.vMor o) s = execVMor o s := rfl
@[simp] theorem exec_vMxor (o : _) (s : State) : exec (.vMxor o) s = execVMxor o s := rfl
@[simp] theorem exec_vMnot (o : _) (s : State) : exec (.vMnot o) s = execVMnot o s := rfl
@[simp] theorem exec_dup (s : State) : exec (.dup) s = execDup s := rfl
@[simp] theorem exec_xs2v (a : _) (vd : _) (all : _) (j : _) (s : State) : exec (.xs2v a vd all j) s = execXs2v a vd all j s := rfl
@[simp] theorem exec_xv2s (d : _) (va : _) (j : _) (s : State) : exec (.xv2s d va j) s = execXv2s d va j s := rfl
@[simp] theorem exec_xm2s (d : _) (m : _) (h : _) (s : State) : exec (.xm2s d m h) s = execXm2s d m h s := rfl
@[simp] theorem exec_xs2m (a : _) (m : _) (h : _) (s : State) : exec (.xs2m a m h) s = execXs2m a m h s := rfl
@[simp] theorem exec_sld (l : _) (va : _) (a : _) (s : State) : exec (.sld l va a) s = execSld l va a s := rfl
@[simp] theorem exec_szp (l : _) (va : _) (a : _) (g : _) (s : State) : exec (.szp l va a g) s = execSzp l va a g s := rfl
@[simp] theorem exec_sclr (l : _) (a : _) (s : State) : exec (.sclr l a) s = execSclr l a s := rfl
@[simp] theorem exec_mma (o : _) (s : State) : exec (.mma o) s = execMma o s := rfl
@[simp] theorem exec_mmr (o : _) (s : State) : exec (.mmr o) s = execMmr o s := rfl
@[simp] theorem exec_mzero (g : _) (tile : _) (s : State) : exec (.mzero g tile) s = execMzero g tile s := rfl
@[simp] theorem exec_mst (o : _) (s : State) : exec (.mst o) s = execMst o s := rfl
@[simp] theorem exec_mld (o : _) (s : State) : exec (.mld o) s = execMld o s := rfl
@[simp] theorem exec_mrd (o : _) (s : State) : exec (.mrd o) s = execMrd o s := rfl
@[simp] theorem exec_mwr (o : _) (s : State) : exec (.mwr o) s = execMwr o s := rfl
@[simp] theorem exec_ldc (o : _) (s : State) : exec (.ldc o) s = execLdc o s := rfl
@[simp] theorem exec_ldk (o : _) (s : State) : exec (.ldk o) s = execLdk o s := rfl
@[simp] theorem exec_ldd (o : _) (s : State) : exec (.ldd o) s = execLdd o s := rfl
@[simp] theorem exec_ldm (o : _) (s : State) : exec (.ldm o) s = execLdm o s := rfl
@[simp] theorem exec_ldf (o : _) (s : State) : exec (.ldf o) s = execLdf o s := rfl
@[simp] theorem exec_ldh (o : _) (s : State) : exec (.ldh o) s = execLdh o s := rfl
@[simp] theorem exec_ldw (o : _) (s : State) : exec (.ldw o) s = execLdw o s := rfl
@[simp] theorem exec_ldsw (o : _) (s : State) : exec (.ldsw o) s = execLdsw o s := rfl
@[simp] theorem exec_ldsm (o : _) (s : State) : exec (.ldsm o) s = execLdsm o s := rfl
@[simp] theorem exec_ldgc (o : _) (s : State) : exec (.ldgc o) s = execLdgc o s := rfl
@[simp] theorem exec_stc (o : _) (s : State) : exec (.stc o) s = execStc o s := rfl
@[simp] theorem exec_stk (o : _) (s : State) : exec (.stk o) s = execStk o s := rfl
@[simp] theorem exec_std (o : _) (s : State) : exec (.std o) s = execStd o s := rfl
@[simp] theorem exec_stm (o : _) (s : State) : exec (.stm o) s = execStm o s := rfl
@[simp] theorem exec_stf (o : _) (s : State) : exec (.stf o) s = execStf o s := rfl
@[simp] theorem exec_sth (o : _) (s : State) : exec (.sth o) s = execSth o s := rfl
@[simp] theorem exec_stsc (o : _) (s : State) : exec (.stsc o) s = execStsc o s := rfl
@[simp] theorem exec_amo (o : _) (s : State) : exec (.amo o) s = execAmo o s := rfl
@[simp] theorem exec_cpy (o : _) (s : State) : exec (.cpy o) s = execCpy o s := rfl
@[simp] theorem exec_gx (o : _) (s : State) : exec (.gx o) s = execGx o s := rfl
@[simp] theorem exec_wdef (g : _) (w : _) (b : _) (n : _) (s : State) : exec (.wdef g w b n) s = execWdef g w b n s := rfl
@[simp] theorem exec_wadv (g : _) (w : _) (n : _) (count1 : _) (s : State) : exec (.wadv g w n count1) s = execWadv g w n count1 s := rfl
@[simp] theorem exec_lb (g : _) (h : _) (b : _) (c : _) (ring : _) (count1 : _) (s : State) : exec (.lb g h b c ring count1) s = execLb g h b c ring count1 s := rfl
@[simp] theorem exec_lbe (g : _) (h : _) (b : _) (c : _) (ring : _) (s : State) : exec (.lbe g h b c ring) s = execLbe g h b c ring s := rfl
@[simp] theorem exec_coll (o : _) (s : State) : exec (.coll o) s = execColl o s := rfl
@[simp] theorem exec_csig (o : _) (s : State) : exec (.csig o) s = execCsig o s := rfl
@[simp] theorem exec_csigRing (o : _) (s : State) : exec (.csigRing o) s = execCsigRing o s := rfl
@[simp] theorem exec_frp (g : _) (a : _) (ty : _) (count1 : _) (s : State) : exec (.frp g a ty count1) s = execFrp g a ty count1 s := rfl
@[simp] theorem exec_frt (g : _) (pd : _) (sO : _) (sE : _) (lpT : _) (lpL : _) (lpS : _) (s : State) : exec (.frt g pd sO sE lpT lpL lpS) s = execFrt g pd sO sE lpT lpL lpS s := rfl
@[simp] theorem exec_fru (g : _) (sE : _) (sO : _) (s : State) : exec (.fru g sE sO) s = execFru g sE sO s := rfl
@[simp] theorem exec_fruSkip (g : _) (sE : _) (s : State) : exec (.fruSkip g sE) s = execFruSkip g sE s := rfl
@[simp] theorem exec_frs (g : _) (sF : _) (sC : _) (sN : _) (ty : _) (lpS : _) (dis : _) (s : State) : exec (.frs g sF sC sN ty lpS dis) s = execFrs g sF sC sN ty lpS dis s := rfl
@[simp] theorem exec_ract (g : _) (ch : _) (bank : _) (a : _) (s : State) : exec (.ract g ch bank a) s = execRact g ch bank a s := rfl
@[simp] theorem exec_rpre (g : _) (ch : _) (all : _) (bank : _) (s : State) : exec (.rpre g ch all bank) s = execRpre g ch all bank s := rfl
@[simp] theorem exec_rld (g : _) (rb : _) (ch : _) (bank : _) (s : State) : exec (.rld g rb ch bank) s = execRld g rb ch bank s := rfl
@[simp] theorem exec_rstw (g : _) (rb : _) (ch : _) (bank : _) (s : State) : exec (.rstw g rb ch bank) s = execRstw g rb ch bank s := rfl
@[simp] theorem exec_rref (g : _) (ch : _) (set : _) (s : State) : exec (.rref g ch set) s = execRref g ch set s := rfl
@[simp] theorem exec_awaitf (d : _) (ring : _) (s : State) : exec (.awaitf d ring) s = execAwaitf d ring s := rfl
@[simp] theorem exec_rels (ring : _) (s : State) : exec (.rels ring) s = execRels ring s := rfl
@[simp] theorem exec_waitr (spaces : _) (s : State) : exec (.waitr spaces) s = execWaitr spaces s := rfl
@[simp] theorem exec_fence (scope : _) (s : State) : exec (.fence scope) s = execFence scope s := rfl
@[simp] theorem exec_bar (cluster : _) (id : _) (count1 : _) (s : State) : exec (.bar cluster id count1) s = execBar cluster id count1 s := rfl
@[simp] theorem exec_tend (s : State) : exec (.tend) s = execTend s := rfl
@[simp] theorem exec_yield (n1 : _) (s : State) : exec (.yield n1) s = execYield n1 s := rfl
@[simp] theorem exec_ckeq (pred : _) (a : _) (b : _) (s : State) : exec (.ckeq pred a b) s = execCkeq pred a b s := rfl
@[simp] theorem exec_wtime (a : _) (rel : _) (s : State) : exec (.wtime a rel) s = execWtime a rel s := rfl
@[simp] theorem exec_issueCycle (core : _) (s : State) : exec (.issueCycle core) s = execIssueCycle core s := rfl
@[simp] theorem exec_faultQueueRetry (c : _) (s : State) : exec (.faultQueueRetry c) s = execFaultQueueRetry c s := rfl
@[simp] theorem exec_resultLand (c : _) (s : State) : exec (.resultLand c) s = execResultLand c s := rfl
@[simp] theorem exec_tileFree (c : _) (t : _) (s : State) : exec (.tileFree c t) s = execTileFree c t s := rfl
@[simp] theorem exec_bankStallEnd (c : _) (s : State) : exec (.bankStallEnd c) s = execBankStallEnd c s := rfl
@[simp] theorem exec_engineProbeDone (c : _) (s : State) : exec (.engineProbeDone c) s = execEngineProbeDone c s := rfl
@[simp] theorem exec_translationWalkDone (c : _) (s : State) : exec (.translationWalkDone c) s = execTranslationWalkDone c s := rfl
@[simp] theorem exec_queuedAccessPerform (c : _) (q : _) (s : State) : exec (.queuedAccessPerform c q) s = execQueuedAccessPerform c q s := rfl
@[simp] theorem exec_variableResultArrive (c : _) (s : State) : exec (.variableResultArrive c) s = execVariableResultArrive c s := rfl
@[simp] theorem exec_registerUe (c : _) (s : State) : exec (.registerUe c) s = execRegisterUe c s := rfl
@[simp] theorem exec_awaitfWake (c : _) (s : State) : exec (.awaitfWake c) s = execAwaitfWake c s := rfl
@[simp] theorem exec_relsWake (c : _) (s : State) : exec (.relsWake c) s = execRelsWake c s := rfl
@[simp] theorem exec_wtimeDeadline (c : _) (s : State) : exec (.wtimeDeadline c) s = execWtimeDeadline c s := rfl
@[simp] theorem exec_tendDrainDone (c : _) (s : State) : exec (.tendDrainDone c) s = execTendDrainDone c s := rfl
@[simp] theorem exec_taskStart (c : _) (s : State) : exec (.taskStart c) s = execTaskStart c s := rfl
@[simp] theorem exec_taskDispatch (die : _) (s : State) : exec (.taskDispatch die) s = execTaskDispatch die s := rfl
@[simp] theorem exec_stepOpen (st : _) (s : State) : exec (.stepOpen st) s = execStepOpen st s := rfl
@[simp] theorem exec_watchdogExpire (st : _) (s : State) : exec (.watchdogExpire st) s = execWatchdogExpire st s := rfl
@[simp] theorem exec_copyChunkDone (cmd : _) (s : State) : exec (.copyChunkDone cmd) s = execCopyChunkDone cmd s := rfl
@[simp] theorem exec_copyReprobe (cmd : _) (s : State) : exec (.copyReprobe cmd) s = execCopyReprobe cmd s := rfl
@[simp] theorem exec_heldCompletionPost (ring : _) (s : State) : exec (.heldCompletionPost ring) s = execHeldCompletionPost ring s := rfl
@[simp] theorem exec_windowRowFilled (cmd : _) (s : State) : exec (.windowRowFilled cmd) s = execWindowRowFilled cmd s := rfl
@[simp] theorem exec_blockFillDone (cmd : _) (s : State) : exec (.blockFillDone cmd) s = execBlockFillDone cmd s := rfl
@[simp] theorem exec_lbeWritebackDone (cmd : _) (s : State) : exec (.lbeWritebackDone cmd) s = execLbeWritebackDone cmd s := rfl
@[simp] theorem exec_dpsetDone (cmd : _) (s : State) : exec (.dpsetDone cmd) s = execDpsetDone cmd s := rfl
@[simp] theorem exec_ttinvDone (cmd : _) (s : State) : exec (.ttinvDone cmd) s = execTtinvDone cmd s := rfl
@[simp] theorem exec_collProceed (cmd : _) (offers : _) (s : State) : exec (.collProceed cmd offers) s = execCollProceed cmd offers s := rfl
@[simp] theorem exec_collChunkDone (cmd : _) (parts : _) (s : State) : exec (.collChunkDone cmd parts) s = execCollChunkDone cmd parts s := rfl
@[simp] theorem exec_csigDeliver (st : _) (s : State) : exec (.csigDeliver st) s = execCsigDeliver st s := rfl
@[simp] theorem exec_csigAck (cmd : _) (dropped : _) (s : State) : exec (.csigAck cmd dropped) s = execCsigAck cmd dropped s := rfl
@[simp] theorem exec_csigFail (cmd : _) (s : State) : exec (.csigFail cmd) s = execCsigFail cmd s := rfl
@[simp] theorem exec_refreshGuard (stack : _) (ch : _) (set : _) (s : State) : exec (.refreshGuard stack ch set) s = execRefreshGuard stack ch set s := rfl
@[simp] theorem exec_repairWindow (die : _) (s : State) : exec (.repairWindow die) s = execRepairWindow die s := rfl
@[simp] theorem exec_repwaitExpire (die : _) (s : State) : exec (.repwaitExpire die) s = execRepwaitExpire die s := rfl
@[simp] theorem exec_deckTagError (group : _) (block : _) (correctable : _) (s : State) : exec (.deckTagError group block correctable) s = execDeckTagError group block correctable s := rfl
@[simp] theorem exec_errorLogRetry (s : State) : exec (.errorLogRetry) s = execErrorLogRetry s := rfl
@[simp] theorem exec_nop (h : _) (s : State) : exec (.nop h) s = execNop h s := rfl
@[simp] theorem exec_launch (h : _) (a : _) (s : State) : exec (.launch h a) s = execLaunch h a s := rfl
@[simp] theorem exec_waitValue (h : _) (a : _) (s : State) : exec (.waitValue h a) s = execWaitValue h a s := rfl
@[simp] theorem exec_waitValuePoll (st : _) (s : State) : exec (.waitValuePoll st) s = execWaitValuePoll st s := rfl
@[simp] theorem exec_signalWrite (h : _) (a : _) (s : State) : exec (.signalWrite h a) s = execSignalWrite h a s := rfl
@[simp] theorem exec_signalAdd (h : _) (a : _) (s : State) : exec (.signalAdd h a) s = execSignalAdd h a s := rfl
@[simp] theorem exec_signalOr (h : _) (a : _) (s : State) : exec (.signalOr h a) s = execSignalOr h a s := rfl
@[simp] theorem exec_preemptPoint (h : _) (s : State) : exec (.preemptPoint h) s = execPreemptPoint h s := rfl
@[simp] theorem exec_setAs (h : _) (a : _) (s : State) : exec (.setAs h a) s = execSetAs h a s := rfl
@[simp] theorem exec_clearAs (h : _) (asid : _) (s : State) : exec (.clearAs h asid) s = execClearAs h asid s := rfl
@[simp] theorem exec_placeTpl (h : _) (a : _) (s : State) : exec (.placeTpl h a) s = execPlaceTpl h a s := rfl
@[simp] theorem exec_dropTpl (h : _) (a : _) (s : State) : exec (.dropTpl h a) s = execDropTpl h a s := rfl
@[simp] theorem exec_bindCtx (h : _) (a : _) (s : State) : exec (.bindCtx h a) s = execBindCtx h a s := rfl
@[simp] theorem exec_unbindCtx (h : _) (c : _) (s : State) : exec (.unbindCtx h c) s = execUnbindCtx h c s := rfl
@[simp] theorem exec_resumeCtx (h : _) (c : _) (s : State) : exec (.resumeCtx h c) s = execResumeCtx h c s := rfl
@[simp] theorem exec_resumeCtxRetry (h : _) (c : _) (s : State) : exec (.resumeCtxRetry h c) s = execResumeCtxRetry h c s := rfl
@[simp] theorem exec_preemptAtPoint (h : _) (st : _) (s : State) : exec (.preemptAtPoint h st) s = execPreemptAtPoint h st s := rfl
@[simp] theorem exec_preemptStep (h : _) (st : _) (s : State) : exec (.preemptStep h st) s = execPreemptStep h st s := rfl
@[simp] theorem exec_preemptTask (h : _) (st : _) (s : State) : exec (.preemptTask h st) s = execPreemptTask h st s := rfl
@[simp] theorem exec_preemptBundle (h : _) (st : _) (s : State) : exec (.preemptBundle h st) s = execPreemptBundle h st s := rfl
@[simp] theorem exec_preemptDone (st : _) (s : State) : exec (.preemptDone st) s = execPreemptDone st s := rfl
@[simp] theorem exec_saveCtx (h : _) (a : _) (s : State) : exec (.saveCtx h a) s = execSaveCtx h a s := rfl
@[simp] theorem exec_restoreCtx (h : _) (a : _) (s : State) : exec (.restoreCtx h a) s = execRestoreCtx h a s := rfl
@[simp] theorem exec_resumeStream (h : _) (st : _) (s : State) : exec (.resumeStream h st) s = execResumeStream h st s := rfl
@[simp] theorem exec_leaseWrite (stack : _) (ch : _) (v : _) (s : State) : exec (.leaseWrite stack ch v) s = execLeaseWrite stack ch v s := rfl
@[simp] theorem exec_leaseHandoverEnd (stack : _) (ch : _) (s : State) : exec (.leaseHandoverEnd stack ch) s = execLeaseHandoverEnd stack ch s := rfl
@[simp] theorem exec_modeRegisterWrite (stack : _) (ch : _) (bank : _) (s : State) : exec (.modeRegisterWrite stack ch bank) s = execModeRegisterWrite stack ch bank s := rfl
@[simp] theorem exec_tsnap (v : _) (s : State) : exec (.tsnap v) s = execTsnap v s := rfl
@[simp] theorem exec_linkAdminWrite (port : _) (v : _) (s : State) : exec (.linkAdminWrite port v) s = execLinkAdminWrite port v s := rfl
@[simp] theorem exec_keySlotWrite (slot : _) (folkai : _) (dataKey : _) (tweakKey : _) (valid : _) (s : State) : exec (.keySlotWrite slot folkai dataKey tweakKey valid) s = execKeySlotWrite slot folkai dataKey tweakKey valid s := rfl
@[simp] theorem exec_doorbell (st : _) (tail : _) (s : State) : exec (.doorbell st tail) s = execDoorbell st tail s := rfl
@[simp] theorem exec_watchdogClear (st : _) (v : _) (s : State) : exec (.watchdogClear st v) s = execWatchdogClear st v s := rfl
@[simp] theorem exec_registerWrite (off : _) (folkai : _) (v : _) (s : State) : exec (.registerWrite off folkai v) s = execRegisterWrite off folkai v s := rfl
@[simp] theorem exec_hostDataWrite (addr : _) (bytes : _) (s : State) : exec (.hostDataWrite addr bytes) s = execHostDataWrite addr bytes s := rfl
@[simp] theorem exec_hostDataRead (addr : _) (len : _) (s : State) : exec (.hostDataRead addr len) s = execHostDataRead addr len s := rfl
@[simp] theorem exec_mivisFlit (port : _) (crcOk : _) (body : _) (s : State) : exec (.mivisFlit port crcOk body) s = execMivisFlit port crcOk body s := rfl
@[simp] theorem exec_linkDown (port : _) (s : State) : exec (.linkDown port) s = execLinkDown port s := rfl
@[simp] theorem exec_linkDownTimeout (port : _) (s : State) : exec (.linkDownTimeout port) s = execLinkDownTimeout port s := rfl
@[simp] theorem exec_linkTrained (port : _) (reported : _) (s : State) : exec (.linkTrained port reported) s = execLinkTrained port reported s := rfl
@[simp] theorem exec_linkHoldExpire (port : _) (s : State) : exec (.linkHoldExpire port) s = execLinkHoldExpire port s := rfl
@[simp] theorem exec_changeRecord (r : _) (s : State) : exec (.changeRecord r) s = execChangeRecord r s := rfl
@[simp] theorem exec_keeperBatch (s : State) : exec (.keeperBatch) s = execKeeperBatch s := rfl
@[simp] theorem exec_epochBatchApply (b : _) (s : State) : exec (.epochBatchApply b) s = execEpochBatchApply b s := rfl
@[simp] theorem exec_timeSync (offset : _) (s : State) : exec (.timeSync offset) s = execTimeSync offset s := rfl
@[simp] theorem exec_powerSample (x : _) (s : State) : exec (.powerSample x) s = execPowerSample x s := rfl
@[simp] theorem exec_frequencyAdjust (rise : _) (s : State) : exec (.frequencyAdjust rise) s = execFrequencyAdjust rise s := rfl
@[simp] theorem exec_moduleStart (x : _) (s : State) : exec (.moduleStart x) s = execModuleStart x s := rfl
@[simp] theorem exec_worldChange (t : _) (secured : _) (s : State) : exec (.worldChange t secured) s = execWorldChange t secured s := rfl
@[simp] theorem exec_updateBegin (kind : _) (len : _) (s : State) : exec (.updateBegin kind len) s = execUpdateBegin kind len s := rfl
@[simp] theorem exec_updateData (off : _) (bytes : _) (s : State) : exec (.updateData off bytes) s = execUpdateData off bytes s := rfl
@[simp] theorem exec_updateEnd (s : State) : exec (.updateEnd) s = execUpdateEnd s := rfl
@[simp] theorem exec_activate (kind : _) (s : State) : exec (.activate kind) s = execActivate kind s := rfl
@[simp] theorem exec_readJournal (s : State) : exec (.readJournal) s = execReadJournal s := rfl
@[simp] theorem exec_evidence (nonce : _) (s : State) : exec (.evidence nonce) s = execEvidence nonce s := rfl
@[simp] theorem exec_setCap (island : _) (mhz : _) (s : State) : exec (.setCap island mhz) s = execSetCap island mhz s := rfl
@[simp] theorem exec_clearMarks (s : State) : exec (.clearMarks) s = execClearMarks s := rfl
@[simp] theorem exec_powerLoss (s : State) : exec (.powerLoss) s = execPowerLoss s := rfl

end Sys2Proof.Machine
end

