-- ==== Sys2Proof/Laws/Memory.lean ====
section
/-! SUPPORT. Laws/Memory.lean: every operation on a space of bytes keeps its canonical form, and reads what it wrote. -/

namespace Sys2Proof.Machine

theorem Memory.wf_iff (m : Memory) :
    m.wf = true ↔ SMap.wf Memory.fill m.bytes = true ∧ SMap.wf 0 m.codeDiff = true ∧ SMap.wf false m.poison = true := by
  simp only [Memory.wf, Bool.and_eq_true, and_assoc]

theorem Memory.wf_empty : Memory.empty.wf = true := rfl

theorem Memory.wf_putBytes {m : Memory} (a : Nat) (bs : List Byte) (h : m.wf = true) : (m.putBytes a bs).wf = true := by
  rw [Memory.wf_iff] at *
  exact ⟨SMap.wf_setList _ a bs h.1, h.2⟩

theorem Memory.wf_setSector {m : Memory} (a : Nat) (x : Sector) (h : m.wf = true) : (m.setSector a x).wf = true := by
  rw [Memory.wf_iff] at *
  exact ⟨SMap.wf_setList _ _ _ h.1, SMap.wf_set _ _ _ h.2.1, SMap.wf_set _ _ _ h.2.2⟩

/-- A fold of steps that keep the form keeps it. -/
theorem Memory.wf_foldl {β : Type} (f : Memory → β → Memory) (hf : ∀ m b, m.wf = true → (f m b).wf = true) (l : List β) {m : Memory}
    (h : m.wf = true) : (l.foldl f m).wf = true := by
  induction l generalizing m with
  | nil => exact h
  | cons b r ih => exact ih (hf m b h)

theorem Memory.wf_store {m : Memory} (a : Nat) (bs : List Byte) (h : m.wf = true) : (m.store a bs).wf = true := by
  unfold Memory.store
  split
  · exact Memory.wf_foldl _ (fun m i hm => Memory.wf_setSector _ _ hm) _ h
  · exact Memory.wf_setSector _ _ h

theorem CoreWrite.wf_mergeLane (c : BitVec 16) (w : CoreWrite) {m : Memory} (i : Nat) (h : m.wf = true) : (w.mergeLane c m i).wf = true := by
  unfold CoreWrite.mergeLane
  split
  · exact Memory.wf_setSector _ _ h
  · exact h

theorem CoreWrite.wf_putSector (c : BitVec 16) (w : CoreWrite) {m : Memory} (i : Nat) (h : m.wf = true) : (w.putSector c m i).wf = true := by
  unfold CoreWrite.putSector
  split
  · exact Memory.wf_setSector _ _ h
  · exact Memory.wf_foldl _ (fun m i hm => CoreWrite.wf_mergeLane c w _ hm) _ h

theorem Memory.wf_coreWrite (c : BitVec 16) {m : Memory} (w : CoreWrite) (h : m.wf = true) : (m.coreWrite c w).wf = true := by
  unfold Memory.coreWrite
  split
  · exact Memory.wf_foldl _ (fun _ i hm => CoreWrite.wf_putSector c w i hm) _ h
  · exact Memory.wf_foldl _ (fun _ i hm => CoreWrite.wf_mergeLane c w i hm) _ h

/-- What lies over a core store keeps its form: one layer, all of them, those that sink into the store, and another party's write. -/
theorem CoreLayer.wf_onto (c : BitVec 16) {m : Memory} (l : CoreLayer) (h : m.wf = true) : (l.onto c m).wf = true := by
  cases l with
  | write w b => exact Memory.wf_coreWrite c w h
  | sector o x k => exact Memory.wf_setSector _ _ h

theorem Core.wf_seen (c : BitVec 16) {k : Core} (h : k.store.wf = true) : (k.seen c).wf = true :=
  Memory.wf_foldl _ (fun _ l => CoreLayer.wf_onto c l) _ h

theorem Core.wf_sink (c : BitVec 16) {k : Core} (h : k.store.wf = true) : (k.sink c).store.wf = true :=
  Memory.wf_foldl _ (fun _ l => CoreLayer.wf_onto c l) _ h

theorem Core.wf_putSector (c : BitVec 16) (off : Nat) (x : Sector) (mask : BitVec 256) {k : Core} (h : k.store.wf = true) :
    (k.putSector c off x mask).store.wf = true := by
  unfold Core.putSector
  split
  · exact Memory.wf_setSector _ _ h
  · exact h

@[simp] theorem Core.publish_store (c : BitVec 16) (p : CoreWrite → Bool) (k : Core) : (k.publish c p).store = k.store := rfl

/-- A write that nothing of its own binding has to follow comes to lie on top. -/
theorem addWrite_top (c : BitVec 16) (l : List CoreLayer) (w : CoreWrite) (h : ∀ x ∈ l, x.follows w = false) : addWrite c l w = l ++ [.write w true] := by
  unfold addWrite
  rw [if_neg]
  simp only [Bool.not_eq_true, List.any_eq_false, Bool.and_eq_true, not_and]
  exact fun x hx hf => absurd hf (by simp [h x hx])

/-- A sector of a frame that no key pair enciphers goes through the port as it is. -/
@[simp] theorem throughPort_plain (s : State) (enc : Bool) {l : Loc} (bs : List Byte) (h : l.key = none) : s.throughPort enc l bs = bs := by
  simp [State.throughPort, h]

theorem Memory.wf_wipe {m : Memory} (p : Nat → Bool) (h : m.wf = true) : (m.wipe p).wf = true := by
  rw [Memory.wf_iff] at *
  exact ⟨SMap.wf_filter _ _ h.1, SMap.wf_filter _ _ h.2.1, SMap.wf_filter _ _ h.2.2⟩

/-- A byte outside the bytes put reads as before. -/
theorem Memory.byte_putBytes_other (m : Memory) (a : Nat) (bs : List Byte) {b : Nat} (h : b < a ∨ a + bs.length ≤ b) :
    (m.putBytes a bs).byte b = m.byte b := SMap.get_setList_other _ _ _ _ h

/-- A byte put reads as it was put. -/
theorem Memory.byte_putBytes_same (m : Memory) (a : Nat) (bs : List Byte) (i : Nat) (h : i < bs.length) :
    (m.putBytes a bs).byte (a + i) = bs[i] := SMap.get_setList_same _ _ _ _ i h

/-- A byte outside the sector replaced reads as before. -/
theorem Memory.byte_setSector_other (m : Memory) (a : Nat) (x : Sector) {b : Nat} (h : b / 32 ≠ a / 32) :
    (m.setSector a x).byte b = m.byte b := by
  apply SMap.get_setList_other
  simp only [sectorOf, List.length_take]
  omega

end Sys2Proof.Machine
end

