-- ==== Sys2Proof/Laws/Ops.lean ====
section
/-! SUPPORT. Laws/Ops.lean: what a slot operation can do (R87, R91, R174), and what the lists of checks answer. -/

namespace Sys2Proof.Machine

/-! ### Slot operations -/

/-- A false guard: nothing happens (R87). -/
@[simp] theorem slotOp_skip (chk : State → Option Exn) (eff : State → State) (s : State) : slotOp false chk eff s = .next s := rfl

/-- After the bundle's checks, the effect. -/
theorem slotOp_checked (chk : State → Option Exn) (eff : State → State) {s : State} (h : s.checked = true) :
    slotOp true chk eff s = .next (eff s) := by simp [slotOp, h]

/-- A check that passes. -/
theorem slotOp_clear (chk : State → Option Exn) (eff : State → State) {s : State} (h : chk s = none) :
    slotOp true chk eff s = .next (eff s) := by simp [slotOp, h]

/-- An operation without a check. -/
@[simp] theorem slotOp_noCheck (eff : State → State) (s : State) : slotOp true noCheck eff s = .next (eff s) := by simp [slotOp, noCheck]

/-- A check that fails takes its exception. -/
theorem slotOp_raises (chk : State → Option Exn) (eff : State → State) {s : State} {e : Exn} (hc : s.checked = false) (h : chk s = some e) :
    slotOp true chk eff s = .next (s.raise s.cur e) := by simp [slotOp, hc, h]

/-- Everything that a slot operation can do. -/
theorem slotOp_cases {run : Bool} {chk : State → Option Exn} {eff : State → State} {s : State} {x : Out} (h : slotOp run chk eff s = x) :
    (run = false ∧ x = .next s) ∨ (run = true ∧ x = .next (eff s)) ∨
      ∃ e, run = true ∧ s.checked = false ∧ chk s = some e ∧ x = .next (s.raise s.cur e) := by
  subst h
  unfold slotOp
  split
  · rename_i hr
    split
    · exact .inr (.inl ⟨hr, rfl⟩)
    · rename_i hc
      split
      · rename_i e he
        exact .inr (.inr ⟨e, hr, by simpa using hc, he, rfl⟩)
      · exact .inr (.inl ⟨hr, rfl⟩)
  · rename_i hr
    exact .inl ⟨by simpa using hr, rfl⟩

/-- A slot operation goes on. -/
theorem slotOp_next (run : Bool) (chk : State → Option Exn) (eff : State → State) (s : State) : ∃ t, slotOp run chk eff s = .next t := by
  rcases slotOp_cases (rfl : slotOp run chk eff s = _) with ⟨-, h⟩ | ⟨-, h⟩ | ⟨e, -, -, -, h⟩ <;> exact ⟨_, h⟩

/-- After the checks, a slot operation does nothing or its effect. -/
theorem slotOp_after {run : Bool} {chk : State → Option Exn} {eff : State → State} {s t : State} (hc : s.checked = true)
    (h : slotOp run chk eff s = .next t) : t = s ∨ t = eff s := by
  rcases slotOp_cases h with ⟨-, h⟩ | ⟨-, h⟩ | ⟨e, -, h, -⟩
  · cases h; exact .inl rfl
  · cases h; exact .inr rfl
  · simp [hc] at h

/-! ### Checks -/

@[simp] theorem when_false (e : Exn) : when false e = none := rfl
@[simp] theorem when_true (e : Exn) : when true e = some e := rfl
@[simp] theorem firstOf_nil : firstOf [] = none := rfl
@[simp] theorem firstOf_none (l : List (Option Exn)) : firstOf (none :: l) = firstOf l := rfl
@[simp] theorem firstOf_some (e : Exn) (l : List (Option Exn)) : firstOf (some e :: l) = some e := rfl

/-! ### Changes of the issuing context -/

/-- Two changes that agree on the issuing context agree. -/
theorem onMe_congr {s : State} {f g : Ctx → Ctx} (h : f s.me = g s.me) : s.onMe f = s.onMe g := by
  unfold State.onMe State.onCtx; exact congrArg (s.setCtx s.cur) h

end Sys2Proof.Machine
end

