-- ==== Sys2Proof/Tests/Slice0.lean ====
section
/-! SUPPORT. Tests/Slice0.lean: tests of the model against the manual, and a witness for the hypotheses of each statement. -/

namespace Sys2Proof.Tests

open Sys2Proof Sys2Proof.Machine Sys2Proof.Claims

set_option Elab.async false

/-! ### Ill-formed terms: one for each check of `Instr.wf` -/

/-- The unconditional guard. -/
def g0 : Guard := ⟨0, false⟩

/-- A V0 operation on f32 of registers 1, 2 and 3, to be varied. -/
def v0 : VOp := ⟨.v0, 0, .f32, 1, 2, 3, 0, 0, false, 0⟩

/-- A plain scalar access of 8 bytes. -/
def a0 : Acc := ⟨g0, false, 1, .d, .plain, .context⟩

theorem test_wf_refuses_scalar :
    -- R179: the field ends past bit 63
    (Instr.bext ⟨g0, 1, 2⟩ false 1 63).wf = false ∧ (Instr.bins ⟨g0, 1, 2, 3⟩ 60 4).wf = false ∧
    -- R181: twelve conditions
    (Instr.cmp g0 1 2 3 12).wf = false ∧ (Instr.cmpImm g0 1 2 0 15).wf = false ∧
    -- R189: k from 1 to 63
    (Instr.cinc ⟨g0, 1, 2, 3⟩ 0).wf = false ∧ (Instr.cincImm ⟨g0, 1, 2, 3⟩ 0).wf = false ∧
    -- R70: no such control register
    (Instr.csrr g0 1 0x006).wf = false ∧ (Instr.csrw ⟨g0, 1, 0x00D, .imm 0⟩).wf = false ∧
    (Instr.csrs ⟨g0, 1, 0x118, .imm 0⟩).wf = false ∧ (Instr.csrc ⟨g0, 1, 0xFFF, .imm 0⟩).wf = false := by decide

theorem test_wf_refuses_vector_arithmetic :
    -- R207 to R209: types outside F and I, rounding of an integer, a third source, ext6 in use
    (Instr.vAdd { v0 with ty := .e4m3 }).wf = false ∧ (Instr.vSub { v0 with ty := .i8, rm := 1 }).wf = false ∧
    (Instr.vMul { v0 with vc := 1 }).wf = false ∧ (Instr.vFma { v0 with ty := .i32 }).wf = false ∧
    (Instr.vFms { v0 with ext := 1 }).wf = false ∧ (Instr.vFnma { v0 with ty := .u8 }).wf = false ∧
    (Instr.vMin { v0 with sat := true }).wf = false ∧ (Instr.vMax { v0 with rm := 3 }).wf = false ∧
    (Instr.vAbs { v0 with vb := 0, ty := .u16 }).wf = false ∧ (Instr.vNeg { v0 with vb := 0, sat := true }).wf = false ∧
    (Instr.vDot4 { v0 with ty := .i8, rm := 1 }).wf = false ∧ (Instr.vDot4 { v0 with ty := .f32 }).wf = false ∧
    -- R210 to R213
    (Instr.vCmp { v0 with vd := 8 }).wf = false ∧ (Instr.vCmp { v0 with ty := .i32, ext := 6 }).wf = false ∧
    (Instr.vSel { v0 with ext := 8 }).wf = false ∧ (Instr.vAnd v0).wf = false ∧ (Instr.vOr { v0 with ty := .bf16 }).wf = false ∧
    (Instr.vXor { v0 with ty := .i32, ext := 1 }).wf = false ∧ (Instr.vNot { v0 with ty := .i32 }).wf = false ∧
    (Instr.vShl { v0 with ty := .i8, ext := 1, vb := 8 }).wf = false ∧ (Instr.vShr { v0 with ty := .i8, ext := 2 }).wf = false ∧
    (Instr.vSar v0).wf = false := by decide

theorem test_wf_refuses_vector_other :
    -- R214 to R216: a source code past 10, a part that the widths do not allow
    (Instr.vCvt { v0 with vb := 0, ext := 11 }).wf = false ∧ (Instr.vCvt { v0 with vb := 0, ext := 16 }).wf = false ∧
    (Instr.vPack { v0 with ty := .f16, ext := 2 }).wf = false ∧ (Instr.vUnpack { v0 with vb := 0, ext := 0x21 }).wf = false ∧
    -- R217, R218: float types, no rounding of the special functions but `sqrt`
    (Instr.vExp2 { v0 with vb := 0, rm := 1 }).wf = false ∧ (Instr.vLog2 { v0 with vb := 0, ty := .i32 }).wf = false ∧
    (Instr.vRcp v0).wf = false ∧ (Instr.vRsqrt { v0 with vb := 0, ext := 1 }).wf = false ∧
    (Instr.vSqrt { v0 with vb := 0, ty := .u32 }).wf = false ∧ (Instr.vTanh { v0 with vb := 0, rm := 2 }).wf = false ∧
    -- R219 to R223
    (Instr.vRadd { v0 with vb := 0, sat := true }).wf = false ∧ (Instr.vSadd { v0 with vb := 0, ty := .i8, rm := 1 }).wf = false ∧
    (Instr.vRmax { v0 with vb := 0, rm := 1 }).wf = false ∧ (Instr.vRmin { v0 with vb := 0, ty := .e5m2 }).wf = false ∧
    (Instr.vPerm { v0 with vc := 1 }).wf = false ∧ (Instr.vShuf { v0 with ext := 4 }).wf = false ∧
    (Instr.vBcast { v0 with vb := 0, ext := 32 }).wf = false ∧ (Instr.vSlide { v0 with sat := true }).wf = false ∧
    -- R224 to R226
    (Instr.vMov v0).wf = false ∧ (Instr.vMovi .v1 0 .i8 1 256).wf = false ∧ (Instr.vMand { v0 with va := 8 }).wf = false ∧
    (Instr.vMor { v0 with vd := 8 }).wf = false ∧ (Instr.vMxor { v0 with m := 1 }).wf = false ∧ (Instr.vMnot v0).wf = false := by decide

theorem test_wf_refuses_matrix_and_transfers :
    -- R228: `xs2v` to all words has no word number; R232: `szp` names an SB latch
    (Instr.xs2v 1 2 true 3).wf = false ∧ (Instr.szp .sa0 1 2 0).wf = false ∧ (Instr.szp .sb0 1 2 3).wf = false ∧
    -- R237: a pair of formats that no row gives; R241: row buffers 0 to 3 and the limit of kb
    (Instr.mma ⟨g0, 0, .f64, .bf16, 0, false, 1, 2⟩).wf = false ∧ (Instr.mmr ⟨g0, 0, .bf16, .bf16, 2, false, 1, 2⟩).wf = false ∧
    (Instr.mmr ⟨g0, 0, .bf16, .bf16, 0, false, 4, 2⟩).wf = false ∧ (Instr.mmr ⟨g0, 0, .f64, .f64, 0, false, 1, 2⟩).wf = false ∧
    -- R242, R247
    (Instr.mst ⟨g0, 0, 1, 0, 13, 0⟩).wf = false ∧ (Instr.mst ⟨g0, 0, 1, 0, 0, 1⟩).wf = false ∧
    (Instr.mld ⟨g0, 0, 1, 1, 0, 0⟩).wf = false ∧ (Instr.mld ⟨g0, 0, 1, 0, 12, 1⟩).wf = false ∧
    (Instr.mrd ⟨g0, 0, 1, 0, 12, 0⟩).wf = false ∧ (Instr.mrd ⟨g0, 0, 1, 0, 0, 2⟩).wf = false ∧
    (Instr.mwr ⟨g0, 0, 1, 1, 0, 0⟩).wf = false ∧ (Instr.mwr ⟨g0, 0, 1, 0, 5, 4⟩).wf = false := by decide

theorem test_wf_refuses_accesses :
    -- R249: file and width, order and scope
    (Instr.ldc ⟨{ a0 with width := .v }, 1, 0⟩).wf = false ∧ (Instr.stc ⟨{ a0 with order := .release }, 1, 0⟩).wf = false ∧
    (Instr.ldk ⟨{ a0 with order := .release }, 1, 0⟩).wf = false ∧ (Instr.ldd ⟨{ a0 with scope := .core }, 1, 0⟩).wf = false ∧
    (Instr.stk ⟨{ a0 with order := .acquire }, 1, 0⟩).wf = false ∧ (Instr.std ⟨{ a0 with file := true }, 1, 0⟩).wf = false ∧
    (Instr.ldm ⟨{ a0 with order := .release }, 0, 0, 0, 0, 0, 0⟩).wf = false ∧ (Instr.ldf ⟨{ a0 with scope := .die }, 0, 0, 0, 0, 0, 0⟩).wf = false ∧
    (Instr.ldh ⟨{ a0 with width := .v }, 0, 0, 0, 0, 0, 0⟩).wf = false ∧ (Instr.stm ⟨{ a0 with order := .acquire }, 0, 0, 0, 0, 0, 0⟩).wf = false ∧
    (Instr.stf ⟨{ a0 with file := true }, 0, 0, 0, 0, 0, 0⟩).wf = false ∧ (Instr.sth ⟨{ a0 with scope := .system }, 0, 0, 0, 0, 0, 0⟩).wf = false ∧
    (Instr.ldw ⟨{ a0 with order := .acquire }, 0, 0, 0, 0⟩).wf = false ∧ (Instr.ldsw ⟨{ a0 with width := .v }, 0, 0, 0, 0⟩).wf = false ∧
    (Instr.ldsm ⟨{ a0 with order := .acquire }, 0, 0, 0, 0, 0, 0⟩).wf = false ∧
    -- R255, R256: gathers are of the vector file, and not of width v
    (Instr.ldgc ⟨a0, 1, 2, 0, 0⟩).wf = false ∧ (Instr.stsc ⟨{ a0 with file := true, width := .v }, 1, 2, 0, 0⟩).wf = false ∧
    -- R261: `fadd` of 32 bits, host memory's three operations, a handle below 16, a plain scope
    (Instr.amo ⟨g0, false, 1, 2, .d, .plain, .context, .fadd, 0, 0⟩).wf = false ∧
    (Instr.amo ⟨g0, true, 1, 2, .h, .plain, .context, .min, 0, 0⟩).wf = false ∧
    (Instr.amo ⟨g0, true, 1, 16, .m, .plain, .context, .add, 0, 0⟩).wf = false ∧
    (Instr.amo ⟨g0, true, 1, 2, .d, .plain, .core, .add, 0, 0⟩).wf = false := by decide

theorem test_wf_refuses_engines_and_waits :
    -- R285: a signal without an acknowledgement names no ring, kind 0 no count, kind 1 no counter
    (Instr.csig ⟨g0, 1, 0, 0, false, 3, 0⟩).wf = false ∧ (Instr.csig ⟨g0, 1, 2, 0, true, 3, 0⟩).wf = false ∧
    (Instr.csigRing ⟨g0, 1, 2, 0, true, 3, 1⟩).wf = false ∧
    -- R288: 1,025 elements of f32 exceed 4,096 bytes; integer types have no probe
    (Instr.frp g0 1 .f32 1024).wf = false ∧ (Instr.frp g0 1 .i8 0).wf = false ∧ (Instr.frs g0 1 2 3 .u8 0 false).wf = false ∧
    -- R289: pd from 1 to 14
    (Instr.frt g0 0 1 2 0 0 0).wf = false ∧ (Instr.frt g0 15 1 2 0 0 0).wf = false ∧
    -- R294: `rpre` of all banks names none
    (Instr.rpre g0 false true 1).wf = false ∧
    -- R300, R302, R305
    (Instr.waitr 0).wf = false ∧ (Instr.bar false 0 4).wf = false ∧ (Instr.bar true 0 128).wf = false ∧
    (Instr.ckeq true 16 0).wf = false := by decide

/-- A command header without a completion address. -/
def h0 : CmdHdr := ⟨7, 0⟩

theorem test_wf_refuses_commands :
    -- R357: a completion address is a multiple of 8
    (Instr.nop ⟨0, 4⟩).wf = false ∧ (Instr.preemptPoint ⟨0, 0x4000000000000001⟩).wf = false ∧ (Instr.clearAs ⟨0, 1⟩ 1).wf = false ∧
    (Instr.unbindCtx ⟨0, 1⟩ ⟨0, 0⟩).wf = false ∧ (Instr.resumeCtx ⟨0, 1⟩ ⟨0, 0⟩).wf = false ∧
    (Instr.resumeCtxRetry ⟨0, 1⟩ ⟨0, 0⟩).wf = false ∧ (Instr.preemptAtPoint ⟨0, 1⟩ ⟨false, 0⟩).wf = false ∧
    (Instr.preemptStep ⟨0, 1⟩ ⟨false, 0⟩).wf = false ∧ (Instr.preemptTask ⟨0, 1⟩ ⟨false, 0⟩).wf = false ∧
    (Instr.preemptBundle ⟨0, 1⟩ ⟨false, 0⟩).wf = false ∧ (Instr.resumeStream ⟨0, 1⟩ ⟨false, 0⟩).wf = false ∧
    -- R359: the step array and the report are aligned
    (Instr.launch h0 ⟨0, 0, 0, 64, 0, 1⟩).wf = false ∧ (Instr.launch h0 ⟨0, 0, 0, 0, 8, 1⟩).wf = false ∧
    -- R360, R361: alignment by width, 32-bit values
    (Instr.waitValue h0 ⟨4, false, 0, 0, 0, true⟩).wf = false ∧ (Instr.waitValue h0 ⟨4, false, 0x100000000, 0, 0, false⟩).wf = false ∧
    (Instr.signalWrite h0 ⟨2, false, 0, false⟩).wf = false ∧ (Instr.signalAdd h0 ⟨4, false, 0, true⟩).wf = false ∧
    (Instr.signalOr h0 ⟨0, false, 0x100000000, false⟩).wf = false ∧
    -- R363: from 16 to 65,536 fault queue entries
    (Instr.setAs h0 ⟨1, false, 0, 0, false, 3, false, 0, 0, 0, 0, 0⟩).wf = false ∧
    (Instr.setAs h0 ⟨1, false, 0, 0, false, 17, false, 0, 0, 0, 0, 0⟩).wf = false ∧
    -- R364, R365, R371
    (Instr.placeTpl h0 ⟨0, false, 1, 32⟩).wf = false ∧ (Instr.dropTpl h0 ⟨0, false, 1, 64⟩).wf = false ∧
    (Instr.bindCtx h0 ⟨⟨0, 0⟩, 1, false, false, 0, 0, 64, 0⟩).wf = false ∧
    (Instr.saveCtx h0 ⟨0, 1, 64⟩).wf = false ∧ (Instr.restoreCtx h0 ⟨0, 1, 64⟩).wf = false := by decide

theorem test_wf_accepts :
    (Instr.bext ⟨g0, 1, 2⟩ false 0 63).wf = true ∧ (Instr.csrr g0 1 0x131).wf = true ∧ (Instr.vAdd v0).wf = true ∧
    (Instr.vCmp { v0 with vd := 7, ext := 7 }).wf = true ∧ (Instr.frp g0 1 .f32 1023).wf = true ∧ (Instr.bar true 0 127).wf = true ∧
    (Instr.setAs h0 ⟨1, false, 64, 4096, false, 16, false, 0, 0, 0, 0, 0⟩).wf = true := by decide
/-! ### Words written out field by field from the encodings of the manual -/

/-- R81, R178: op, g 4 negated, d 3, a 1, b 2; the immediate forms with bit [50] and imm32. -/
theorem test_words_scalar_arithmetic :
    ∀ r ∈ ([
      (.s 0x0148304200000000, .add ⟨⟨4, true⟩, 3, 1, 2⟩),
      (.s 0x014FF04080000001, .addImm ⟨⟨4, true⟩, 63, 1, 0x80000001⟩),
      (.s 0x0248304200000000, .sub ⟨⟨4, true⟩, 3, 1, 2⟩),
      (.s 0x024FF04080000001, .subImm ⟨⟨4, true⟩, 63, 1, 0x80000001⟩),
      (.s 0x0348304200000000, .mul ⟨⟨4, true⟩, 3, 1, 2⟩),
      (.s 0x034FF04080000001, .mulImm ⟨⟨4, true⟩, 63, 1, 0x80000001⟩),
      (.s 0x0448304200000000, .mulh ⟨⟨4, true⟩, 3, 1, 2⟩),
      (.s 0x044FF04080000001, .mulhImm ⟨⟨4, true⟩, 63, 1, 0x80000001⟩),
      (.s 0x0548304200000000, .mulhu ⟨⟨4, true⟩, 3, 1, 2⟩),
      (.s 0x054FF04080000001, .mulhuImm ⟨⟨4, true⟩, 63, 1, 0x80000001⟩),
      (.s 0x0648304200000000, .and ⟨⟨4, true⟩, 3, 1, 2⟩),
      (.s 0x064FF04080000001, .andImm ⟨⟨4, true⟩, 63, 1, 0x80000001⟩),
      (.s 0x0748304200000000, .or ⟨⟨4, true⟩, 3, 1, 2⟩),
      (.s 0x074FF04080000001, .orImm ⟨⟨4, true⟩, 63, 1, 0x80000001⟩),
      (.s 0x0848304200000000, .xor ⟨⟨4, true⟩, 3, 1, 2⟩),
      (.s 0x084FF04080000001, .xorImm ⟨⟨4, true⟩, 63, 1, 0x80000001⟩),
      (.s 0x0948304200000000, .andn ⟨⟨4, true⟩, 3, 1, 2⟩),
      (.s 0x094FF04080000001, .andnImm ⟨⟨4, true⟩, 63, 1, 0x80000001⟩),
      (.s 0x0A48304200000000, .shl ⟨⟨4, true⟩, 3, 1, 2⟩),
      (.s 0x0A4C304000000021, .shlImm ⟨⟨4, true⟩, 3, 1⟩ 33),
      (.s 0x0B48304200000000, .shr ⟨⟨4, true⟩, 3, 1, 2⟩),
      (.s 0x0B4C304000000021, .shrImm ⟨⟨4, true⟩, 3, 1⟩ 33),
      (.s 0x0C48304200000000, .sar ⟨⟨4, true⟩, 3, 1, 2⟩),
      (.s 0x0C4C304000000021, .sarImm ⟨⟨4, true⟩, 3, 1⟩ 33),
      (.s 0x0D48304200000000, .rot ⟨⟨4, true⟩, 3, 1, 2⟩),
      (.s 0x0D4C304000000021, .rotImm ⟨⟨4, true⟩, 3, 1⟩ 33),
      (.s 0x0E48304200000000, .min ⟨⟨4, true⟩, 3, 1, 2⟩),
      (.s 0x0E4FF04080000001, .minImm ⟨⟨4, true⟩, 63, 1, 0x80000001⟩),
      (.s 0x0F48304200000000, .max ⟨⟨4, true⟩, 3, 1, 2⟩),
      (.s 0x0F4FF04080000001, .maxImm ⟨⟨4, true⟩, 63, 1, 0x80000001⟩),
      (.s 0x1048304200000000, .minu ⟨⟨4, true⟩, 3, 1, 2⟩),
      (.s 0x104FF04080000001, .minuImm ⟨⟨4, true⟩, 63, 1, 0x80000001⟩),
      (.s 0x1148304200000000, .maxu ⟨⟨4, true⟩, 3, 1, 2⟩),
      (.s 0x114FF04080000001, .maxuImm ⟨⟨4, true⟩, 63, 1, 0x80000001⟩)] :
      List (SlotWord × Instr)), decodeSlotWord r.1 = .ok r.2 := by
  decide +kernel

/-- R179, R180: the unary operations, bit fields, selects and constants. -/
theorem test_words_scalar_fields :
    ∀ r ∈ ([
      (.s 0x1248304000000000, .clz ⟨⟨4, true⟩, 3, 1⟩),
      (.s 0x1348304000000000, .ctz ⟨⟨4, true⟩, 3, 1⟩),
      (.s 0x1448304000000000, .popc ⟨⟨4, true⟩, 3, 1⟩),
      (.s 0x1948304000000000, .abs ⟨⟨4, true⟩, 3, 1⟩),
      (.s 0x1B48304000000000, .mov ⟨⟨4, true⟩, 3, 1⟩),
      (.s 0x15483040120B0000, .bext ⟨⟨4, true⟩, 3, 1⟩ true 8 11),
      (.s 0x164830420F030000, .bins ⟨⟨4, true⟩, 3, 1, 2⟩ 60 3),
      (.s 0x17483040001F0000, .sext ⟨⟨4, true⟩, 3, 1⟩ 31),
      (.s 0x18483040003F0000, .zext ⟨⟨4, true⟩, 3, 1⟩ 63),
      (.s 0x1A48304200190000, .sel ⟨⟨4, true⟩, 3, 1, 2⟩ true 9),
      (.s 0x1C4C300012345678, .li ⟨4, true⟩ 3 0x12345678),
      (.s 0x1D4C30409ABCDEF0, .lih ⟨⟨4, true⟩, 3, 1, 0x9ABCDEF0⟩)] :
      List (SlotWord × Instr)), decodeSlotWord r.1 = .ok r.2 := by
  decide +kernel

/-- R181 (its example `cmp.lt p3, s4, 100`), R182. -/
theorem test_words_predicates :
    ∀ r ∈ ([
      (.s 0x2004310200000064, .cmpImm ⟨0, false⟩ 3 4 0x64 2),
      (.s 0x2048F042000B0000, .cmp ⟨4, true⟩ 15 1 2 11),
      (.s 0x2148304200020000, .pand ⟨⟨4, true⟩, 3, 1, 2, true, false⟩),
      (.s 0x2248304200020000, .por ⟨⟨4, true⟩, 3, 1, 2, true, false⟩),
      (.s 0x2348304200020000, .pxor ⟨⟨4, true⟩, 3, 1, 2, true, false⟩),
      (.s 0x2448304000000000, .pnot ⟨4, true⟩ 3 1),
      (.s 0x2548304000000000, .pmov ⟨4, true⟩ 3 1),
      (.s 0x2648300000010000, .pset ⟨4, true⟩ 3 true)] :
      List (SlotWord × Instr)), decodeSlotWord r.1 = .ok r.2 := by
  decide +kernel

/-- R184 (its example `br !p5, top`), R185 to R188. -/
theorem test_words_transfers :
    ∀ r ∈ ([
      (.s 0x3002C000FFFFFFF8, .br ⟨0, false⟩ 5 true 0xFFFFFFF8),
      (.s 0x3148000000000010, .jmp ⟨4, true⟩ 0x10),
      (.s 0x324807C000000010, .call ⟨4, true⟩ 31 0x10),
      (.s 0x334807C000000000, .ret ⟨4, true⟩ 31),
      (.s 0x344837C000000000, .jr ⟨⟨4, true⟩, 3, 31⟩),
      (.s 0x35480001FFFFFFFF, .loop ⟨4, true⟩ true 0xFFFFFFFF),
      (.s 0x364801C100000005, .chk ⟨4, true⟩ true 7 5),
      (.s 0x374801FF00000005, .bsw ⟨4, true⟩ 7 63 5)] :
      List (SlotWord × Instr)), decodeSlotWord r.1 = .ok r.2 := by
  decide +kernel

/-- R189 to R198: address arithmetic, rotation, loop and control registers, faults, the supervisor. -/
theorem test_words_addresses_and_control :
    ∀ r ∈ ([
      (.s 0x4048304200070000, .lea ⟨⟨4, true⟩, 3, 1, 2⟩ 7),
      (.s 0x404C304000000008, .leaImm ⟨⟨4, true⟩, 3, 1, 8⟩),
      (.s 0x4148304200000000, .madd ⟨⟨4, true⟩, 3, 1, 2⟩),
      (.s 0x414C304000000008, .maddImm ⟨⟨4, true⟩, 3, 1, 8⟩),
      (.s 0x42483042000C0000, .cinc ⟨⟨4, true⟩, 3, 1, 2⟩ 12),
      (.s 0x424C304C00000100, .cincImm ⟨⟨4, true⟩, 3, 1, 0x100⟩ 12),
      (.s 0x434C00000000001F, .rotinit ⟨4, true⟩ 31),
      (.s 0x444C028000000008, .stg ⟨4, true⟩ 10 8),
      (.s 0x454C30000000000F, .lpr ⟨4, true⟩ 3 15),
      (.s 0x5048300000500000, .csrr ⟨4, true⟩ 3 0x005),
      (.s 0x514C3000010ABCDE, .csrw ⟨⟨4, true⟩, 3, 0x010, .imm 0xABCDE⟩),
      (.s 0x5248324013100000, .csrs ⟨⟨4, true⟩, 3, 0x131, .reg 9⟩),
      (.s 0x5348024001200000, .csrc ⟨⟨4, true⟩, 0, 0x012, .reg 9⟩),
      (.s 0x544C000000000021, .trap ⟨4, true⟩ 0x21),
      (.s 0x554C0000FFFFFFFF, .brk ⟨4, true⟩ 0xFFFFFFFF),
      (.s 0x5648010000800000, .dpset ⟨4, true⟩ 4 2),
      (.s 0x5748010500830000, .ttinv ⟨4, true⟩ 4 5 2 3),
      (.s 0x58480105003F0000, .ownset ⟨4, true⟩ 4 5 63)] :
      List (SlotWord × Instr)), decodeSlotWord r.1 = .ok r.2 := by
  decide +kernel

/-- R83, R207 to R213: op, mask 5, type, vd, va, vb, vc, rounding, saturate, ext6. -/
theorem test_words_vector_arithmetic :
    ∀ r ∈ ([
      (.v .v0 0x01A0084180C00000, .vAdd ⟨.v0, 5, .f32, 1, 2, 3, 0, 1, true, 0⟩),
      (.v .v1 0x02ABF84180400000, .vSub ⟨.v1, 5, .i8, 63, 2, 3, 0, 0, true, 0⟩),
      (.v .v0 0x03A2084181000000, .vMul ⟨.v0, 5, .bf16, 1, 2, 3, 0, 2, false, 0⟩),
      (.v .v0 0x04A0084189800000, .vFma ⟨.v0, 5, .f32, 1, 2, 3, 4, 3, false, 0⟩),
      (.v .v0 0x05A40841FE000000, .vFms ⟨.v0, 5, .f16, 1, 2, 3, 63, 0, false, 0⟩),
      (.v .v0 0x06A0084188400000, .vFnma ⟨.v0, 5, .f32, 1, 2, 3, 4, 0, true, 0⟩),
      (.v .v0 0x07AE084180000000, .vMin ⟨.v0, 5, .u16, 1, 2, 3, 0, 0, false, 0⟩),
      (.v .v0 0x08A4084180000000, .vMax ⟨.v0, 5, .f16, 1, 2, 3, 0, 0, false, 0⟩),
      (.v .v0 0x09A8084000400000, .vAbs ⟨.v0, 5, .i16, 1, 2, 0, 0, 0, true, 0⟩),
      (.v .v0 0x0AA0084000000000, .vNeg ⟨.v0, 5, .f32, 1, 2, 0, 0, 0, false, 0⟩),
      (.v .v0 0x0BB2084188800000, .vDot4 ⟨.v0, 5, .e4m3, 1, 2, 3, 4, 1, false, 0⟩),
      (.v .v0 0x10A0384180050000, .vCmp ⟨.v0, 5, .f32, 7, 2, 3, 0, 0, false, 5⟩),
      (.v .v0 0x11B4084180070000, .vSel ⟨.v0, 5, .e5m2, 1, 2, 3, 0, 0, false, 7⟩),
      (.v .v0 0x12B0084180000000, .vAnd ⟨.v0, 5, .u8, 1, 2, 3, 0, 0, false, 0⟩),
      (.v .v0 0x13A6084180000000, .vOr ⟨.v0, 5, .i32, 1, 2, 3, 0, 0, false, 0⟩),
      (.v .v0 0x14AC084180000000, .vXor ⟨.v0, 5, .u32, 1, 2, 3, 0, 0, false, 0⟩),
      (.v .v0 0x15A8084000000000, .vNot ⟨.v0, 5, .i16, 1, 2, 0, 0, 0, false, 0⟩),
      (.v .v0 0x16AA084380010000, .vShl ⟨.v0, 5, .i8, 1, 2, 7, 0, 0, false, 1⟩),
      (.v .v0 0x17AC085400000000, .vShr ⟨.v0, 5, .u32, 1, 2, 40, 0, 0, false, 0⟩),
      (.v .v0 0x18A8084780010000, .vSar ⟨.v0, 5, .i16, 1, 2, 15, 0, 0, false, 1⟩)] :
      List (SlotWord × Instr)), decodeSlotWord r.1 = .ok r.2 := by
  decide +kernel

/-- R214 (its example `cvt.e4m3.fromf32.p1.sat v9, v4`), R215 to R227. -/
theorem test_words_vector_other :
    ∀ r ∈ ([
      (.v .v0 0x2012488000500000, .vCvt ⟨.v0, 0, .e4m3, 9, 4, 0, 0, 0, true, 16⟩),
      (.v .v0 0x21AA084180C40000, .vPack ⟨.v0, 5, .i8, 1, 2, 3, 0, 1, true, 4⟩),
      (.v .v0 0x22A0084000190000, .vUnpack ⟨.v0, 5, .f32, 1, 2, 0, 0, 0, false, 25⟩),
      (.v .v0 0x28A2084000400000, .vExp2 ⟨.v0, 5, .bf16, 1, 2, 0, 0, 0, true, 0⟩),
      (.v .v0 0x29A2084000400000, .vLog2 ⟨.v0, 5, .bf16, 1, 2, 0, 0, 0, true, 0⟩),
      (.v .v0 0x2AA2084000400000, .vRcp ⟨.v0, 5, .bf16, 1, 2, 0, 0, 0, true, 0⟩),
      (.v .v0 0x2BA2084000400000, .vRsqrt ⟨.v0, 5, .bf16, 1, 2, 0, 0, 0, true, 0⟩),
      (.v .v0 0x2DA2084000400000, .vTanh ⟨.v0, 5, .bf16, 1, 2, 0, 0, 0, true, 0⟩),
      (.v .v0 0x2CA0084001800000, .vSqrt ⟨.v0, 5, .f32, 1, 2, 0, 0, 3, false, 0⟩),
      (.v .v0 0x30A0084000800000, .vRadd ⟨.v0, 5, .f32, 1, 2, 0, 0, 1, false, 0⟩),
      (.v .v0 0x31B0084000000000, .vRmax ⟨.v0, 5, .u8, 1, 2, 0, 0, 0, false, 0⟩),
      (.v .v0 0x32A0084000000000, .vRmin ⟨.v0, 5, .f32, 1, 2, 0, 0, 0, false, 0⟩),
      (.v .v0 0x33A6084000400000, .vSadd ⟨.v0, 5, .i32, 1, 2, 0, 0, 0, true, 0⟩),
      (.v .v0 0x34AA084180000000, .vPerm ⟨.v0, 5, .i8, 1, 2, 3, 0, 0, false, 0⟩),
      (.v .v0 0x35A0084180030000, .vShuf ⟨.v0, 5, .f32, 1, 2, 3, 0, 0, false, 3⟩),
      (.v .v0 0x36AA084000640000, .vBcast ⟨.v0, 5, .i8, 1, 2, 0, 0, 0, true, 36⟩),
      (.v .v0 0x37A00841801F0000, .vSlide ⟨.v0, 5, .f32, 1, 2, 3, 0, 0, false, 31⟩),
      (.v .v1 0x38A0084000000000, .vMov ⟨.v1, 5, .f32, 1, 2, 0, 0, 0, false, 0⟩),
      (.v .v1 0x39A4480000003C00, .vMovi .v1 5 .f16 9 0x3C00),
      (.v .v0 0x3A00384180000000, .vMand ⟨.v0, 0, .f32, 7, 2, 3, 0, 0, false, 0⟩),
      (.v .v0 0x3B00384180000000, .vMor ⟨.v0, 0, .f32, 7, 2, 3, 0, 0, false, 0⟩),
      (.v .v0 0x3C00384180000000, .vMxor ⟨.v0, 0, .f32, 7, 2, 3, 0, 0, false, 0⟩),
      (.v .v0 0x3D00384000000000, .vMnot ⟨.v0, 0, .f32, 7, 2, 0, 0, 0, false, 0⟩),
      (.v .v1 0x3F00000000000000, .dup)] :
      List (SlotWord × Instr)), decodeSlotWord r.1 = .ok r.2 := by
  decide +kernel

/-- R86, R228: op, scalar field, vector field, ext. -/
theorem test_words_transfers_x :
    ∀ r ∈ ([
      (.x 0x088382, .xs2v 4 7 false 2),
      (.x 0x088390, .xs2v 4 7 true 0),
      (.x 0x17E38F, .xv2s 63 7 15),
      (.x 0x188381, .xm2s 4 7 true),
      (.x 0x208080, .xs2m 4 1 false),
      (.x 0x2883E0, .sld .sb1 7 4),
      (.x 0x3083C2, .szp .sb0 7 4 2),
      (.x 0x388020, .sclr .sa1 4)] :
      List (SlotWord × Instr)), decodeSlotWord r.1 = .ok r.2 := by
  decide +kernel

/-- R84, R236 (its example of `mma` on bf16), R241 to R248. -/
theorem test_words_matrix :
    ∀ r ∈ ([
      (.m 0x010245E28B000000, .mma ⟨⟨0, false⟩, 1, .bf16, .bf16, 15, false, 10, 11⟩),
      (.m 0x014EEC928B000000, .mma ⟨⟨4, true⟩, 3, .tx6, .mxfp4, 4, true, 10, 11⟩),
      (.m 0x024D1060CB000000, .mmr ⟨⟨4, true⟩, 2, .i8, .i8, 3, false, 3, 11⟩),
      (.m 0x034E000000000000, .mzero ⟨4, true⟩ 3),
      (.m 0x044A000000330C00, .mst ⟨⟨4, true⟩, 1, 12, 3, 12, 0⟩),
      (.m 0x054A000000300B01, .mld ⟨⟨4, true⟩, 1, 12, 0, 11, 1⟩),
      (.m 0x064A0000003200FD, .mrd ⟨⟨4, true⟩, 1, 12, 2, 0, 253⟩),
      (.m 0x074A0000003005F8, .mwr ⟨⟨4, true⟩, 1, 12, 0, 5, 248⟩)] :
      List (SlotWord × Instr)), decodeSlotWord r.1 = .ok r.2 := by
  decide +kernel

/-- R85, R249 (its example `ldm.w.acq.pkg s3, [h2, s10, s11]`), R132, R147. -/
theorem test_words_loads :
    ∀ r ∈ ([
      (.l 0x040030930A2C0000, .ldm ⟨⟨⟨0, false⟩, false, 3, .w, .acquire, .package⟩, 2, 10, 11, 0, 0, 0⟩),
      (.l 0x014882403FFFFFC0, .ldc ⟨⟨⟨4, true⟩, false, 8, .b, .plain, .context⟩, 9, 0x3FFFFFC0⟩),
      (.l 0x024C82627FFFFFC0, .ldk ⟨⟨⟨4, true⟩, true, 8, .v, .acquire, .core⟩, 9, 0x3FFFFFC0⟩),
      (.l 0x034882483FFFFFC0, .ldd ⟨⟨⟨4, true⟩, false, 8, .h, .plain, .context⟩, 9, 0x3FFFFFC0⟩),
      (.l 0x044883D2C1083105, .ldm ⟨⟨⟨4, true⟩, false, 8, .w, .acquire, .die⟩, 15, 1, 2, 3, 4, 5⟩),
      (.l 0x054883DB41083105, .ldf ⟨⟨⟨4, true⟩, false, 8, .d, .acquire, .system⟩, 15, 1, 2, 3, 4, 5⟩),
      (.l 0x064C83E001083105, .ldh ⟨⟨⟨4, true⟩, true, 8, .v, .plain, .context⟩, 15, 1, 2, 3, 4, 5⟩),
      (.l 0x074C81E0010BFFFF, .ldw ⟨⟨⟨4, true⟩, true, 8, .v, .plain, .context⟩, 7, 1, 2, 0x3FFFF⟩),
      (.l 0x084881D8010BFFFF, .ldsw ⟨⟨⟨4, true⟩, false, 8, .d, .plain, .context⟩, 7, 1, 2, 0x3FFFF⟩),
      (.l 0x094883D001083105, .ldsm ⟨⟨⟨4, true⟩, false, 8, .w, .plain, .context⟩, 15, 1, 2, 3, 4, 5⟩),
      (.l 0x0A4C82480ADFFFFC, .ldgc ⟨⟨⟨4, true⟩, true, 8, .h, .plain, .context⟩, 9, 10, 6, 0x1FFFFC⟩)] :
      List (SlotWord × Instr)), decodeSlotWord r.1 = .ok r.2 := by
  decide +kernel

/-- R85, R249, R261: stores and `amo`. -/
theorem test_words_stores :
    ∀ r ∈ ([
      (.t 0x014882403FFFFFC0, .stc ⟨⟨⟨4, true⟩, false, 8, .b, .plain, .context⟩, 9, 0x3FFFFFC0⟩),
      (.t 0x024C82647FFFFFC0, .stk ⟨⟨⟨4, true⟩, true, 8, .v, .release, .core⟩, 9, 0x3FFFFFC0⟩),
      (.t 0x034882483FFFFFC0, .std ⟨⟨⟨4, true⟩, false, 8, .h, .plain, .context⟩, 9, 0x3FFFFFC0⟩),
      (.t 0x044883D4C1083105, .stm ⟨⟨⟨4, true⟩, false, 8, .w, .release, .die⟩, 15, 1, 2, 3, 4, 5⟩),
      (.t 0x054883DD41083105, .stf ⟨⟨⟨4, true⟩, false, 8, .d, .release, .system⟩, 15, 1, 2, 3, 4, 5⟩),
      (.t 0x064C83E001083105, .sth ⟨⟨⟨4, true⟩, true, 8, .v, .plain, .context⟩, 15, 1, 2, 3, 4, 5⟩),
      (.t 0x074C82500ADFFFFC, .stsc ⟨⟨⟨4, true⟩, true, 8, .w, .plain, .context⟩, 9, 10, 6, 0x1FFFFC⟩),
      (.t 0x104C809D687FFFFC, .amo ⟨⟨4, true⟩, true, 8, 2, .f, .release, .system, .fadd, 7, 0xFFFFC⟩)] :
      List (SlotWord × Instr)), decodeSlotWord r.1 = .ok r.2 := by
  decide +kernel

/-- R86, R273 to R292: op, guard, a, b, c and imm19. -/
theorem test_words_engines :
    ∀ r ∈ ([
      (.e 0x052084184FFF, .cpy ⟨⟨4, true⟩, 1, 2, 3, 4, 0xFFF⟩),
      (.e 0x092084184005, .gx ⟨⟨4, true⟩, 1, 2, 3, 4, 5⟩),
      (.e 0x0D2384000100, .wdef ⟨4, true⟩ 7 2 true),
      (.e 0x1123800000FF, .wadv ⟨4, true⟩ 7 false 255),
      (.e 0x15278418403F, .lb ⟨4, true⟩ 15 2 3 4 63),
      (.e 0x192784184000, .lbe ⟨4, true⟩ 15 2 3 4),
      (.e 0x1D2084184005, .coll ⟨⟨4, true⟩, 1, 2, 3, 4, 5⟩),
      (.e 0x2120801A83FF, .csig ⟨⟨4, true⟩, 1, 0, 3, true, 4, 1023⟩),
      (.e 0x2120841E8000, .csigRing ⟨⟨4, true⟩, 1, 2, 3, true, 4, 0⟩),
      (.e 0x252080007FF1, .frp ⟨4, true⟩ 1 .bf16 2047),
      (.e 0x292704180654, .frt ⟨4, true⟩ 14 2 3 4 5 6),
      (.e 0x2D2084000000, .fru ⟨4, true⟩ 1 2),
      (.e 0x2D2080000001, .fruSkip ⟨4, true⟩ 1),
      (.e 0x31208418015A, .frs ⟨4, true⟩ 1 2 3 .e5m2 5 true)] :
      List (SlotWord × Instr)), decodeSlotWord r.1 = .ok r.2 := by
  decide +kernel

/-- R294. -/
theorem test_words_row_commands :
    ∀ r ∈ ([
      (.e 0x41248000001F, .ract ⟨4, true⟩ true 15 9),
      (.e 0x45200000001F, .rpre ⟨4, true⟩ true false 15),
      (.e 0x452000000020, .rpre ⟨4, true⟩ false true 0),
      (.e 0x492180000012, .rld ⟨4, true⟩ 3 true 2),
      (.e 0x4D2180000002, .rstw ⟨4, true⟩ 3 false 2),
      (.e 0x512000000013, .rref ⟨4, true⟩ true 3)] :
      List (SlotWord × Instr)), decodeSlotWord r.1 = .ok r.2 := by
  decide +kernel

/-- R86, R267, R268, R300 to R306. -/
theorem test_words_synchronisation :
    ∀ r ∈ ([
      (.y 0x092A00, .awaitf 9 5),
      (.y 0x100A00, .rels 5),
      (.y 0x18001F, .waitr 0x1F),
      (.y 0x200005, .fence .system),
      (.y 0x2A707F, .bar true 7 127),
      (.y 0x297003, .bar false 7 3),
      (.y 0x300000, .tend),
      (.y 0x38003F, .yield 63),
      (.y 0x44F080, .ckeq true 15 2),
      (.y 0x493000, .wtime 9 true)] :
      List (SlotWord × Instr)), decodeSlotWord r.1 = .ok r.2 := by
  decide +kernel

/-- R357 to R372, with the LAUNCH of R359 (its example). -/
theorem test_words_commands :
    ∀ r ∈ ([
      (0x1000000000000000000000000000000000000000000000000000000000000000000000000000000000000000000000140000, .nop ⟨0x14, 0x1000⟩),
      (0x2A0000000200005000000000020000400000000000700007060000000000140001, .launch ⟨0x14, 0⟩ ⟨6, 7, 7, 0x200004000, 0x200005000, 0x2A⟩),
      (0x1000000000000000000000000000000001030000000000000006000000000000000580000000000000180000000000140002, .waitValue ⟨0x14, 0x1000⟩ ⟨0x18, true, 5, 6, 3, true⟩),
      (0x1000000000000000000000000000000000000000000000000100000000000000000500000000000000180000000000140003, .signalWrite ⟨0x14, 0x1000⟩ ⟨0x18, false, 5, true⟩),
      (0x1000000000000000000000000000000000000000000000000001000000000000000580000000000000140000000000140003, .signalAdd ⟨0x14, 0x1000⟩ ⟨0x14, true, 5, false⟩),
      (0x1000000000000000000000000000000000000000000000000002000000000000000500000000000000140000000000140003, .signalOr ⟨0x14, 0x1000⟩ ⟨0x14, false, 5, false⟩),
      (0x1000000000000000000000000000000000000000000000000000000000000000000000000000000000000000000000140004, .preemptPoint ⟨0x14, 0x1000⟩),
      (0x300000000000000010000000002580010FFF000000000000001080000000000020000000000000000040000000000001002A0000000000140010, .setAs ⟨0x14, 0x1000⟩ ⟨0x2A, true, 0x40, 0x2000, true, 16, true, 0x7FF, 0x8001, 1, 9, 0x3000⟩),
      (0x10000000000000000000000000000000000000000000000000000000000000000000000000000000002A0000000000140011, .clearAs ⟨0x14, 0x1000⟩ 0x2A),
      (0x1000000000000000000000000000000000000000000000000000000000000000004000000000002A01060000000000140012, .placeTpl ⟨0x14, 0x1000⟩ ⟨6, true, 0x2A, 0x40⟩),
      (0x1000000000000000000000000000000000000000000000000000000000000000000000000000002A01060000000000140013, .dropTpl ⟨0x14, 0x1000⟩ ⟨6, true, 0x2A, 0⟩),
      (0x100000000000000000000000000000000000000000000000004000000000000010000000008560AB80010000000000140014, .bindCtx ⟨0x14, 0x1000⟩ ⟨⟨0x8001, 3⟩, 0x2A, true, true, 5, 2, 0x1000, 0x40⟩),
      (0x1000000000000000000000000000000000000000000000000000000000000000000000000000000380010000000000140015, .unbindCtx ⟨0x14, 0x1000⟩ ⟨0x8001, 3⟩),
      (0x1000000000000000000000000000000000000000000000000000000000000000000000000000000380010000000000140016, .resumeCtx ⟨0x14, 0x1000⟩ ⟨0x8001, 3⟩),
      (0x1000000000000000000000000000000000000000000000000000000000000000000100000000000380010000000000140016, .resumeCtxRetry ⟨0x14, 0x1000⟩ ⟨0x8001, 3⟩),
      (0x1000000000000000000000000000000000000000000000000000000000000000000000000000000001050000000000140017, .preemptAtPoint ⟨0x14, 0x1000⟩ ⟨true, 5⟩),
      (0x1000000000000000000000000000000000000000000000000000000000000000000000000000000101050000000000140017, .preemptStep ⟨0x14, 0x1000⟩ ⟨true, 5⟩),
      (0x1000000000000000000000000000000000000000000000000000000000000000000000000000000201050000000000140017, .preemptTask ⟨0x14, 0x1000⟩ ⟨true, 5⟩),
      (0x1000000000000000000000000000000000000000000000000000000000000000000000000000000301050000000000140017, .preemptBundle ⟨0x14, 0x1000⟩ ⟨true, 5⟩),
      (0x1000000000000000000000000000000000000000000000000000000000000000100000000000000580010000000000140018, .saveCtx ⟨0x14, 0x1000⟩ ⟨0x8001, 5, 0x1000⟩),
      (0x1000000000000000000000000000000000000000000000000000000000000000100000000000000580010000000000140019, .restoreCtx ⟨0x14, 0x1000⟩ ⟨0x8001, 5, 0x1000⟩),
      (0x100000000000000000000000000000000000000000000000000000000000000000000000000000000105000000000014001A, .resumeStream ⟨0x14, 0x1000⟩ ⟨true, 5⟩)] :
      List (BitVec 512 × Instr)), decodeCommand r.1 = .ok r.2 := by
  decide +kernel

/-! ### States for the tests -/

/-- Reset with a change of the current context, which is (0, 0), on a D-core. -/
def sMe (f : Ctx → Ctx) : State := State.reset.onMe f

/-- Reset with a change of the registers of the current context. -/
def sRegs (f : RegSet → RegSet) : State := sMe fun c => { c with regs := f c.regs }

/-- Reset with scalar registers 1 to 4 of the current context. -/
def sVals (a b c d : W64) : State := sRegs fun r => { r with s := [(1, a), (2, b), (3, c), (4, d)] }

/-- A privileged context on a D-core, whose ring cq0 is bound, with scalar registers 1 to 4. -/
def sPriv (a b c d : W64) : State :=
  { (sMe fun x => { x with priv := true, ringLink := [(0, 1)], regs := { x.regs with s := [(1, a), (2, b), (3, c), (4, d)] } }) with
    rings := [(1, ⟨1, 0, 0, [], [], [], []⟩)] }

/-- A privileged context on an S-core, likewise. -/
def sCore (a b c d : W64) : State :=
  ({ State.reset with cur := ⟨0x8000, 0⟩, rings := [(1, ⟨1, 0, 0, [], [], [], []⟩)] } : State).onMe fun x =>
    { x with priv := true, ringLink := [(0, 1)], regs := { x.regs with s := [(1, a), (2, b), (3, c), (4, d)] } }

/-- Reset with s1 and v1 poisoned. -/
def sTagged : State := sRegs fun r => { r with sTag := 2, vTag := 2 }

/-- The state of a next outcome. -/
def after (x : Out) : State := match x with
  | .next t => t
  | _ => State.reset

/-- An outcome that is a next state is that of its state. -/
theorem next_after {x : Out} (h : (match x with | .next _ => true | _ => false) = true) : x = .next (after x) := by
  cases x <;> simp_all [after]

/-! ### Witnesses: for each statement with hypotheses, a state and operands that meet them, clause by clause -/

theorem witness_ScalarArithmetic : State.reset.me.guard g0 = true := by decide

theorem witness_ShiftsAndFields :
    State.reset.me.guard g0 = true ∧
    -- `clz` and `ctz` of a number that is not zero; a field that ends at bit 63
    (1 : W64) ≠ 0 ∧ (63 : BitVec 6).toNat + ((0 : BitVec 6).toNat + 1) ≤ 64 ∧ (0 : BitVec 6).toNat + ((63 : BitVec 6).toNat + 1) ≤ 64 := by
  decide

theorem witness_MovesAndAddresses : State.reset.me.guard g0 = true := by decide

theorem witness_ComparesAndPredicates :
    (State.reset.me.guard g0 = true ∧ State.reset.me.sTag 1 = false ∧ State.reset.me.sTag 2 = false) ∧
    (sTagged.me.guard g0 = true ∧ sTagged.checked = false ∧ sTagged.me.sTag 1 = true) ∧
    -- source b alone is tagged
    sTagged.me.sTag 2 = false := by decide

/-- No core-store write that a context waits for has to follow an earlier access. -/
def free (c : CtxId) (s : State) : Bool := (s.core c.core).writes.all fun w => !w.of c.slot (s.ctx c).bid || ((s.ctx c).holders w).isEmpty

theorem unordered_of_free {c : CtxId} {s : State} (h : free c s = true) : unordered c s := fun w hw ho => by
  have := List.all_eq_true.mp h w hw
  simpa [ho] using this

theorem witness_ControlTransfers :
    State.reset.me.guard g0 = true ∧ State.reset.me.p 0 ≠ false ∧ State.reset.me.p 0 = true ∧
    (sTagged.me.guard g0 = true ∧ (if true then sTagged.me.vTag 1 else sTagged.me.sTag 1) = true ∧
      (if false then sTagged.me.vTag 1 else sTagged.me.sTag 1) = true) ∧
    (if true then State.reset.me.vTag 1 else State.reset.me.sTag 1) = false ∧
    (let s := sRegs fun r => { r with lc := [(0, 2), (1, 1)] }
     s.me.guard g0 = true ∧ SMap.get 0 s.me.regs.lc (if true then 1 else 0) ≠ 0 ∧ SMap.get 0 s.me.regs.lc (if false then 1 else 0) ≠ 0) ∧
    SMap.get 0 State.reset.me.regs.lc (if true then 1 else 0) = 0 ∧ State.reset.me.sTag 5 = false ∧
    -- two transfers in flight, of which the first comes next; a bundle that ends and is no probe
    (∀ e ∈ [(2, 7), (3, 9)], 2 ≤ (e : Nat × Nat).1) ∧
    (let k : Issued := ⟨State.reset.cur, Header.zero, [], false⟩
     k.probe = false ∧ (State.reset.ctx k.ctx).st.isStopped = false ∧ (State.reset.ctx k.ctx).regs.dupQ = [] ∧ free k.ctx State.reset = true) := by
  decide +kernel

/-- Reset with one write of a control register that waits for tick `gov`. -/
def sWrite (gov csr : Nat) : State := sRegs fun r => { r with csrQ := [⟨gov, csr, 5, 0⟩] }

/-- Reset with a launch of two steps, of whose tasks core 0 has `tasks`. -/
def sRun0 (tasks : List TaskRec) : State :=
  { State.reset with
    cores := [(0, { Core.init with tasks := tasks })]
    lathe0 := { Lathe.init with launches := [⟨5, ⟨false, 0⟩, ⟨7, 0⟩, ⟨0, 1, 0, 0x20000, 0, 1⟩, 1, [⟨0, [], [], [], []⟩], none, false, 0, [], [], 0, false, 0⟩] } }

theorem witness_StagesAndControlRegisters :
    State.reset.me.guard g0 = true ∧ State.reset.me.sTag 1 = false ∧
    -- FPSTAT, which every context writes; TRCD on an S-core
    timingOnD State.reset.cur.core (0x010 : BitVec 12).toNat = false ∧
    csrWritable State.reset.me.priv false (0x010 : BitVec 12).toNat = true ∧
    csrWritable State.reset.me.priv true (0x010 : BitVec 12).toNat = true ∧
    (sCore 0 0 0 0).me.guard g0 = true ∧ timingOnD (sCore 0 0 0 0).cur.core (0x040 : BitVec 12).toNat = false ∧
    -- a write that governs now, and one that governs at the next tick
    (∀ n ∈ [0x003, 0x010, 0x020, 0x130, 0x131, 0x100, 0x10F],
      ((sWrite 0 n).ctx (sWrite 0 n).cur).regs.csrQ = [⟨0, n, 5, 0⟩] ∧ 0 ≤ ((sWrite 0 n).ctx (sWrite 0 n).cur).regs.tick) ∧
    -- STEPCTL in a task of a launch, and VBANKPWR
    (let s := (sRun0 [⟨5, 0, 0⟩]).onMe fun c => { c with hasTask := true, launch := 5, regs := { c.regs with csrQ := [⟨0, 0x00C, 1, 0⟩] } }
     (s.ctx s.cur).regs.csrQ = [⟨0, 0x00C, 1, 0⟩] ∧ (1 : W64).getLsbD 0 = true ∧ (s.ctx s.cur).hasTask = true ∧
       ((s.lathe (dieOf s.cur.core)).launch (s.ctx s.cur).launch).isSome = true) ∧
    ((sWrite 0 0x012).ctx (sWrite 0 0x012).cur).regs.csrQ = [⟨0, 0x012, 5, 0⟩] ∧
    (∀ w ∈ ((sWrite 1 0x010).ctx (sWrite 1 0x010).cur).regs.csrQ, ((sWrite 1 0x010).ctx (sWrite 1 0x010).cur).regs.tick < w.gov) ∧
    -- the end of a bundle with the rot bit, behind a `rotinit` and without one, and of a marked one
    (∀ r ∈ [some (0 : BitVec 5), none], ∀ m ∈ [true, false],
      let s := (sRegs fun x => { x with rrb := 29 }).onMe fun x => { x with newRrb := r }
      let k : Issued := ⟨s.cur, { Header.zero with rot := true, mark := m }, [], false⟩
      k.probe = false ∧ (s.ctx k.ctx).st.isStopped = false ∧ (s.ctx k.ctx).regs.dupQ = [] ∧ free k.ctx s = true) ∧
    -- results for the last rotating scalar and predicate register
    (∀ v ∈ [LandVal.s 63 7, .p 15 true],
      let l : Landing := ⟨some 0, v, false, none, 0⟩
      let c : Ctx := { State.reset.me with regs := { State.reset.me.regs with landing := [l] } }
      c.regs.landing = [l] ∧ l.isDue c.regs.tick = true) ∧ 15 < 16 := by decide +kernel

/-- What the end of those bundles leaves: R64 and R66, and a mark's shadow. -/
theorem test_rot :
    ∀ p ∈ [(some (0 : BitVec 5), (31 : BitVec 5)), (none, 28)],
      let s := (sRegs fun x => { x with rrb := 29 }).onMe fun x => { x with newRrb := p.1 }
      let y := (s.commit ⟨s.cur, { Header.zero with rot := true, mark := true }, [], false⟩).me
      y.regs.rrb = p.2 ∧ y.shadow.rrb = p.2 := by decide +kernel

theorem witness_SupervisorOperations :
    (∀ s ∈ [sPriv 16 0 0 0, sCore 16 0 0 0],
      s.me.guard g0 = true ∧ s.me.priv = true ∧ s.me.sTag 1 = false ∧ s.me.sTag 2 = false ∧ s.me.ringId (0 : BitVec 4).toNat ≠ 0 ∧
        (s.me.s 1).toNat ≤ 16) ∧
    isS (sPriv 16 0 0 0).cur.core = false ∧ isS (sCore 16 0 0 0).cur.core = true ∧
    -- `ownset` of the last bank, and of all 64
    field ((sPriv 63 0 0 0).me.s 1) 5 0 + ((0 : BitVec 6).toNat + 1) ≤ 64 ∧
    field ((sPriv 64 0 0 0).me.s 1) 5 0 + ((63 : BitVec 6).toNat + 1) ≤ 64 ∧
    (State.reset.me.guard g0 = true ∧ State.reset.checked = false) := by decide +kernel

theorem witness_PrivilegeIsChecked :
    (State.reset.me.guard g0 = true ∧ State.reset.checked = false ∧ State.reset.me.priv = false) ∧
    -- CTXPRIO's neighbours: the numbers on either side of h0 to h15, and the last CSR before lc0
    ∀ n ∈ [(0x000 : BitVec 12), 0x011, 0x0FF, 0x110, 0x12F],
      n ≠ 0x010 ∧ n ≠ 0x012 ∧ ¬ (0x100 ≤ n ∧ n ≤ 0x10F) ∧ n ≠ 0x130 ∧ n ≠ 0x131 ∧ timingOnD State.reset.cur.core n.toNat = false ∧ n ≠ 0x00C := by
  refine ⟨by decide +kernel, ?_⟩
  simp [timingOnD]

/-- What a class lacks, and what a privileged context may not write either: the ends of TRCD to TRFC, an `mma` of f64, and CLASS, FAULTINFO and TRCD. -/
theorem witness_PrivilegeIsChecked_classes :
    (State.reset.me.guard g0 = true ∧ State.reset.checked = false ∧ isS State.reset.cur.core = false ∧ (0x040 : BitVec 12) ≤ 0x040 ∧
      (0x048 : BitVec 12) ≤ 0x048) ∧
    ((sCore 0 0 0 0).me.guard g0 = true ∧ (sCore 0 0 0 0).checked = false ∧ isS (sCore 0 0 0 0).cur.core = true ∧
      (⟨g0, 0, .f64, .f64, 0, false, 1, 2⟩ : MMul).fa = .f64) ∧
    (∀ s ∈ [sPriv 0 0 0 0, sCore 0 0 0 0], s.me.guard g0 = true ∧ s.checked = false ∧ s.me.priv = true ∧
      timingOnD s.cur.core (0x001 : BitVec 12).toNat = false ∧ timingOnD s.cur.core (0x022 : BitVec 12).toNat = false) ∧
    timingOnD (sCore 0 0 0 0).cur.core (0x040 : BitVec 12).toNat = false ∧
    -- R70: an unprivileged context of a D-core meets the class before the privilege
    exec (.csrw ⟨g0, 5, 0x040, .reg 1⟩) State.reset = .next (State.reset.precise State.reset.cur .unsupported 0 1 0x51) := by
  exact ⟨by decide +kernel, by decide +kernel, by decide +kernel, by decide +kernel, by rfl⟩

theorem witness_VectorArithmetic :
    NumFmt.ofElem .f32 = .flt FFmt.f32 ∧ (∃ f, NumFmt.ofElem .bf16 = .flt f) ∧ (∃ i, NumFmt.ofElem .u8 = .int i) ∧
    -- `dot4` of bytes of each kind
    (∃ f, NumFmt.ofElem .e4m3 = .flt f) ∧ ∃ i, NumFmt.ofElem .i8 = .int i :=
  ⟨rfl, ⟨_, rfl⟩, ⟨_, rfl⟩, ⟨_, rfl⟩, ⟨_, rfl⟩⟩

theorem witness_VectorCompareSelectShift : ({ v0 with ext := 1 } : VOp).ext = 1 ∧ v0.ext ≠ 1 := by decide

theorem witness_VectorConversions :
    (∃ st, ({ v0 with ext := 3 } : VOp).srcTy = some st ∧ st.bits = v0.ty.bits) ∧
    (∃ st, ({ v0 with ty := .i8 } : VOp).srcTy = some st ∧ ElemTy.i8.bits < st.bits) ∧
    (∃ st, ({ v0 with ext := 9 } : VOp).srcTy = some st ∧ st.bits < v0.ty.bits) ∧ ∃ f, NumFmt.ofElem .f16 = .flt f :=
  ⟨⟨.i32, by decide⟩, ⟨.f32, by decide⟩, ⟨.e4m3, by decide⟩, ⟨_, rfl⟩⟩

/-- A V0 result that waits to land at tick 4. -/
def wide0 : Landing := ⟨some 4, .v 1 7 (BitVec.allOnes 128), false, none, 0⟩

/-- A state in whose current context that result waits. -/
def sLanding : State := sRegs fun r => { r with landing := [wide0] }

/-- The same at tick 4, where a `dup` compares it with `second`. -/
def sDup (second : Landing) : State := sRegs fun r => { r with tick := 4, landing := [wide0], dupQ := [⟨0, second, 0⟩] }

theorem witness_MaskOperationsAndDup :
    ((sLanding.me.regs.landing.drop sLanding.me.mEnd).getLast?.filter fun l => decide (l.iss = sLanding.me.regs.tick) && l.val.isWide) = some wide0 ∧
    ((State.reset.me.regs.landing.drop State.reset.me.mEnd).getLast?.filter fun l =>
      decide (l.iss = State.reset.me.regs.tick) && l.val.isWide) = none ∧
    (let s := sDup wide0
     (s.ctx s.cur).regs.dupQ = [⟨0, wide0, 0⟩] ∧ (s.ctx s.cur).unequal ⟨0, wide0, 0⟩ = false) ∧
    (let other : Landing := { wide0 with val := .v 1 8 (BitVec.allOnes 128) }
     let s := sDup other
     (s.ctx s.cur).regs.dupQ = [⟨0, other, 0⟩] ∧ other.isDue (s.ctx s.cur).regs.tick = true ∧ (s.ctx s.cur).regs.landing.contains other = false ∧
      (s.ctx s.cur).regs.landing = [wide0] ∧ (⟨0, other, 0⟩ : DupPend).concerns wide0 = true) := by decide +kernel

theorem witness_TransfersAndLatches : State.reset.me.sTag 4 = false ∧ State.reset.me.vTag 7 = false := by decide

/-- An `mxfp4` product of one block of K on tile 0, with A at s1 and B at s2. -/
def mm0 : MMul := ⟨g0, 0, .mxfp4, .mxfp4, 0, false, 1, 2⟩

/-- An image move of tile 0 with s1, of 8-bit integers. -/
def mv0 : MMove := ⟨g0, 0, 1, 0, 5, 0⟩

theorem witness_MatrixOperations_products :
    let s := sCore 0 0x40000 0 0
    (isS s.cur.core = true ∧ rowSize .mxfp4 = 16 ∧ s.me.guard g0 = true ∧ s.me.sTag 2 = false ∧ field (s.me.s 2) 19 0 = 0x40000 ∧
      0x40000 % 128 = 0 ∧ s.ownerFault (s.who s.cur) s.cur.core 5 0x40000 (4 * 16) = none ∧ (s.coreBytes s.cur.core 0x40000 (4 * 16)).2 = none) ∧
    (s.me.sTag 1 = false ∧ field (s.me.s 1) 19 0 = 0 ∧ ¬ (mm0.fa = .f64 ∧ isS s.cur.core = true) ∧ leavesGroup 0 1024 = false ∧
      leavesGroup 0x40000 (4 * 16) = false ∧ 0 / 2 ^ 18 ≠ 0x40000 / 2 ^ 18 ∧ s.ownerFault (s.who s.cur) s.cur.core 5 0 1024 = none ∧
      (s.coreBytes s.cur.core 0 1024).2 = none) ∧
    s.me.rowFault 1 1024 = none := by decide +kernel

theorem witness_MatrixOperations_moves :
    let s := sCore 0x80 0 0 0
    (s.me.guard g0 = true ∧ s.me.sTag 1 = false ∧ field (s.me.s 1) 19 0 % 128 = 0 ∧ imageBytes 5 4 = 256 ∧
      s.ownerFault (s.who s.cur) s.cur.core 5 0x80 256 = none ∧ (s.coreBytes s.cur.core 0x80 256).2 = none) ∧
    -- lines 0 to 3 on an S-core, 63 on a D-core; a WINDOW tile and one of F64 mode
    (s.me.guard g0 = true ∧ ¬ (isS s.cur.core = true ∧ 4 ≤ (12 : BitVec 8).toNat / 4)) ∧
    ¬ (isS State.reset.cur.core = true ∧ 4 ≤ (252 : BitVec 8).toNat / 4) ∧ s.me.vTag 1 = false ∧ (s.me.seenTile 0).mode = .window ∧
    ((sRegs fun r => { r with tiles := [(0, ⟨.f64, 0, [], []⟩)] }).me.seenTile 0).mode = .f64 := by decide +kernel

theorem witness_CoreStoreAccesses :
    -- `ldc` and `stc` of the last doubleword of core store
    (let s := sPriv 0 0xFFFF8 0 0
     s.me.guard g0 = true ∧ s.me.sTag 2 = false ∧ (s.me.s 2 + (0 : BitVec 30).signExtend 64).toNat % 2 ^ 20 % 8 = 0 ∧
      s.ownerFault (s.who s.cur) s.cur.core 6 0xFFFF8 8 = none ∧ (s.coreBytes s.cur.core 0xFFFF8 8).2 = none ∧
      s.ownerFault (s.who s.cur) s.cur.core 7 0xFFFF8 8 = none ∧ (if false then s.me.vTag 1 else s.me.sTag 1) = false) ∧
    -- `ldgc.w` of v1 through the index array at s2 and the data at s3, under a mask of elements 0 and 1
    (let s := sPriv 0 0x100 0x1000 0
     let t := s.onMe fun c => { c with regs := { c.regs with m := [(1, 0xFF)] } }
     let es := (List.range (128 / 4)).filter fun e => enabled (t.me.m 1) (8 * 4) e
     let at_ (e : Nat) : Nat := ((t.me.s 3).toNat + ofBytes (t.coreBytes t.cur.core (0x100 + 4 * e) 4).1 * 4) % 2 ^ 20
     es = [0, 1] ∧ t.me.guard g0 = true ∧ t.me.sTag 2 = false ∧ t.me.sTag 3 = false ∧ (t.me.s 2 + (0 : BitVec 21).signExtend 64).toNat % 2 ^ 20 = 0x100 ∧
      (t.me.s 3).toNat % 4 = 0 ∧ t.ownerFault (t.who t.cur) t.cur.core 6 0x100 (512 / 4) = none ∧ (t.coreBytes t.cur.core 0x100 (512 / 4)).2 = none ∧
      (∀ e ∈ es, t.ownerFault (t.who t.cur) t.cur.core 6 (at_ e) 4 = none ∧ (t.coreBytes t.cur.core (at_ e) 4).2 = none) ∧
      -- `stsc.w` with the index vector v2
      t.me.vTag 2 = false ∧ t.me.vTag 1 = false ∧ (t.me.s 2 + (0 : BitVec 21).signExtend 64).toNat % 4 = 0 ∧
      ∀ e ∈ es, t.ownerFault (t.who t.cur) t.cur.core 7 ((0x100 + elem (t.me.v 2) (8 * 4) e * 4) % 2 ^ 20) 4 = none) := by decide +kernel

/-- An unprivileged context of slot 0 whose core store has bank 0 open to slot 1 of another address space. -/
def sOwned (a b c d : W64) : State :=
  (sVals a b c d).onCore 0 fun k => { k with owners := [(0, ⟨true, 2, 1⟩)] }

/-- The forms of core-store accesses that trap: offset 4 of a doubleword, base 2 of a gather, a base of `s3` or an index 1 that is no multiple, and bank 0 of
another owner, of each. -/
theorem witness_CoreStoreAccesses_traps :
    (let s := sVals 0 4 2 0
     s.me.guard g0 = true ∧ s.checked = false ∧ s.me.sTag 2 = false ∧ s.me.sTag 3 = false ∧ s.me.vTag 1 = false ∧ s.me.vTag 2 = false ∧
      (s.me.s 2 + (0 : BitVec 30).signExtend 64).toNat % 2 ^ 20 % widthBytes .d ≠ 0 ∧ (if false then s.me.vTag 1 else s.me.sTag 1) = false ∧
      -- `ldgc` with base s3, then with base s2 and x s3; `stsc.w` with base s3
      (s.me.s 3).toNat % 2 ^ 20 % 4 ≠ 0 ∧ ((s.me.s 2).toNat % 2 ^ 20 % 4 = 0 ∧ (s.me.s 3).toNat % widthBytes .w ≠ 0) ∧ (s.me.s 3).toNat % widthBytes .w ≠ 0) ∧
    (let s := sOwned 0 8 0 0
     s.me.guard g0 = true ∧ s.checked = false ∧ s.me.sTag 2 = false ∧ 8 % 2 ^ 20 % widthBytes .d = 0 ∧
      s.badBank (s.who s.cur) s.cur.core 8 8 = some 0 ∧ s.badBank (s.who s.cur) s.cur.core (8 % 2 ^ 20) (512 / 4) = some 0 ∧ 8 % 4 = 0 ∧
      (s.me.s 3).toNat % 4 = 0 ∧ s.me.vTag 1 = false ∧ s.me.vTag 2 = false ∧
      (List.range (128 / 4)).find? (fun i => enabled (s.me.m 0) (8 * 4) i &&
        (s.badBank (s.who s.cur) s.cur.core ((8 + elem (s.me.v 2) (8 * 4) i * 4) % 2 ^ 20) 4).isSome) = some 0 ∧
      s.badBank (s.who s.cur) s.cur.core ((8 + elem (s.me.v 2) (8 * 4) 0 * 4) % 2 ^ 20) 4 = some 0) := by decide +kernel

/-- A window of 2 rows of 32 bytes, row 0 in state `st`, bound as w0 of a privileged context. -/
def sWindow (st : SlotState) : State :=
  let s : State := (sPriv 0 0 0 0).onMe fun c => { c with winLink := [(0, 1)] }
  { s with windows := [(1, ⟨true, [0x0000000811020000, 0, 0, 0, 0, 0, 0, 0], 32, 0, [(0, ⟨0, st⟩)]⟩)] }

theorem witness_WindowLoads :
    ∀ st ∈ [SlotState.filled, SlotState.poisoned],
      let s := sWindow st
      let w := s.window (s.me.winId (0 : BitVec 3).toNat)
      -- the last doubleword of the row
      s.me.guard g0 = true ∧ s.me.sTag 1 = false ∧ s.me.sTag 2 = false ∧ w.bound = true ∧ 24 + 8 ≤ w.stride ∧ w.byteAt 0 24 % 8 = 0 ∧
        (w.slot 0).tag.toNat = 0 % 2 ^ 16 ∧ s.ownerFault (s.who s.cur) s.cur.core 6 (w.byteAt 0 24) 8 = none ∧ (w.slot 0).st = st ∧
        (s.coreBytes s.cur.core (w.byteAt 0 24) 8).2 = none := by decide +kernel

/-- A tagged source of a bound window, an unbound window, and a filled row whose sector is poisoned. -/
theorem witness_WindowLoads_speculative :
    (let s := (sWindow .filled).onMe fun c => { c with regs := { c.regs with sTag := 2 } }
     s.me.guard g0 = true ∧ (s.window (s.me.winId 0)).bound = true ∧ (s.me.sTag 1 = true ∨ s.me.sTag 2 = true)) ∧
    ((sPriv 0 0 0 0).me.guard g0 = true ∧ ((sPriv 0 0 0 0).window ((sPriv 0 0 0 0).me.winId 0)).bound = false ∧ (sPriv 0 0 0 0).checked = false) ∧
    (let s := (sWindow .filled).onCore 0 fun k => { k with store := ⟨[], [], [((sWindow .filled).window 1 |>.byteAt 0 24 |> (· / 32), true)]⟩ }
     let w := s.window (s.me.winId 0)
     s.me.guard g0 = true ∧ s.me.sTag 1 = false ∧ s.me.sTag 2 = false ∧ w.bound = true ∧ 24 + 8 ≤ w.stride ∧ w.byteAt 0 24 % 8 = 0 ∧
       (w.slot 0).tag.toNat = 0 % 2 ^ 16 ∧ s.ownerFault (s.who s.cur) s.cur.core 6 (w.byteAt 0 24) 8 = none ∧ (w.slot 0).st = .filled ∧
       (s.coreBytes s.cur.core (w.byteAt 0 24) 8).2 ≠ none) := by decide +kernel

/-- Where a window load traps: an offset whose doubleword ends beyond the row, one that is no multiple, a row that its slot does not hold, an empty slot and
one that is being filled, and a bank of another owner. -/
theorem witness_WindowLoads_traps :
    (let s := sWindow .filled
     let w := s.window (s.me.winId (0 : BitVec 3).toNat)
     s.me.guard g0 = true ∧ s.checked = false ∧ s.me.sTag 1 = false ∧ s.me.sTag 2 = false ∧ w.bound = true ∧ w.stride < 25 + 8 ∧ 4 + 8 ≤ w.stride ∧
       w.byteAt 0 4 % 8 ≠ 0 ∧ 24 + 8 ≤ w.stride ∧ w.byteAt 1 24 % 8 = 0 ∧ (w.slot 1).tag.toNat ≠ 1 % 2 ^ 16) ∧
    (∀ st ∈ [SlotState.empty, .filling],
      let s := sWindow st
      let w := s.window (s.me.winId (0 : BitVec 3).toNat)
      w.byteAt 0 24 % 8 = 0 ∧ ((w.slot 0).st = .empty ∨ (w.slot 0).st = .filling)) ∧
    (let s := ((sWindow .filled).onMe fun c => { c with priv := false }).onCore 0 fun k => { k with owners := (List.range 64).map fun b => (b, ⟨true, 2, 1⟩) }
     let w := s.window (s.me.winId (0 : BitVec 3).toNat)
     s.me.guard g0 = true ∧ s.checked = false ∧ w.bound = true ∧ 24 + 8 ≤ w.stride ∧ w.byteAt 0 24 % 8 = 0 ∧ (w.slot 0).tag.toNat = 0 % 2 ^ 16 ∧
       (w.slot 0).st = .filled ∧ (s.badBank (s.who s.cur) s.cur.core (w.byteAt 0 24) 8).isSome = true) := by decide +kernel

/-- Whether a check answers with a value. -/
def isOk {ε α : Type} : Res ε α → Bool
  | .ok _ => true
  | .error _ => false

theorem ok_of {ε α : Type} {r : Res ε α} (h : isOk r = true) : ∃ a, r = .ok a := by
  cases r with
  | ok a => exact ⟨a, rfl⟩
  | error e => cases h

/-- An address space of 3 tensors, with its copy templates at 0x4000, stencils at 0x6000, collective templates at 0x7000 and groups at 0x8000. -/
def space1 : AddrSpace :=
  ⟨⟨1, false, 0, 0, false, 4, false, 0, 0, 0, 0, 0⟩, [0x2000, 3, 0x4000, 0x6000, 0x7000, 0x8000, 0, 0x10000], 0, 0, []⟩

/-- Tables in device memory: copy template 0 moves one f32 element of tensor 0 to core store, template 1 restricts four of them by a
stencil of one tap; collective template 0 sums one element of tensor 0 into tensor 1 over group 0, which is package 0 alone. -/
def tables : Memory :=
  ⟨[(0x4000, 1), (0x4008, 2), (0x4028, 1), (0x402C, 1), (0x4030, 1), (0x4034, 1), (0x4038, 1), (0x4060, 1), (0x4064, 1), (0x4068, 1),
    (0x406C, 1), (0x4070, 1), (0x4080, 21), (0x4088, 2), (0x40A8, 2), (0x40AC, 2), (0x40B0, 1), (0x40B4, 1), (0x40B8, 1), (0x40E0, 1),
    (0x40E4, 1), (0x40E8, 1), (0x40EC, 1), (0x40F0, 1), (0x6000, 129), (0x6001, 36), (0x600A, 1), (0x7000, 1), (0x7018, 1), (0x7028, 1),
    (0x7030, 2), (0x8000, 1)], [], []⟩

/-- Cached entries of that space: tensors 0 and 1 of f32, 8 by 4, and tensor 2 of 32 records, each of one tile of 4 KiB in HBM. -/
def entries : List CachedEntry :=
  [⟨1, 0, none, [0x5, 0x400000008, 0, 0, 0x1000, 1, 0, 0]⟩, ⟨1, 0, some 0, [0x100000019, 0]⟩,
   ⟨1, 1, none, [0x5, 0x400000008, 0, 0, 0x1010, 1, 0, 0]⟩, ⟨1, 1, some 0, [0x110000019, 0]⟩,
   ⟨1, 2, none, [0xF3, 32, 0, 0, 0x1020, 1, 0, 0]⟩, ⟨1, 2, some 0, [0x120000019, 0]⟩]

/-- A window descriptor: rows of 8 elements of tensor 0 along dimension 1, two slots at core-store offset 0x1000. -/
def desc0 : List W64 := [0x00000008010A0000, 0x1000, 0, 0, 0, 0, 0, 0]

/-- A privileged context of that space, with its tables, its window descriptor at core-store offset 0, a bound window w1 and pod number 0. -/
def sTab : State :=
  { ((sPriv 0 0 0 0).onMe fun c => { c with asid := 1, winLink := [(1, 2)] }) with
    spaces := [(1, some space1)], cache := entries, dev := tables
    cores := [(0, { Core.init with store := ⟨[(2, 10), (3, 1), (4, 8), (9, 16)], [], []⟩ })]
    windows := [(2, ⟨true, desc0, 32, 0, []⟩)]
    links := { State.reset.links with selfValid := true } }

theorem witness_QueuedAccesses :
    -- the last doubleword of cluster store; the last of a deck partition of one way; an element of tensor 0
    (let s := sPriv 0x1FFFFF8 0 0 0
     s.me.guard g0 = true ∧ s.hdr.mark = false ∧ (∀ r ∈ [(1 : BitVec 6)], s.me.sTag r = false) ∧
      (∀ slot ∈ [6, 7], s.addressFault (s.who s.cur) (.k (s.me.s 1 + (0 : BitVec 30).signExtend 64).toNat) (widthBytes .d) slot = none) ∧
      (if false then s.me.vTag 2 else s.me.sTag 2) = false ∧ s.me.gate.length < 64) ∧
    (let s := (sPriv 0x7FFFF8 0 0 0).onGroup 0 fun g => { g with dpart := 1 }
     ∀ slot ∈ [6, 7], s.addressFault (s.who s.cur) (.d (s.me.s 1 + (0 : BitVec 30).signExtend 64).toNat) (widthBytes .d) slot = none) ∧
    (∀ r ∈ [(0 : BitVec 6), 0, 0, 0, 0], sTab.me.sTag r = false) ∧
    (∀ slot ∈ [6, 7], sTab.addressFault (sTab.who sTab.cur)
      (.t .m (0 : BitVec 4).toNat (SMap.get 0 sTab.me.regs.h 0).toNat ([(0 : BitVec 6), 0, 0, 0, 0].map fun r => (sTab.me.s r).toNat)) (widthBytes .w)
      slot = none) ∧
    -- marked bundles, and `ldsm` with a tagged coordinate, with a tensor that does not exist, and in a marked bundle with a page that does not
    (let s : State := { sPriv 0x40 0 0 0 with hdr := { Header.zero with mark := true } }
     s.hdr.mark = true ∧ isOk (s.resolve (s.who s.cur) (.k 0x40) (widthBytes .d) 6 .read) = true ∧
      isOk (s.resolve (s.who s.cur) (.k 0x40) (widthBytes .d) 7 .write) = true) ∧
    (∃ r ∈ [(1 : BitVec 6), 0, 0, 0, 0], sTagged.me.sTag r = true) ∧
    (let s := sTab.onMe fun c => { c with regs := { c.regs with h := [(0, 99)] } }
     s.addressFault (s.who s.cur) (.t .m 0 99 [0, 0, 0, 0, 0]) (widthBytes .w) 6 ≠ none) ∧
    (let s : State := { sTab with hdr := { Header.zero with mark := true }, cache := [], spaces := [] }
     s.hdr.mark = true ∧ isOk (s.resolve (s.who s.cur) (.t .m 0 0 [0, 0, 0, 0, 0]) (widthBytes .w) 6 .read) = false) ∧
    -- `amo` on the cluster store
    (let o : AmoOp := ⟨g0, false, 2, 1, .k, .plain, .context, .add, 3, 0⟩
     let s := sPriv 0x40 1 0 0
     s.me.guard o.g = true ∧ tagsOf s.me 7 (amoRegs o) = none ∧ amoNegative o s.me = none ∧
      s.addressFault (s.who s.cur) (amoTarget o s.me) 8 7 = none ∧
      isOk (s.resolve (s.who s.cur) (amoTarget o s.me) 8 7 .both) = true) := by decide +kernel

theorem witness_EngineCommands_copies :
    (sTab.me.guard g0 = true ∧ sTab.me.sTag 0 = false ∧ sTab.me.ringId (0 : BitVec 4).toNat ≠ 0) ∧
    (∃ p, sTab.copyProbe (sTab.who sTab.cur) false 0 0 0 = .ok p) ∧ (∃ p, sTab.copyProbe (sTab.who sTab.cur) true 1 0 0 = .ok p) ∧
    ∃ p, sTab.collProbe (sTab.who sTab.cur) 0 0 0 = .ok p :=
  ⟨by decide +kernel, ok_of (by decide +kernel), ok_of (by decide +kernel), ok_of (by decide +kernel)⟩

theorem witness_EngineCommands_windows_and_blocks :
    (sTab.me.guard g0 = true ∧ field (sTab.me.s 0) 19 0 = 0 ∧ 0 % 64 = 0 ∧ sTab.ownerFault (sTab.who sTab.cur) sTab.cur.core 8 0 64 = none ∧
      winRows (sTab.descAt 0) = 2) ∧
    (∃ p, sTab.windowProbe 0 (sTab.descAt 0) false 0 2 = .ok p) ∧
    ((sTab.window (sTab.me.winId (1 : BitVec 3).toNat)).bound = true ∧ (1 : Nat) ≤ winRows desc0 ∧ (2 : Nat) ≤ winRows desc0) ∧
    (∃ p, sTab.windowProbe 1 (sTab.window (sTab.me.winId 1)).desc false 2 2 = .ok p) ∧
    -- all 32 lines of the tile, and one
    (∃ p, sTab.blockProbe 0 0 0 0 32 = .ok p) ∧ ∃ p, sTab.blockProbe 0 0 0 31 1 = .ok p :=
  ⟨by decide +kernel, ok_of (by decide +kernel), by decide +kernel, ok_of (by decide +kernel), ok_of (by decide +kernel), ok_of (by decide +kernel)⟩

theorem witness_EngineCommands_signals :
    sTab.me.guard g0 = true ∧ (true = true → sTab.me.ringId (0 : BitVec 4).toNat ≠ 0) ∧ sTab.links.selfValid = true ∧
    (sTab.me.world = true ∨ sTab.sigSealed false 0 = false) ∧ sTab.packagePresent (field (0 : W64) 7 0) = true ∧
    (sTab.me.world = true ∨ sTab.sigSealed true 0 = false) ∧ sTab.packagePresent (field (0 : W64) 29 22) = true := by decide +kernel

/-- A privileged D-core context whose reuse entry 0 is `e`. -/
def sReuse (e : ReuseEntry) : State := (sPriv 0 0 0 0).onGroup 0 fun g => { g with reuse := [(0, e)] }

theorem witness_FeatureReuse :
    (let s := sPriv 0 0 0 0
     s.me.guard g0 = true ∧ s.me.sTag 1 = false ∧ field (s.me.s 1) 19 0 % 32 = 0 ∧
      s.ownerFault (s.who s.cur) s.cur.core 8 (field (s.me.s 1) 19 0) (((0 : BitVec 12).toNat + 1) * (ElemTy.f32.bits / 8)) = none ∧
      -- `frs` of one element, and of 1,024 of f32
      (field (s.me.s 3) 11 0 + 1) * (ElemTy.f32.bits / 8) ≤ 4096 ∧ (field (1023 : W64) 11 0 + 1) * (ElemTy.f32.bits / 8) ≤ 4096) ∧
    -- an entry of the task, and an invalid one
    (let s := sReuse ⟨true, 0, 0, 0, 0, [], 0, 0, 5⟩
     s.me.guard g0 = true ∧ (s.reuseEntry s.cur 0).valid = true ∧ (s.reuseEntry s.cur 0).keyOf s.me = true ∧
      (s.reuseEntry s.cur 0).run ≠ BitVec.allOnes 32) ∧
    (State.reset.reuseEntry State.reset.cur 0).valid = false := by decide +kernel

/-- An S-core context that commands channel 0 of stack 0 with all banks leased, at its tick 1,000, with the given open rows. -/
def sRow (rows : SMap (Option Nat)) : State :=
  ((sCore 0 0 0 0).onMe fun c => { c with st := .ready, mono := 1000 }).onChannel 0 0 fun k => { k with lease := 0x3FFFC001, openRow := rows }

theorem witness_RowCommands :
    (∀ s ∈ [sRow [], sRow [(15, some 7)]], s.me.guard g0 = true ∧ isS s.cur.core = true ∧ s.rowChannel false = (0, 0) ∧
      s.rowLease false [15] = none ∧
      s.rowLease false ((List.range 16).filter fun b => (((s.channel 0 0).row b).isSome)) = none ∧
      s.rowLease false [3, 7, 11, 15] = none) ∧
    -- `ract` of a closed bank, at the first tick that each interval allows
    (let k := { (sRow []).channel 0 0 with rpreAt := [(15, some 972)], racts := [968, 980, 984, 992], rrefAt := [(3, some 600)] }
     k.row 15 = none ∧ tooSoon 1000 (SMap.get none k.rpreAt 15) 28 = false ∧ tooSoon 1000 k.racts.getLast? 8 = false ∧
      (4 ≤ k.racts.length → tooSoon 1000 k.racts.head? 32 = false) ∧ tooSoon 1000 (SMap.get none k.rrefAt (15 % 4)) 400 = false) ∧
    -- `rpre`, `rld` and `rstw` of an open one
    (let k := { (sRow [(15, some 7)]).channel 0 0 with ractAt := [(15, some 936)], rstwAt := [(15, some 970)] }
     k.row 15 ≠ none ∧ tooSoon 1000 (SMap.get none k.ractAt 15) 64 = false ∧ tooSoon 1000 (SMap.get none k.rstwAt 15) 30 = false ∧
      tooSoon 1000 (some 972) 28 = false ∧
      (∀ b < 16, k.row b ≠ none → tooSoon 1000 (SMap.get none k.ractAt b) 64 = false ∧ tooSoon 1000 (SMap.get none k.rstwAt b) 30 = false)) ∧
    -- `rref` of a set whose banks are closed
    (∀ b ∈ [3, 7, 11, 15], ((sRow []).channel 0 0).row b = none) := by decide +kernel

/-- Where row commands trap: banks that are not leased; a bank in the wrong state; each interval one tick too soon with those before it passed; a set with an
open bank. -/
theorem witness_RowCommands_traps :
    (let s := (sRow []).onChannel 0 0 fun k => { k with lease := 0x1FFFC001 }
     s.me.guard g0 = true ∧ isS s.cur.core = true ∧ s.checked = false ∧ s.rowChannel false = (0, 0) ∧ s.rowLease false [15] ≠ none) ∧
    (sRow []).checked = false ∧ ((sRow [(15, some 7)]).channel 0 0).row 15 ≠ none ∧ ((sRow []).channel 0 0).row 15 = none ∧
    tooSoon 1000 (some 973) 28 = true ∧ tooSoon 1000 (some 972) 28 = false ∧ tooSoon 1000 (some 993) 8 = true ∧ tooSoon 1000 (some 992) 8 = false ∧
    (decide (4 ≤ [969, 970, 971, 972].length) && tooSoon 1000 [969, 970, 971, 972].head? 32) = true ∧ tooSoon 1000 [969, 970, 971, 972].getLast? 8 = false ∧
    (decide (4 ≤ [968, 970, 971, 972].length) && tooSoon 1000 [968, 970, 971, 972].head? 32) = false ∧ tooSoon 1000 (some 601) 400 = true ∧
    tooSoon 1000 (some 937) 64 = true ∧ tooSoon 1000 (some 936) 64 = false ∧ tooSoon 1000 (some 971) 30 = true ∧
    (let s := sRow [(11, some 7), (15, some 7)]
     s.rowLease false [3, 7, 11, 15] = none ∧ [3, 7, 11, 15].find? (fun x => ((s.channel 0 0).row x).isSome) = some 11) := by decide +kernel

/-- A privileged context with ring cq0 as given. -/
def sRing (r : Ring) : State := { sPriv 0 0 0 0 with rings := [(1, r)] }

/-- A queued load that has not performed. -/
def load0 : QAcc := ⟨0, 0, .load false, .k 0, [], [none, none, none, none, none, none, none, none], false, 5, .plain, .context, 0, none, .queued, []⟩

/-- Reset with a queue and landing entries of the current context. -/
def sQueue (q : List QAcc) (l : List Landing) : State :=
  (sMe fun c => { c with queue := q, seq := 1, regs := { c.regs with landing := l } })

theorem witness_SynchronisationOperations :
    (let s := sRing ⟨1, 1, 0, [(0, true)], [(0, 5)], [], []⟩; s.me.ringId (0 : BitVec 4).toNat ≠ 0 ∧ (s.ring (s.me.ringId 0)).ready = true) ∧
    (let s := sRing ⟨1, 0, 0, [], [], [], []⟩; s.me.ringId (0 : BitVec 4).toNat ≠ 0 ∧ (s.ring (s.me.ringId 0)).ready = false) ∧
    -- nobody waits on that ring, and `serveFirst` leaves it ready
    (let s := sRing ⟨1, 1, 0, [(0, true)], [(0, 5)], [], []⟩
     s.ringWaiters s.cur.core (s.me.ringId 0) = [] ∧ (s.ring (s.me.ringId 0)).owed = [] ∧ ((s.serveFirst 1).ring ((s.serveFirst 1).me.ringId 0)).ready = true) ∧
    -- one that is owed a `rels` from before
    (let s := sRing ⟨1, 1, 0, [(0, true)], [(0, 5)], [], [(0, 3)]⟩
     s.ringWaiters s.cur.core (s.me.ringId 0) = [] ∧ (s.ring (s.me.ringId 0)).owed = [(0, 3)] ∧ (s.ring (s.me.ringId 0)).ready = true ∧
      (0, 3).2 < s.endKey s.cur.core) ∧
    (State.reset.me.allArrived 0x1F State.reset.me.seq = true ∧ State.reset.me.badArrival 0x1F State.reset.me.seq = none) ∧
    (let s := sQueue [load0] [⟨none, .s 5 0, false, some (.k, 0), 0⟩]
     s.me.allArrived 0x1F s.me.seq = false ∧ s.me.queue.any (fun q => !q.isDone) = true) ∧
    -- a fence that waits, and one with nothing before it
    (let waits (s : State) : Bool := s.me.queue.any (fun q => !q.isDone) || (s.core s.cur.core).writes.any fun w => w.of s.cur.slot s.me.bid
     waits (sQueue [load0] []) = true ∧ waits State.reset = false) ∧
    -- a barrier of core scope, of cluster scope on a D-core, and of 64 on an S-core
    ((isS State.reset.cur.core = false ∨ true = false ∨ (127 : BitVec 12).toNat < 64) ∧
      (isS (sCore 0 0 0 0).cur.core = false ∨ true = false ∨ (63 : BitVec 12).toNat < 64) ∧
      (isS (sCore 0 0 0 0).cur.core = false ∨ false = false ∨ (3 : BitVec 12).toNat < 64)) ∧
    (let s : State := { State.reset with barriers := [(5, [⟨7, 0, 4, 1, []⟩])] }
     barJoin (s.barrier 5) s.me.asid = some ⟨7, 0, 4, 1, []⟩ ∧ (4 : Nat) = (3 : BitVec 12).toNat + 1 ∧ s.cur.core.toNat * 16 + (5 : BitVec 4).toNat = 5) ∧
    barJoin (State.reset.barrier 5) State.reset.me.asid = none ∧
    State.reset.me.s 1 = State.reset.me.s 2 ∧ (sVals 1 2 0 0).me.s 1 ≠ (sVals 1 2 0 0).me.s 2 ∧ (sVals 1 2 0 0).checked = false ∧
    State.reset.me.p (0 : BitVec 6).toNat ≠ State.reset.me.p 1 ∧
    -- `wtime` of the present and of the next nanosecond
    (sVals 0 1 0 0).me.sTag 1 = false ∧ ((sVals 0 1 0 0).me.s 1).toNat ≤ (sVals 0 1 0 0).chip ∧ (sVals 0 1 0 0).chip < ((sVals 0 1 0 0).me.s 2).toNat := by
  decide +kernel

/-- The current context's identity in `State.reset`. -/
def c0 : CtxId := ⟨0, 0⟩

/-- A privileged context in a state of R22. -/
def sIn (st : CtxState) : State := (sPriv 0 0 0 0).onMe fun c => { c with st := st }

theorem witness_ContextEvents :
    (((sIn .ready).ctx c0).st = .ready ∧ ((sIn .ready).ctx c0).regs.csrQ = [] ∧ ((sIn .ready).ctx c0).regs.dupQ = [] ∧ free c0 (sIn .ready) = true) ∧
    -- a result for v17 that is due, with bank 1 retained
    (let l : Landing := ⟨some 0, .v 17 7 0xF, false, none, 0⟩
     let s := (sIn .ready).onMe fun c => { c with vbank := 4, regs := { c.regs with landing := [l] } }
     let x := ((s.coreWrites c0 false).govern c0).ctx c0
     (s.ctx c0).st = .ready ∧ (s.ctx c0).regs.dupQ = [] ∧ free c0 s = true ∧ l ∈ x.regs.landing ∧ l.isDue x.regs.tick = true ∧ (0xF : Mask) ≠ 0 ∧ x.bank 17 = 1) ∧
    (((sIn (.stalled .tile)).ctx c0).st = .stalled .tile ∧
      SMap.get 0 ((sIn (.stalled .tile)).ctx c0).tileBusy (3 : BitVec 2).toNat ≤ ((sIn (.stalled .tile)).core c0.core).cycles ∧
      ∀ w l, (sIn (.stalled .tile)).look c0 ≠ .stall w l) ∧
    ((sIn (.stalled (.bank 0))).ctx c0).st = .stalled (.bank 0) ∧
    (((sIn (.stalled .probe)).ctx c0).st = .stalled .probe ∧ ((sIn (.stalled .probe)).ctx c0).probed = false ∧
      ((sIn (.stalled .probe)).ctx c0).queue.all QAcc.isDone = true ∧
      ∃ b, decodeBundle ((sIn (.stalled .probe)).codeLine 0 0) = .ok b) ∧
    ((sIn .ready).ctx c0).st ≠ .unbound := by
  refine ⟨by decide +kernel, by decide +kernel, ⟨by decide +kernel, by decide +kernel, fun w l h => ?_⟩, by decide +kernel,
    ⟨by decide +kernel, by decide +kernel, by decide +kernel, ?_⟩, by decide +kernel⟩
  · have : (match (sIn (.stalled .tile)).look c0 with
      | .stall _ _ => false
      | _ => true) = true := by decide +kernel
    rw [h] at this
    cases this
  · exact ok_of (by decide +kernel)

/-- A queued load, store and `amo` of the cluster store's first word, translated. -/
def walked (k : AccKind) : QAcc := { load0 with kind := k, bytes := [1, 2, 3, 4, 5, 6, 7, 8], phase := .walked ⟨.core 0 0, none⟩ none }

/-- An access of 128 bytes from the cluster store's first word, of whose sectors the first `n` have performed. -/
def wide (k : AccKind) (n : Nat) : QAcc :=
  { walked k with
    bytes := List.replicate 128 7, fwd := List.replicate 128 none, vec := true, order := .plain
    taken := (List.range n).map fun i => (i, if k = .store then [] else List.replicate 32 7, none) }

/-- A privileged context with a queue and a state. -/
def sQ (st : CtxState) (q : List QAcc) : State := (sPriv 0 0 0 0).onMe fun c => { c with st := st, queue := q, seq := 1 }

/-- A gated store of the same word, not yet walked. -/
def gated : GateEntry := ⟨0, load0.target, [1, 2, 3, 4, 5, 6, 7, 8], .plain, .context, 0, 0, false, none, false⟩

theorem witness_QueueEvents :
    (((sQ .ready [load0]).ctx c0).nextWalk = some (.inl load0) ∧
      (sQ .ready [load0]).resolveAt ((sQ .ready [load0]).who c0) load0.bank load0.target load0.len load0.slot load0.need = .ok (⟨.core 0 0, none⟩, none) ∧
      (sQ .ready [load0]).handover (.core 0 0) = false) ∧
    (let s := (sQ .ready []).onMe fun c => { c with gate := [gated] }
     (s.ctx c0).nextWalk = some (.inr gated) ∧ s.handover (.core 0 0) = false ∧
      s.resolveAt (s.who c0) gated.bank gated.target gated.bytes.length 7 .write = .ok (⟨.core 0 0, none⟩, none)) ∧
    (sQ .ready [load0]).dueAccesses c0 .k = [] ∧
    (∀ k ∈ [AccKind.load false, .store, .amo .add false 1 0],
      (sQ .ready [walked k]).dueAccesses c0 .k = [⟨walked k, ⟨.core 0 0, none⟩, none, none⟩] ∧
        (sQ .ready [walked k]).leaseStops (walked k) ⟨.core 0 0, none⟩ = false ∧ (walked k).len ≤ 32 ∧ (walked k).taken = []) ∧
    -- 128 bytes of which no sector has performed, and of which one is left
    (∀ k ∈ [AccKind.load false, .store], ∀ n ∈ [0, 3],
      let q := wide k n
      (sQ .ready [q]).dueAccesses c0 .k = [⟨q, ⟨.core 0 0, none⟩, none, none⟩] ∧ (sQ .ready [q]).leaseStops q ⟨.core 0 0, none⟩ = false ∧
        q.sectorsLeft = (List.range 4).drop n) ∧
    (((sQ .ready [walked .store]).publishFor c0 (walked .store)).hostRefuses (.core 0 0)).1 = false ∧
    -- a store behind an acquire of core scope, and one behind an acquire of system scope
    (∀ p ∈ [(Scope.core, true), (.system, false)],
      let a : QAcc := { walked (.load false) with order := .acquire, scope := p.1 }
      let q : QAcc := { walked .store with seq := 1, target := .k 0x100, phase := .walked ⟨.core 0 0x100, none⟩ none }
      let s := sQ .ready [a, q]
      (s.ctx c0).heldAt q = some p.1 ∧ s.mayPerform c0 q ⟨.core 0 0x100, none⟩ = p.2) ∧
    (let a : QAcc := { walked (.load false) with order := .acquire, scope := .core }
     let q : QAcc := { walked .store with seq := 1, target := .t .m 0 0 [0, 0, 0, 0, 0], phase := .walked ⟨.core 0 0x100, none⟩ none }
     let s := sQ .ready [a, q]
     s.dueAccesses c0 .m = [⟨q, ⟨.core 0 0x100, none⟩, none, some .core⟩] ∧ s.leaseStops q ⟨.core 0 0x100, none⟩ = false) ∧
    -- a store that a context has left: of core store, and of a leased channel
    (let o : Orphan := ⟨c0, 0, walked .store, ⟨.core 0 0, none⟩, none⟩
     let s : State := { State.reset with orphans := [o] }
     s.orphans = [o] ∧ s.isOpen o.ctx o.acc o.loc = true ∧ s.leaseStops o.acc o.loc = false) ∧
    (let o : Orphan := ⟨c0, 0, walked .store, ⟨.dev 0, none⟩, none⟩
     let s : State := { State.reset.onChannel (hbmStack 0) (hbmChannel 0) fun k => { k with lease := 0x3FFFC001 } with orphans := [o] }
     s.isOpen o.ctx o.acc o.loc = true ∧ s.leaseStops o.acc o.loc = true) ∧
    (∀ e ∈ State.reset.cores, ∀ w ∈ e.2.writes, w.after = 0) ∧
    (let s := sQ (.blocked (.waitr 0x1F 1 0)) [{ load0 with phase := .done [1, 2, 3, 4, 5, 6, 7, 8] none none }]
     (s.ctx c0).st = .blocked (.waitr 0x1F 1 0) ∧ (s.ctx c0).badArrival 0x1F 1 = none ∧ (s.ctx c0).allArrived 0x1F 1 = true ∧
      (s.ctx c0).regs.dupQ = []) := by decide +kernel

theorem witness_WaitsEnd :
    (∀ b ∈ [Block.awaitf 0 3, .rels 0],
      let s := (sRing ⟨1, 1, 0, [(0, true)], [(0, 5)], [], []⟩).onMe fun c => { c with st := .blocked b }
      (s.ctx c0).st = .blocked b ∧ (s.ring ((s.ctx c0).ringId 0)).ready = true ∧ (s.ring ((s.ctx c0).ringId 0)).owed = [] ∧
        (s.ringWaiters c0.core ((s.ctx c0).ringId 0)).head? = some c0 ∧ (s.ctx c0).regs.dupQ = []) ∧
    (let s := sIn (.blocked (.wtime 0)); (s.ctx c0).st = .blocked (.wtime 0) ∧ 0 ≤ s.chip) ∧
    (sIn (.blocked .tend)).tendDrained c0 = true := by decide +kernel

/-- A space whose fault queue of 16 entries is at 0x10000, with a record of context (0, 0) held and `n` produced. -/
def sHeld (n : Nat) : State :=
  { State.reset with spaces := [(1, some ⟨⟨1, false, 0, 0x10000, false, 4, false, 0, 0, 0, 0, 0⟩, [], n, 0, [(0, [1, 2])]⟩)] }

/-- A log of 16 entries at 0x10000, with a record held and `n` produced. -/
def sLog (n : Nat) : State := { State.reset with log := ⟨0x10000, 4, n, 0, [[1, 2]], []⟩ }

theorem witness_HeldRecordsAreRetried :
    (∀ n ∈ [15, 16], (sHeld n).heldSpace c0 = some 1 ∧ ((sHeld n).space 1).map (fun a => a.held) = some [(c0.key, [1, 2])] ∧
      ((sHeld n).queueRecord false 0x10000 4 n [1, 2]).isSome = decide (n = 15)) ∧
    ∀ n ∈ [15, 16], (sLog n).log.held = [[1, 2]] ∧ ((sLog n).tryLog [1, 2]).isSome = decide (n = 15) := by decide +kernel

/-- The held record stands in entry 15 of the queue, behind the counts of R376. -/
theorem test_held_record_written :
    (after (exec (.faultQueueRetry c0) (sHeld 15))).rawWord false (0x10000 + 64 + 64 * 15) = 1 ∧
    (after (exec .errorLogRetry (sLog 15))).rawWord false (0x10000 + 64 + 64 * 15 + 8) = 2 ∧
    (after (exec .errorLogRetry (sLog 15))).rawWord false 0x10000 = 16 := by decide +kernel

/-- A template of one node of one instance on core 0, at bundle 0 (R41 to R43). -/
def img0 : List Byte :=
  [1] ++ List.replicate 7 0 ++ [64] ++ List.replicate 7 0 ++ [128] ++ List.replicate 7 0 ++ [128] ++ List.replicate 7 0 ++ [128] ++
    List.replicate 7 0 ++ [130] ++ List.replicate 23 0 ++ List.replicate 11 0 ++ [1] ++ List.replicate 52 0 ++ [0, 0]

/-- A launch of `n` steps on stream 0 of template slot 0, with `next` as given. -/
def launch0 (n : BitVec 20) (next : Nat) (steps : List StepState) : Launch :=
  ⟨5, ⟨false, 0⟩, h0, ⟨0, n - 1, 0, 0x20000, 0, 1⟩, next, steps, none, false, 0, [], [], 0, false, 0⟩

/-- A state in which that launch runs on an enabled stream, with a context that waits for a task. -/
def sRun (l : Launch) (tasks : List TaskRec) : State :=
  { (sMe fun c => { c with st := .blocked .noTask, asid := 1 }) with
    cores := [(0, { Core.init with tasks := tasks })]
    lathe0 := { Lathe.init with templates := [(0, some ⟨1, img0⟩)], streams := [(0, { Stream.init with ctl := 1 })], launches := [l] } }

/-- The state of its first step, with nothing dispatched. -/
def step0 : StepState := ⟨0, [], [], [], []⟩

theorem witness_LatheEvents :
    (let s := sRun (launch0 2 1 [step0]) []; (s.pickOffer false (s.offers false)).map (fun o => o.task) = some ⟨0, 0, 0⟩) ∧
    (4095 < 2 ^ 12 ∧ 0xFFFFFF < 2 ^ 24 ∧ 0xFFFFF < 2 ^ 20) ∧
    State.reset.pickOffer false (State.reset.offers false) = none ∧
    (let s := sRun (launch0 2 1 [step0]) [⟨5, 0, 0⟩]
     s.taskFor c0 = some ⟨5, 0, 0⟩ ∧ (s.lathe (dieOf c0.core)).launch 5 = some (launch0 2 1 [step0])) ∧
    (let s := sRun (launch0 2 0 []) []
     s.streamLaunch ⟨false, 0⟩ = some (launch0 2 0 []) ∧ s.runOver (launch0 2 0 []) = false ∧ s.canOpen (launch0 2 0 []) = true) ∧
    (let s := { State.reset.onStream ⟨false, 0⟩ fun k => { k with running := true, wdog := 1 } with chip := 1024 }
     let k := s.stream ⟨false, 0⟩
     k.running = true ∧ k.wdog ≠ 0 ∧ k.watchdog = false ∧ k.progressAt + k.wdog.toNat * 1024 ≤ s.chip) := by decide +kernel

/-- An engine command of the current context. -/
def cmd0 (st : CmdState) (job : Job) : Cmd := ⟨9, c0, 0, 1, true, false, 1, 0, 1, 0, 0, 0, 0, st, job, entries⟩

/-- `sTab` with that command, its context Ready. -/
def sCmd (k : Cmd) : State := { (sTab.onMe fun c => { c with st := .ready, mono := 2 }) with cmds := [k] }

/-- A move of one f32 element from tensor 0 (or, out of range, tensor 9) to core store, of `n` chunks. -/
def copy0 (tensor n : Nat) : CopyJob :=
  ⟨0, 0, 0, false, 0, false, ⟨2, 0, tensor, [0, 0, 0, 0, 0], [1, 1, 1, 1, 1]⟩, ⟨0, 0, 0, [0, 0, 0, 0, 0], [1, 1, 1, 1, 1]⟩, 0, [], [], 0, n, [], [], []⟩

/-- A window of two rows of 32 bytes in a state, as window object 2. -/
def sFill (st : SlotState) (total done bad : Nat) (soft : List Nat) : State :=
  { sCmd (cmd0 .running (.fill 2 0 total done bad soft)) with
    windows := [(2, ⟨true, desc0, 32, 0, [(0, ⟨0, st⟩), (1, ⟨1, st⟩)]⟩)] }

/-- What a turn of a copy in a state comes to: the chunk, whether it is held, and whether the writes that perform were all made. -/
def copyWrites (s : State) (k : Cmd) (j : CopyJob) : Bool :=
  let c := (s.atFork k).copyTurn k.reach j
  let ws := (j.pending c.1).getD (c.2.readChunk k.reach j c.1)
  let p := c.2.portion ws
  !s.chunkHeld k j c.1 && (p.2.writePending k.reach j.computing true j.grain p.1.1).2.1

/-- A state with the channel of a device address leased, to slot 0 of core 0x8000. -/
def leasedAt (a : Nat) (s : State) : State := s.onChannel (hbmStack a) (hbmChannel a) fun k => { k with lease := 0x3FFFC001 }

/-- A move of one f32 element from core store to tensor 0. -/
def copyOut : CopyJob := { copy0 0 1 with src := (copy0 0 1).dst, dst := (copy0 0 1).src }

theorem witness_EngineEvents_leases :
    -- a chunk whose source lies in a leased channel, and one whose channel is not leased; a row and lines likewise
    (let k := cmd0 .running (.copy (copy0 0 1))
     let s := leasedAt (0x10000) (sCmd k)
     s.cmd 9 = some k ∧ s.forked k = true ∧ s.chunkHeld k (copy0 0 1) 0 = false ∧ s.chunkLeased k (copy0 0 1) 0 = true ∧
       (sCmd k).chunkLeased k (copy0 0 1) 0 = false) ∧
    (let k := cmd0 .running (.fill 2 0 2 1 0 [])
     let s := leasedAt (0x10000) (sFill .filling 2 1 0 [])
     s.cmd 9 = some k ∧ s.rowHeld k 2 1 = false ∧ (s.rowSources k 2 1).any s.leasedNow = true ∧
       ((sFill .filling 2 1 0 []).rowSources k 2 1).any (sFill .filling 2 1 0 []).leasedNow = false) ∧
    (∀ j ∈ [Job.block 0 0 0 0 31 1, .evict 0 0 0 0 31],
      let k := cmd0 .running j
      let a := 0x10000 + 128 * 31
      (sCmd k).lineAddr k 0 0 31 = (a, none) ∧ (leasedAt a (sCmd k)).linesLeased k 0 0 31 1 = true ∧ (sCmd k).linesLeased k 0 0 31 1 = false ∧
        (leasedAt a (sCmd k)).blockHeld k 0 0 0 0 31 1 = false) ∧
    -- a copy to a tensor, whose last writes may trail it
    (let k := cmd0 .running (.copy copyOut)
     (sCmd k).forked k = true ∧ (sCmd k).chunkLeased k copyOut 0 = false ∧ copyWrites (sCmd k) k copyOut = true ∧
       ((sCmd k).trailing k copyOut).2.free = (sCmd k).free + 1 ∧ ((sCmd k).trailing k (copy0 0 1)).1 = false) := by decide +kernel

theorem witness_EngineEvents_copies :
    -- the only chunk; the last one of two, and one before the last; one whose bank has another owner by now
    (∀ j ∈ [copy0 0 1, { copy0 0 2 with marked := [(0, true)] }],
      let k := cmd0 .running (.copy j)
      let s := sCmd k
      s.cmd 9 = some k ∧ s.forked k = true ∧ k.st = .running ∧ copyWrites s k j = true) ∧
    (let k := { cmd0 .running (.copy (copy0 0 1)) with priv := false }
     let s := (sCmd k).onCore 0 fun c => { c with owners := [(0, ⟨true, 2, 3⟩)] }
     s.cmd 9 = some k ∧ s.forked k = true ∧ s.chunkHeld k (copy0 0 1) 0 = false ∧ copyWrites s k (copy0 0 1) = false ∧ s.kept k = true ∧
       -- that of a context that has been unbound
       (s.onMe fun c => { c with bid := 1 }).kept k = false) ∧
    (let k := cmd0 .stopped (.copy (copy0 0 1))
     let s := sCmd k
     s.cmd 9 = some k ∧ k.st = .stopped ∧ (s.ctx k.ctx).st.reprobes = true ∧ s.owns k = true ∧
      isOk (s.copyReprobe k (copy0 0 1)) = true) ∧
    isOk ((sCmd (cmd0 .stopped (.copy (copy0 9 1)))).copyReprobe (cmd0 .stopped (.copy (copy0 9 1))) (copy0 9 1)) = false ∧
    (let s := sRing ⟨1, 0, 0, [], [], [(7, none)], []⟩; (s.ring 1).held = (7, none) :: [] ∧ (s.ring 1).full = false ∧ (s.ring 1).owed = []) ∧
    -- a full ring of two slots that is owed a `rels` of core 0
    (let s := sRing ⟨1, 0, 0, [(0, true), (1, true)], [(0, 5)], [(7, none)], [(0, 3)]⟩
     (s.ring 1).held = (7, none) :: [] ∧ (s.ring 1).owed = [(0, 3)] ∧ (s.ring 1).ready = true ∧ s.ringWaiters (BitVec.ofNat 16 (0, 3).1) 1 = []) := by decide +kernel

/-- What a copy turns to when two chunks are to choose from (log entry 8). -/
theorem copyTurn_of_two (s : State) (r : Reach) (j : CopyJob) (hf : firstUnmarked j.marked j.chunks = 0) (hn : j.chunks = 2) :
    ∃ w, (w = 0 ∨ w = 1) ∧ s.copyTurn r j = (if s.canOpenChunk r j w then w else 0, { s with free := s.free + 1 }) := by
  refine ⟨(Config.freeWord s.free).toNat % 2, Nat.mod_two_eq_zero_or_one _, ?_⟩
  have hr : List.range (min 128 (j.chunks - firstUnmarked j.marked j.chunks)) = [0, 1] := by rw [hf, hn]; rfl
  have hp : s.pick [0, 1] = (some ((Config.freeWord s.free).toNat % 2), { s with free := s.free + 1 }) := by
    rcases Nat.mod_two_eq_zero_or_one (Config.freeWord s.free).toNat with h | h <;> simp [State.pick, State.freeWord, h]
  simp only [State.copyTurn, hr, hp]
  rw [hf]
  simp

/-- A copy of two chunks of which neither has a mark: whichever the turn takes, it is not held and its writes are made. -/
theorem witness_EngineEvents_turns :
    let k := cmd0 .running (.copy (copy0 0 2))
    let s := sCmd k
    s.cmd 9 = some k ∧ s.forked k = true ∧ copyWrites s k (copy0 0 2) = true := by
  refine ⟨by decide +kernel, by decide +kernel, ?_⟩
  obtain ⟨w, hw, ht⟩ := copyTurn_of_two ((sCmd (cmd0 .running (.copy (copy0 0 2)))).atFork (cmd0 .running (.copy (copy0 0 2))))
    (cmd0 .running (.copy (copy0 0 2))).reach (copy0 0 2) (by decide +kernel) rfl
  simp only [copyWrites]
  rw [ht]
  rcases hw with rfl | rfl <;> decide +kernel

theorem witness_EngineEvents_rows :
    (∀ p ∈ [(2, 1), (2, 0)],
      let k := cmd0 .running (.fill 2 0 p.1 p.2 0 [0, 1])
      let s := sFill .poisoned p.1 p.2 0 [0, 1]
      s.cmd 9 = some k ∧ k.st = .running ∧ s.rowHeld k 2 (0 + p.2) = false ∧ ([0, 1].contains (0 + p.2)) = true) ∧
    (∀ p ∈ [(2, 1), (2, 0)],
     let k := cmd0 .running (.fill 2 0 p.1 p.2 0 [])
     let s := sFill .filling p.1 p.2 0 []
     s.cmd 9 = some k ∧ s.rowHeld k 2 (0 + p.2) = false ∧
      (let f := s.atFork k
       let g := (s.window 2).grain k
       (f.writePending k.reach false false g ((f.rowWrites k (s.window 2) (0 + p.2)).map (f.capture (dieOf k.ctx.core) g))).2.1 = true)) := by
  decide +kernel

theorem witness_EngineEvents_blocks :
    (let k := cmd0 .running (.block 0 0 0 0 0 1)
     let s := sCmd k
     s.cmd 9 = some k ∧ s.blockHeld k 0 0 0 0 0 1 = false ∧ isS k.ctx.core = false ∧ s.partFor 0 0 ≠ 16 ∧
      tileCached ((transWords k.trans 0 (some 0)).getD 0 0) = true ∧
      ((clustersOf false).any fun h => (s.group h).blocks.any fun b => decide (b.addr = (s.lineAddr k 0 0 0).1) && decide (b.count = 1)) = false ∧
      (let e1 := (s.atFork k).evictDie false fun b => decide (b.addr < (s.lineAddr k 0 0 0).1 + 128 * 1) && decide ((s.lineAddr k 0 0 0).1 < b.addr + 128 * b.count)
       let e2 := e1.2.makeRoom 0 (s.partFor 0 0) 1 ((e1.2.group 0).blocks.length + 1)
       s.evictWaits e2.2 = false ∧ (e2.2.group 0).room (s.partFor 0 0) 1 = some (0, 0))) ∧
    (let k := cmd0 .running (.evict 0 0 0 0 31)
     let s := sCmd k
     s.cmd 9 = some k ∧ s.blockHeld k 0 0 0 0 31 1 = false ∧ tileCached ((transWords k.trans 0 (some 0)).getD 0 0) = true ∧
      s.evictWaits (s.evictDie false fun b => decide (b.addr = (s.lineAddr k 0 0 31).1)).2 = false) := by decide +kernel

theorem witness_SupervisorEvents :
    (∀ p ∈ [(0, 16), (16, 0), (8, 8)],
      let k := cmd0 .running (.dpset 0 p.1 p.2 0)
      let s := sCmd k
      s.cmd 9 = some k ∧ s.forked k = true ∧ s.partBusy 0 0 = false ∧ s.deckBusy 0 0 = false ∧
        s.evictWaits (s.evictWhere 0 fun b => decide (p.1 ≤ b.way) && decide (b.way < p.2)).2 = false) ∧
    (let k := { cmd0 .running (.ttinv 3 1 0 0) with trans := [] }
     let s := sCmd k
     s.cmd 9 = some k ∧ s.forked k = true ∧ s.usesScope (inScope 3 1 0 0) = false ∧
      s.evictWaits ((s.atFork k).dropScope (inScope 3 1 0 0)) = false) := by decide +kernel

/-- A collective of package 0 alone, of `n` chunks. -/
def coll0 (going : Bool) (n : Nat) : CollJob :=
  ⟨0, 0, true, [0], 0, 0, 0, 0, 0, 0, 0, 0, 1, 0, 1, 2, 0, going, [], 0, [[]], [(1, 0, 0)], 1, n, [], List.range n, false⟩

/-- A collective of packages 0 and 1, of which this is 0. -/
def coll2 : CollJob := { coll0 false 1 with members := [0, 1] }

/-- The other member's offer. -/
def offer1 : CollOffer := ⟨1, 0, 0, 0, 0, 0, 0, 1, 0, []⟩

theorem witness_CollectivesAndSignals :
    (let k := cmd0 .running (.coll coll2)
     let s : State := { sCmd k with links := { sTab.links with live := [(0, 1), (1, 1)], ports := [(0, ⟨3, 0, false, 0, []⟩)] } }
     s.onPod = true ∧ sTab.onPod = false ∧ (∀ x ∈ coll2.unsettled, x.2.1 ≤ s.links.epoch.toNat) ∧ s.cmd 9 = some k ∧ coll2.going = false ∧ s.forked k = true ∧ s.links.selfValid = true ∧ k.st = .running ∧
      (∀ r < coll2.members.length, r ≠ coll2.rank → ∃ o ∈ [offer1], o.rank = r) ∧
      (∀ o ∈ [offer1], o.seq = coll2.seq ∧ coll2.agrees o = true ∧ o.epoch.toNat ≤ s.links.epoch.toNat) ∧
      coll2.failed = false ∧ coll2.numbered = true ∧ (∃ o ∈ [offer1], o.epoch = s.links.epoch) ∧ (∀ e ∈ s.links.past, e.1.toNat < s.links.epoch.toNat) ∧
      deriveTrees s.links.live coll2.members ≠ []) ∧
    ({ sCmd (cmd0 .running (.coll coll2)) with links := State.reset.links } : State).links.selfValid = false ∧
    ({ coll2 with numbered := false } : CollJob).numbered = false ∧
    (∀ p ∈ [(1, 0), (2, 0), (2, 1)],
      let k := cmd0 .running (.coll (coll0 true p.1))
      let j := coll0 true p.1
      (sCmd k).cmd 9 = some k ∧ j.going = true ∧ k.st = .running ∧ SMap.get false j.marked p.2 = false ∧ p.2 < j.total ∧
        p.2 < firstUnmarked j.marked j.total + 128 ∧ (sCmd k).collHeld k.reach j p.2 = false ∧ j.failed = false ∧ j.numbered = true ∧
        (sCmd k).links.selfValid = true ∧ (sCmd k).recordHeld k.reach j = false ∧
        (∀ l ∈ j.treeOf p.2, l.1 = (sCmd k).links.self.toNat → ((sCmd k).port l.2).state = 3)) ∧
    -- a tree with a link of this package, over a LIVE port
    (let s : State := { sCmd (cmd0 .running (.coll (coll0 true 1))) with links := { sTab.links with ports := [(5, ⟨3, 0, false, 0, []⟩)] } }
     let j : CollJob := { coll0 true 1 with trees := [[(0, 5)]] }
     j.treeOf 0 = [(0, 5)] ∧ s.links.self.toNat = 0 ∧ (s.port 5).state = 3) ∧
    (∀ i < (coll0 true 1).total, i = 0 ∨ SMap.get false (coll0 true 1).marked i = true) ∧
    (∃ i, i < (coll0 true 2).total ∧ i ≠ 0 ∧ SMap.get false (coll0 true 2).marked i = false) ∧
    (let g : Signal := ⟨0, 9, 1, false, false, 0, 1023, 0, 0⟩
     let s := sRun (launch0 2 1 [step0]) []
     g.ring = false ∧ s.launchOn ⟨false, 0⟩ = some (launch0 2 1 [step0]) ∧ (launch0 2 1 [step0]).args.asid = g.asid ∧
      (s.stream ⟨false, 0⟩).ctl.getLsbD 4 = false) ∧
    (let g : Signal := ⟨0, 9, 1, false, true, 0, 0, 7, 0⟩
     let k := cmd0 .running (.csig g true true none)
     let s := sCmd k
     g.ring = true ∧ (s.ctx c0).st ≠ .unbound ∧ (s.ctx c0).asid = g.asid ∧ (s.ctx c0).ringId (field g.target 21 18) ≠ 0 ∧ (s.ctx c0).world = false ∧
      s.cmd 9 = some k ∧ s.cmds = [k] ∧ s.links.selfValid = true ∧ g.src = s.links.self ∧
      (if g.ring then field g.target 29 22 else field g.target 7 0) = s.links.self.toNat ∧
      -- one that has come, from a package that this is not, and one that has not
      ({ s with links := State.reset.links, taken := [(0, 9)] } : State).taken.contains (g.src, g.num) = true ∧ s.taken.contains (g.src, g.num) = false) ∧
    -- a signal that still waits, with an access before its `csig`, and with none
    (let k := cmd0 .running (.csig ⟨0, 9, 1, false, true, 0, 0, 7, 0⟩ true false none)
     (sCmd k).cmds = [k] ∧ (sCmd k).forked k = true ∧ (sCmd k).reaches (sigPackage true 0) = true ∧ (sCmd k).reaches (sigPackage true 0x400000) = false ∧
      ((sCmd { k with after := 1 }).onMe fun c => { c with queue := [load0] }).forked { k with after := 1 } = false) ∧
    -- a signal for package 1, over a live link, and over none; current trees that a table breaks, without a way to package 1
    (let k := cmd0 .running (.csig ⟨0, 9, 1, false, true, 0x400000, 0, 7, 0⟩ true true none)
     let s : State := { sCmd k with links := { sTab.links with live := [(0, 1), (1, 1)], ports := [(0, ⟨3, 0, false, 0, []⟩)] } }
     s.cmd 9 = some k ∧ field (0x400000 : W64) 29 22 ≠ s.links.self.toNat ∧ s.reaches (sigPackage true 0x400000) = true ∧
      (sCmd k).reaches (sigPackage true 0x400000) = false) ∧
    (let j : CollJob := { coll2 with trees := [[(0, 5)]] }
     j.failed = false ∧ (∃ t ∈ j.trees, ∃ l ∈ t, (SMap.get 0 ([] : SMap (BitVec 36)) l.1).getLsbD l.2 = false) ∧ deriveTrees [] j.members = []) := by
  refine ⟨by decide +kernel, by decide +kernel, by decide +kernel, by decide +kernel, by decide +kernel, by decide +kernel, ⟨1, by decide +kernel⟩,
    by decide +kernel, by decide +kernel, by decide +kernel, by decide +kernel, by decide +kernel⟩

/-- An S-core context of slot 0 that commands channel 0 of stack 0, in a state, with a deadline of set 0. -/
def sDuty (st : CtxState) (d : Nat) (late : List (Nat × Nat)) (chip : Nat) : State :=
  { (((sCore 0 0 0 0).onMe fun c => { c with st := st }).onChannel 0 0 fun k =>
      { k with lease := 0x3FFFC001, deadline := [(0, d)], late := late }) with chip := chip }

/-- A die with a repair pending since time 0, on `chip`. -/
def sRepair (launches : List Launch) (chip : Nat) : State :=
  { State.reset with lathe0 := { Lathe.init with repwaitFrom := some 0, launches := launches }, chip := chip }

theorem witness_MemoryServiceEvents :
    -- no commander: a set that falls due within 500 ns, and one that does not
    State.reset.commander 0 0 = none ∧ SMap.get 0 (State.reset.channel 0 0).deadline 0 = 3900 ∧
    (3900 : Nat) ≤ ({ State.reset with chip := 3400 } : State).chip + 500 ∧ ({ State.reset with chip := 3399 } : State).chip + 500 < 3900 ∧
    -- a commander on duty: a set in time, and one that is late
    (∀ d ∈ [(100, 100), (99, 100)],
      let s := sDuty .ready d.1 [] d.2
      s.commander 0 0 = some ⟨0x8000, 0⟩ ∧ (s.ctx ⟨0x8000, 0⟩).st.onDuty = true ∧ SMap.get 0 (s.channel 0 0).deadline 0 = d.1 ∧
        (∀ l ∈ (s.channel 0 0).late, l.1 ≠ 0)) ∧
    (((sRepair [] 0).lathe false).holds (sRepair [] 0).chip = true ∧ (sRepair [] 0).idleDie false = true) ∧
    ((sRepair [launch0 2 1 [step0]] 0).lathe false).holds 0 = true ∧ (sRepair [launch0 2 1 [step0]] 0).idleDie false = false ∧
    (((sRepair [] 1000000).lathe false).repwaitFrom = some 0 ∧ 0 + (sRepair [] 1000000).repwait.toNat * 1000 ≤ (sRepair [] 1000000).chip) ∧
    (let s := State.reset.onGroup 0 fun g => { g with blocks := [⟨1, 0, 0, 0, 1, 0, none, 0, 0, Memory.empty, [], 4⟩] }
     ((s.group 0).blocks.find? fun b => decide (b.order = 4)).isSome = true) ∧
    -- a dirty block whose `lbe` meets the error: with the error log in host memory, and with a record held
    (let a := 0x10000 + 128 * 31
     let b : DeckBlock := ⟨1, 0, 0, 31, 1, a, none, 0, 0, Memory.empty, [0], 4⟩
     let k := cmd0 .running (.evict 0 0 0 0 31)
     let s : State := { (sCmd k).onGroup 0 fun g => { g with blocks := [b] } with log := ⟨2 ^ 63 + 0x10000, 4, 0, 0, [[1, 2]], []⟩ }
     ((s.group 0).blocks.find? fun b => decide (b.order = 4)) = some b ∧ s.log.host = true ∧ b.addr + 128 * 0 + 32 * 3 < cxlBase ∧ b.addr % 128 = 0 ∧
      s.log.held ≠ [] ∧ SMap.get false s.log.retired ((Place.dev (a / 4096 * 4096)).frameKey (a / 4096 * 4096)) = false ∧ s.cmds = [k] ∧
      s.meets 0 b k = true ∧ s.meets 8 b k = false) := by
  decide +kernel

/-- The reset state with stream 0 of die 0, the current one, as given. -/
def sStream (f : Stream → Stream) : State := State.reset.onStream ⟨false, 0⟩ f

/-- With stream 0 a control stream. -/
def sControl : State := sStream fun k => { k with ctl := 8 }

/-- A WAIT_VALUE on a doubleword that is zero, for `v`. -/
def wait0 (v : W64) : WaitArgs := ⟨0x100, false, v, 0xFFFFFFFFFFFFFFFF, 0, true⟩

theorem witness_WorkCommands :
    (∀ op ∈ [0x00, 0x02, 0x03, 0x04], State.reset.refuses State.reset.curStream op Names.none = none) ∧
    State.reset.waitMet (wait0 0) = true ∧ State.reset.waitMet (wait0 1) = false ∧
    (let s := sStream fun k => { k with busy := some (.wait h0 (wait0 0) 0) }
     (s.stream ⟨false, 0⟩).busy = some (.wait h0 (wait0 0) 0) ∧ (s.stream ⟨false, 0⟩).opens = true ∧ 0 ≤ s.chip ∧
       s.spanHeld (wait0 0).addr.toNat 8 = false ∧ (wait0 0).host = false ∧ ({ wait0 0 with host := true } : WaitArgs).host = true ∧
       (s.onChannel (hbmStack 0x100) (hbmChannel 0x100) fun k => { k with handover := some 1 }).spanHeld (wait0 0).addr.toNat 8 = true) ∧
    (State.reset.stream State.reset.curStream).preempt = none ∧
    (let s := sStream fun k => { k with preempt := some ⟨0, ⟨false, 1⟩, h0, []⟩ }
     s.refuses s.curStream 0x04 Names.none = none ∧ ((s.stream s.curStream).preempt.map fun r => r.gran) = some 0) := by decide +kernel

theorem witness_LaunchStarts :
    let s : State := { sRun (launch0 2 0 []) [] with
      lathe0 := { Lathe.init with templates := [(0, some ⟨1, img0⟩)], streams := [(0, { Stream.init with ctl := 1 })] } }
    s.refuses s.curStream 0x01 Names.none = none ∧ s.template s.curStream.die (launch0 2 0 []).args.slot = some ⟨1, img0⟩ ∧
      (1 : BitVec 11) = (launch0 2 0 []).args.asid ∧ s.noContext s.curStream 1 img0 = false := by decide +kernel

/-- SET_AS of ASID 1 with its descriptor at 0x1000. -/
def setAs0 : SetAsArgs := ⟨1, false, 0x1000, 0x10000, false, 4, false, 0, 0, 0, 0, 0⟩

/-- The bytes of the template image at 0x9000, with a descriptor of one tensor at 0x1000. -/
def imgCells : List Host.Cell := [(0x1008, 1), (0x9000, 1), (0x9008, 64), (0x9010, 128), (0x9018, 128), (0x9020, 128), (0x9028, 130), (0x904B, 1)]

/-- A control stream, that memory, and ASID 1 set where `set`. -/
def sSpaces (set : Bool) : State :=
  { sControl with dev := ⟨imgCells, [], []⟩, spaces := if set then [(1, some space1)] else [] }

theorem witness_SpaceAndTemplateCommands :
    (let s := sSpaces false
     s.refuses s.curStream 0x10 ⟨[1], [], false⟩ = none ∧ s.asidBusy 1 = false ∧ s.space 1 = none ∧ descOk (s.rawWords false 0x1000 16) = true) ∧
    (let s := sSpaces true
     s.refuses s.curStream 0x11 ⟨[1], [], false⟩ = none ∧ s.asidBusy 1 = false ∧ s.space 1 ≠ none ∧
      s.slotUsed false 0 = false ∧ s.refuses s.curStream 0x12 ⟨[1], [], false⟩ = none ∧ templateError s false (s.imageAt 0x9000) = none) ∧
    (let s := (sSpaces true).onLathe false fun l => { l with templates := [(0, some ⟨1, img0⟩)] }
     s.space 1 ≠ none ∧ s.slotUsed false 0 = false ∧ s.refuses s.curStream 0x13 ⟨[1], [], false⟩ = none ∧
      s.template false 0 = some ⟨1, img0⟩) := by decide +kernel

/-- BIND_CTX of context (0, 0) with a binding block of zeros. -/
def bind0 : BindArgs := ⟨c0, 1, false, false, 0, 0, 0, 0⟩

/-- BIND_CTX of context (0, 0) with the initial image at 0x9000. -/
def bind1 : BindArgs := { bind0 with image := 0x9000 }

/-- A control stream, ASID 1 set, and context (0, 0) in a state. -/
def sBound (st : CtxState) : State :=
  (sSpaces true).onMe fun c => { c with st := st, asid := 1, note := ⟨7, [], true, false⟩, regs := { c.regs with pc := 9 } }

theorem witness_ContextCommands :
    (let s := sSpaces true
     s.refuses s.curStream 0x14 ⟨[1], [], false⟩ = none ∧ (s.ctx c0).st = .unbound ∧ s.corePresent c0.core = true ∧ s.space 1 ≠ none ∧
      s.blockOk bind0 = true ∧ s.bindForbidden s.curStream bind0 = false ∧ bind0.image = 0 ∧ bind1.image ≠ 0 ∧
      s.blockOk bind1 = true ∧ s.bindForbidden s.curStream bind1 = false) ∧
    (∀ st ∈ [CtxState.suspended, .lost, .blocked .noTask],
      (sBound st).refuses (sBound st).curStream 0x15 ⟨[], [c0], false⟩ = none ∧ (sBound st).corePresent c0.core = true ∧ ((sBound st).ctx c0).st = st) ∧
    (let s := sBound .suspended
     s.refuses s.curStream 0x16 ⟨[], [c0], false⟩ = none ∧ s.corePresent c0.core = true ∧ (s.ctx c0).st = .suspended ∧
      (s.ctx c0).note.always = false ∧ (s.ctx c0).note.retry = true) := by decide +kernel

/-- The stream that a PREEMPT names. -/
def p1 : StreamId := ⟨false, 1⟩

theorem witness_PreemptionCommands :
    (sControl.refuses sControl.curStream 0x17 Names.none = none ∧ (sControl.stream p1).preempted = false ∧ (sControl.stream p1).preempt = none ∧
      p1 ≠ sControl.curStream ∧ (sControl.stream p1).busy = none ∧ (sControl.stream p1).running = false ∧
      (sControl.stream p1).head = (sControl.stream p1).tail ∧ sControl.streamLaunch p1 = none ∧ sControl.taskCtxs p1 = []) ∧
    (let s := sControl.onStream p1 fun k => { k with preempted := true }
     (s.stream p1).preempted = true ∧ s.refuses s.curStream 0x1A Names.none = none ∧ s.streamLaunch p1 = none) ∧
    ((sControl.onStream p1 fun k => { k with halted := true }).stream p1).halted = true ∧
    (let s := sControl.onStream p1 fun k => { k with preempt := some ⟨1, ⟨false, 0⟩, h0, []⟩ }
     (s.stream p1).preempted = false ∧ (s.stream p1).preempt = some ⟨1, ⟨false, 0⟩, h0, []⟩ ∧ (s.stream p1).busy = none ∧
      (s.stream p1).running = false ∧ (s.stream p1).head = (s.stream p1).tail ∧ s.streamLaunch p1 = none ∧ s.taskCtxs p1 = []) := by decide +kernel

/-- A memory with no wrong code and no poison has no faulty sector. -/
theorem clean_sector (s : State) (h : s.dev.codeDiff = []) (hp : s.dev.poison = []) (hs : s.stackTab = []) (a : Nat) :
    (s.devSector a).faulty = false := by
  simp [State.devSector, State.devPoison, State.cellBad, State.stack, Stack.init, Memory.sector, Sector.faulty, Sector.bad, h, hp, hs, SMap.get]

/-- SAVE_CTX and RESTORE_CTX of slot 0 of core 0, from the latch bank or at 0x1000. -/
def image0 (base : BitVec 52) : ImageArgs := ⟨0, 1, base⟩

/-- Device memory that holds the header of an image of context (0, 0) with ASID 1 at 0x1000. -/
def sImage : State := { sSpaces true with dev := ⟨[(0x1000, 1), (0x1004, 4)], [], []⟩ }

theorem witness_ImageCommands :
    (∀ p ∈ [CtxState.ready, .suspended],
      let s := (sSpaces true).onMe fun c => { c with st := .preempted, asid := 1, snap := p }
      s.refuses s.curStream 0x18 ⟨[], maskCtxs (image0 0x1000), false⟩ = none ∧ s.refuses s.curStream 0x19 ⟨[], maskCtxs (image0 0), false⟩ = none ∧
        s.corePresent 0 = true ∧ (∀ c ∈ maskCtxs (image0 0), (s.ctx c).st = .preempted) ∧ s.sharedOutside (image0 0) = false ∧
        (s.ctx c0).snap = p ∧ maskCtxs (image0 0) = [c0]) ∧
    ((image0 0x1000).base ≠ 0 ∧
      sImage.refuses sImage.curStream 0x19 ⟨[], maskCtxs (image0 0x1000), (maskImages (image0 0x1000)).any fun e => sImage.imageSealed e.2⟩ = none ∧
      (∀ c ∈ maskCtxs (image0 0x1000), (sImage.ctx c).st = .unbound) ∧ maskImages (image0 0x1000) = [(c0, 0x1000)] ∧
      sImage.headerOk c0 0x1000 = true ∧ sImage.imageShares (image0 0x1000) c0 0x1000 = false) ∧
    sImage.imageBad 0x1000 = false := by
  refine ⟨by decide +kernel, by decide +kernel, ?_⟩
  unfold State.imageBad
  rw [List.any_eq_false]
  intro k _
  simp [clean_sector sImage rfl rfl rfl (0x1000 + 32 * k)]

theorem witness_RecoveryRejectsCommands : ({ State.reset with power := .recovery } : State).power = .recovery := rfl

theorem witness_HostRegisterWrites :
    (let s := State.reset.onChannel 0 0 fun k => { k with handover := some 0x3FFFC001 }; (s.channel 0 0).handover = some 0x3FFFC001) ∧
    ((255 : BitVec 9).toNat < 256 ∨ false = true) ∧ ((256 : BitVec 9).toNat < 256 ∨ true = true) ∧
    (256 ≤ (256 : BitVec 9).toNat ∧ false = false) ∧
    -- a ring of 16 entries: a tail 16 ahead of the head, and 17
    (let s := sStream fun k => { k with size := 4, head := 0xFFFFFFFF }
     ((15 : BitVec 32) - (s.stream ⟨false, 0⟩).head).toNat ≤ 2 ^ (s.stream ⟨false, 0⟩).size.toNat ∧
      2 ^ (s.stream ⟨false, 0⟩).size.toNat < ((16 : BitVec 32) - (s.stream ⟨false, 0⟩).head).toNat) ∧
    (1 : Nat) % 8 ≠ 0 ∧ (35 : BitVec 6).toNat < 36 ∧ (1 : W64) = 1 ∧ (0 : W64) ≠ 1 := by decide +kernel

theorem witness_HostDataAccesses :
    -- two whole sectors; the last byte of one and the first of the next; and the same in far memory of 4 KiB
    (∀ b ∈ [0, cxlBase],
      let s : State := { State.reset with farCap := [(0, 4096)] }
      s.hostMay b 64 = true ∧ s.hostMay (b + 0x1F) 2 = true ∧ sectorsOf b 64 = [b, b + 32] ∧ sectorsOf (b + 0x1F) 2 = [b, b + 32]) ∧
    State.reset.noErrors = true ∧ (0 ≤ 32 ∧ 32 + 32 ≤ 0 + 64) ∧ ¬ (0x1F ≤ 0 ∧ 0 + 32 ≤ 0x1F + 2) ∧ 0x20 < cxlBase ∧ cxlBase ≤ cxlBase + 32 := by decide +kernel

/-- Port 5 in a state since time 0, at chip time `chip`. -/
def sPort (st : BitVec 2) (chip : Nat) : State :=
  { State.reset with links := { State.reset.links with ports := [(5, ⟨st, 0, false, 0, []⟩)] }, chip := chip }

/-- Link state with the time master's exchanges counted, at chip time `chip`. -/
def sTime (good bad chip : Nat) : State := { sPort 3 chip with links := { (sPort 3 0).links with good := good, bad := bad } }

/-- A port whose flits have failed `n` times just now. -/
def sReplays (n : Nat) : State :=
  { State.reset with links := { State.reset.links with ports := [(5, ⟨3, 0, false, 0, List.replicate n 0⟩)] } }

theorem witness_FabricEvents :
    36 ≤ (36 : BitVec 6).toNat ∧ (35 : BitVec 6).toNat < 36 ∧
    ((sPort 2 0).port (5 : BitVec 6).toNat).state ≠ 3 ∧ ((sPort 3 0).port 5).state = 3 ∧ ((sPort 1 0).port 5).state.toNat < 2 ∧
    2 ≤ ((sPort 2 0).port 5).state.toNat ∧
    (((sReplays 1023).port 5).replay (sReplays 1023).chip).length ≤ 1024 ∧ 1024 < (((sReplays 1024).port 5).replay (sReplays 1024).chip).length ∧
    (after (exec (.linkDown 5) (sPort 3 0))).links.anyTrained = false ∧
    (((sPort 0 100000000).port 5).state = 0 ∧ ((sPort 0 100000000).port 5).admin = false ∧
      ((sPort 0 100000000).port 5).since + 100000000 ≤ (sPort 0 100000000).chip) ∧
    (((sPort 1 0).port 5).state = 1 ∧ (sPort 1 0).links.selfValid = false) ∧
    (let s : State := { sPort 1 0 with links := { (sPort 1 0).links with selfValid := true } }
     (s.port 5).state = 1 ∧ s.links.selfValid = true ∧ s.links.self = 0 ∧ s.links.self ≠ 1) ∧
    (((sPort 2 1000000000).port 5).state = 2 ∧ ((sPort 2 1000000000).port 5).since + 1000000000 ≤ (sPort 2 1000000000).chip) := by decide +kernel

theorem witness_FabricEvents_pod :
    -- a record that takes the last link of the keeper, and one that does not
    (let l : Links := { State.reset.links with live := [(0, 1), (1, 1)], self := 1, selfValid := true, joined := true }
     let s : State := { State.reset with links := l }
     let out : LinkChange := ⟨0, 0, false⟩
     (s.gather out).links.keeper ≠ s.links.keeper ∧
       (let r : LinkChange := ⟨1, 0, false⟩
        s.links.joined = true ∧ SMap.get 0 (l.take r s.chip).ahead s.links.keeper.toNat ≠ 0 ∧ (s.gather r).links.keeper = s.links.keeper ∧
          (l.take r s.chip).keeps = s.links.keeps ∧ (s.gather r).links.keeps = s.links.keeps)) ∧
    -- the lowest package, back from losing every port: a record of another package makes it keep again
    (let l : Links := { (sPort 3 0).links with live := [(0, 1), (1, 1)], self := 0, selfValid := true, joined := true, alone := true }
     let s : State := { sPort 3 0 with links := l }
     l.keeper = l.self ∧ l.alone = true ∧ l.keeps = false ∧ (s.gather ⟨1, 0, true⟩).links.keeps = true ∧ ({ l with alone := false } : Links).alone = false ∧
       ({ l with alone := false } : Links).keeper = ({ l with alone := false } : Links).self) ∧
    -- a module that has joined, and one that has not, as keepers; batches that it joins and that it does not
    (let l : Links := State.reset.links
     l.joined = false ∧ l.joins ⟨0, [⟨0, 0, true⟩], true⟩ = false ∧ l.joins ⟨1, [], true⟩ = true ∧
       { l with self := 1 }.joins ⟨0, [⟨0, 0, true⟩], true⟩ = true ∧
       ({ l with joined := true } : Links).joined = true) ∧
    -- the lowest LIVE port; the master, and another package
    (let s := sTime 0 0 100000
     (s.port 5).state = 3 ∧ (∀ q < 5, (s.port q).state ≠ 3) ∧ s.links.keeper = s.links.self ∧
       ({ s.links with self := 1 } : Links).keeper ≠ ({ s.links with self := 1 } : Links).self) ∧
    -- a window that begins, one that still gathers, and one that has passed
    State.reset.links.batchFrom = none ∧
    (let s : State := { State.reset with links := { State.reset.links with batchFrom := some 0 }, chip := 10000 }
     s.links.batchFrom = some 0 ∧ s.links.keeps = true ∧ s.chip ≤ 0 + 10000 ∧ 0 + 10000 ≤ s.chip ∧ 0 + 10000 < s.chip + 1 ∧
       ({ s.links with batch := [⟨3, 0, true⟩] } : Links).admits = true ∧ s.links.admits = false) ∧
    -- the next epoch, and the present one; a package that has lost its ports, and one of whose ports is LIVE again
    (State.reset.links.alone = false ∧ ((1 : BitVec 32) = State.reset.links.epoch + 1 ∧ State.reset.links.waiting = []) ∧
      ((0 : BitVec 32).toNat ≤ State.reset.links.epoch.toNat ∧ (0 : BitVec 32) ≠ State.reset.links.epoch + 1)) ∧
    (({ State.reset.links with alone := true } : Links).alone = true ∧ ({ State.reset.links with alone := true } : Links).anyLive = false ∧
      ({ (sPort 3 0).links with alone := true } : Links).anyLive = true) ∧
    State.reset.links.anyLive = false ∧ (sTime 0 0 99999).chip < (sTime 0 0 99999).links.syncAt + 100000 ∧
    -- offsets of 20 ns and of 21 ns at chip time 100,000
    (∀ s ∈ [sTime 9 0 100000, sTime 0 2 100000], s.links.anyLive = true ∧ s.links.syncAt + 100000 ≤ s.chip) ∧
    10 ≤ (sTime 9 0 0).links.good + 1 ∧ 3 ≤ (sTime 0 2 0).links.bad + 1 ∧
    (syncOffset ⟨100000, 99980, 99980⟩ 100000).natAbs ≤ 20 ∧ 20 < (syncOffset ⟨100000, 99979, 99979⟩ 100000).natAbs := by decide +kernel

/-- A sample of a die temperature and a DRAM temperature. -/
def sensors (die dram : Nat) : Sensors := ⟨0, [], [die], [], [], [], [dram]⟩

theorem witness_PowerEvents_samples :
    -- trip temperatures: 110.0 °C of a die, 105.0 °C of DRAM
    tripOf (sensors 1099 1049) = none ∧ tripOf (sensors 1100 0) ≠ none ∧ tripOf (sensors 0 1050) ≠ none ∧
    -- a sample that comes too soon, one in time
    (sPort 0 99999).chip < (sPort 0 99999).folkai.sampleAt + 100000 ∧ (sPort 0 100000).folkai.sampleAt + 100000 ≤ (sPort 0 100000).chip := by
  simp [tripOf, sensors, List.range, List.range.loop, sPort, State.reset]

theorem witness_PowerEvents_limits :
    -- an island below its cap whose module is 5% below its limit, and one that is lowered
    (let x : Sensors := ⟨313500, [], [], [], [], [], []⟩
     let k : Island := { Island.init with freq := 1000 }
     held95 x 0 = true ∧ nextFreq true x 0 k = 1000 ∧ 1000 < k.cap) ∧
    (let x : Sensors := ⟨330001, [], [], [], [], [], []⟩
     nextFreq false x 0 Island.init = 1900 ∧ 1900 < Island.init.freq ∧ 1900 < Island.init.cap) ∧
    Island.init.cap ≤ nextFreq false (sensors 0 0) 0 Island.init := by decide +kernel

theorem witness_PowerEvents_caps :
    (State.reset.folkai.lowerAt = 0 ∧ State.reset.folkai.riseAt = 0 ∧ 999999 / 1000000 ≤ 0 / 1000000 ∧ 0 / 1000000 < 1000000 / 1000000 ∧
      9999999 / 10000000 ≤ 0 / 10000000 ∧ 0 / 10000000 < 10000000 / 10000000) ∧
    State.reset.serves State.reset.boot.via false = true ∧
    (∀ m ∈ [(500 : BitVec 16), 2000], (31 : BitVec 8).toNat < 32 ∧ 500 ≤ m.toNat ∧ m.toNat ≤ 2000 ∧ m.toNat % 100 = 0) ∧
    32 ≤ (32 : BitVec 8).toNat ∧ (400 : BitVec 16).toNat < 500 ∧ 2000 < (2100 : BitVec 16).toNat ∧ (550 : BitVec 16).toNat % 100 ≠ 0 := by
  simp [State.serves, State.reset]

theorem witness_WorldChanges :
    (State.reset.groupBusy (15 : BitVec 4).toNat = false ∧ State.reset.groupBusy (16 + (15 : BitVec 4).toNat) = false ∧
      State.reset.dovetailBusy = false ∧ State.reset.streamBusy ⟨true, 63⟩ = false ∧
      (State.reset.dropScope fun _ _ _ => true).usesScope (fun _ _ _ => true) = false) ∧
    -- an access that a context has left, in cluster 0; a dirty block whose write-back waits for a handover
    (let s : State := { State.reset with orphans := [⟨c0, 0, walked .store, ⟨.dev 0, none⟩, none⟩] }
     (∃ o ∈ s.orphans, groupOf o.ctx.core = (0 : BitVec 4).toNat) ∧ ¬ ∃ o ∈ s.orphans, groupOf o.ctx.core = (1 : BitVec 4).toNat) ∧
    (let s := (State.reset.onGroup 0 fun g => { g with blocks := [⟨1, 0, 0, 0, 1, 0, none, 0, 0, Memory.empty, [0], 4⟩] }).onChannel (hbmStack 0) (hbmChannel 0)
       fun k => { k with handover := some 1 }
     s.evictWaits (s.dropScope fun _ _ _ => true) = true) ∧
    State.reset.evictWaits (State.reset.dropScope fun _ _ _ => true) = false ∧
    (sIn .ready).groupBusy 0 = true ∧ ((sCore 0 0 0 0).onMe fun c => { c with st := .ready }).groupBusy (16 + 0) = true ∧
    (sCmd (cmd0 .running (.coll coll2))).dovetailBusy = true ∧ (sIn .ready).streamBusy ⟨false, 0⟩ = true := by decide +kernel

/-- A session of a firmware image of 128 bytes. -/
def sSession : State := State.reset.onBoot fun b => { b with session := some (1, 128) }

/-- Module flash whose slot B holds the header of a firmware image without a body. -/
def bootImage : Boot := { State.reset.boot with flash := [(2 ^ 24, 1)] }

theorem witness_FolkaiOperations :
    State.reset.boot.installed = false ∧ State.reset.boot.session = none ∧ State.reset.serves State.reset.boot.via true = true ∧
    sSession.serves sSession.boot.via true = true ∧ State.reset.serves State.reset.boot.via false = true ∧
    (State.reset.onBoot fun b => { b with via := .mailbox }).serves .mailbox true = false ∧
    (sSession.boot.session = some (1, 128) ∧ (1 : Nat) ≤ [(5 : Byte)].length ∧ [(5 : Byte)].length ≤ 1024 ∧ (127 : BitVec 32).toNat + [(5 : Byte)].length ≤ 128) ∧
    sSession.boot.imageGood 1 (sSession.boot.target 1) = false ∧
    -- the same in recovery mode, over I3C
    (let s := { sSession.onBoot fun b => { b with via := .i3c } with power := .recovery }
     s.power = .recovery ∧ s.serves s.boot.via true = true ∧ s.boot.session = some (1, 128) ∧ (s.boot.install 1).imageGood 1 (s.boot.target 1) = false ∧
       ({ s with boot := { s.boot with session := none } } : State).boot.session = none) ∧
    State.reset.power ≠ .recovery ∧
    (1 ≤ (2 : BitVec 8).toNat ∧ (2 : BitVec 8).toNat ≤ 3 ∧
      (State.reset.boot.setVerified 2 true true).isVerified (2 : BitVec 8).toNat ((State.reset.boot.setVerified 2 true true).target 2) = true) ∧
    (List.replicate 32 (0 : Byte)).length = 32 ∧ [(0 : Byte)].length ≠ 32 ∧ stepMask (State.reset.boot.entry 0).step = 0 ∧ stepMask 4 ≠ 0 ∧
    -- a module that runs, one whose start is in step 11
    (State.reset.power = .up ∧ State.reset.boot.step12 = true) ∧ (State.reset.onBoot fun b => { b with step12 := false }).boot.step12 = false := by
  decide +kernel

/-- A session of each kind of image, up to the size of its slot. -/
theorem witness_FolkaiOperations_sessions :
    ∀ p ∈ [((1 : BitVec 8), (0 : BitVec 32)), (2, 0x100000), (3, 0x1000000)],
      1 ≤ p.1.toNat ∧ p.1.toNat ≤ 3 ∧ p.2.toNat ≤ slotSize p.1.toNat := by
  simp [slotSize]

/-- An image verifies where the part's two free checks of R411 say so: its premise is met by no number that the manual states. -/
theorem witness_FolkaiOperations_image :
    shake (bootImage.bytesAt (2 ^ 24 + 64) 1952) = Config.rootDigest →
    Config.verifies (bootImage.bytesAt (2 ^ 24 + 64) 1952) (shake (bootImage.signedPart 1 true)) (bootImage.bytesAt (2 ^ 24 + 64 + 1952) 3309) = true →
    bootImage.imageGood 1 true = true ∧ bootImage.counterGood 1 true = true := by
  have hb : bootImage.bodyLen 1 true = 0 := by decide +kernel
  have hs : slotBase 1 true = 2 ^ 24 := by decide +kernel
  have h1 : bootImage.imageKind 1 true = 1 := by decide +kernel
  have h2 : (bootImage.bytesAt (2 ^ 24 + 16) 48).all (fun x => decide (x = 0)) = true := by decide +kernel
  intro hd hv
  exact ⟨by simp only [Boot.imageGood, hb, hs, h1, h2, Nat.add_zero, hd, hv]; decide, by decide +kernel⟩

/-! ### Witnesses for the statements about the machine as a whole -/

/-- Reset with line 0 of the code region in place, current context (0, 0) Ready before it. -/
def sLine (w : BitVec 512) : State := State.reset.placeLine w

theorem witness_OnlyLackOfPowerStops :
    (({ State.reset with power := .off } : State).power = .off ∧ untilStart ({ State.reset with power := .off } : State).agenda = []) ∧
    (State.reset.power ≠ .off ∨ untilStart State.reset.agenda ≠ []) := by decide +kernel

/-- Bundle 0 is `add s3, s1, s2` in slot S and nothing else. -/
def addLine : BitVec 512 := 0x010030420000000000000000

/-- `add s3, s1, s2`. -/
def add0 : Instr := .add ⟨g0, 3, 1, 2⟩

theorem test_bundle_add : decodeBundle addLine = .ok ⟨Header.zero, [(.s, add0)]⟩ ∧ decodeTableWord 96 addLine.toNat = some add0 := by
  decide +kernel

/-- The state of the latch after the fetch of that bundle. -/
def fetched : State := after (exec (.issueCycle 0) (sLine addLine))

/-- The context of the bundle, with the latch empty again. -/
def latched : State := { ({ fetched with latch := [] } : State).meetLatch [⟨c0, Header.zero, [add0], false⟩] with cur := c0, hdr := Header.zero }

theorem witness_StepRunsDecoded :
    (State.reset.power ≠ .off ∧ ({ State.reset with agenda := [⟨0, .event (.issueCycle 0)⟩] } : State).agenda = [⟨0, .event (.issueCycle 0)⟩]) ∧
    State.reset.agenda = [] ∧ (∀ e ∈ (sLine addLine).ctxs, e.2.early = none) ∧ (sLine addLine).trails = [] ∧ (sLine addLine).orphans = [] ∧
    (∀ e ∈ (sLine addLine).cores, ∀ w ∈ e.2.writes, w.after = 0) ∧
    (∃ t, exec add0 State.reset = .next t ∧ t.latch = []) ∧
    (actOn (.event (.issueCycle 0)) (sLine addLine) = .next fetched ∧ fetched.latch = [⟨c0, Header.zero, [add0], false⟩] ∧ Header.zero.mark = false ∧
      latched.refreshLate c0 = none ∧
      (let u := latched.orderFences ⟨c0, Header.zero, [add0], false⟩
       landingOverflow (landingAfter exec c0 [add0] u) = none ∧
        (∃ v, exec add0 { u with checked := false } = .next v ∧ (v.ctx c0).st.isStopped = false) ∧
        ∃ w, exec add0 { u with checked := true } = .next w)) := by
  refine ⟨by decide +kernel, rfl, by decide +kernel, rfl, rfl, by decide +kernel, ⟨_, next_after (by decide +kernel), by decide +kernel⟩, next_after (by decide +kernel), by decide +kernel, rfl,
    by decide +kernel, by decide +kernel, ⟨_, next_after (by decide +kernel), by decide +kernel⟩, _, next_after (by decide +kernel)⟩

theorem witness_IssueOfADecodedBundle :
    (let s := sLine addLine
     let x := s.me
     x.st = .ready ∧ x.gap = 0 ∧ s.frozen s.cur = false ∧ s.fetchHeld s.cur = false ∧ x.regs.pc < s.csize x.asid ∧
      decodeBundle (s.codeLine x.asid x.regs.pc) = .ok ⟨Header.zero, [(.s, add0)]⟩ ∧
      [add0].findSome? (barPhase s.cur.core) = none ∧ x.phases s.cur.core ([add0].filter x.live) = none ∧
      (s.onCore s.cur.core fun k => { k with cycles := k.cycles + 1 }).stallOf s.cur false ([add0].filter x.live) = none ∧ s.entriesUsed s.cur.core < 64) ∧
    (∀ d : CtxId, d ≠ c0 → ((sLine addLine).ctx d).st = .unbound) ∧
    ∀ d : CtxId, (State.reset.ctx d).st = .unbound := by
  refine ⟨by decide +kernel, fun d h => ?_, fun d => ?_⟩
  · have hk : ¬ 0 = d.key := fun hk => h (by
      obtain ⟨c, l⟩ := d
      have h1 : c.toNat * 4 + l.toNat = 0 := hk.symm
      have h2 : c = 0 := by bv_omega
      have h3 : l = 0 := by bv_omega
      subst h2 h3
      rfl)
    have hc : (sLine addLine).ctxs = [(0, (sLine addLine).me)] := by decide +kernel
    simp only [State.ctx, hc, SMap.get, if_neg hk]
    rfl
  · rfl

/-- Slots 0 and 1 of core 0 with a bundle each: `add s3, s1, s2` with an allotment of 0, and a line of slot V0, or slot S, with an allotment of 2. -/
def twoLines (second : BitVec 512) : State :=
  let s : State := { sLine addLine with dev := ((sLine addLine).dev.store 0 (toBytes 64 addLine.toNat)).store 64 (toBytes 64 second.toNat) }
  s.setCtx ⟨0, 1⟩ { s.me with regs := { s.me.regs with pc := 1 } }

/-- V0 `add v1, v2, v3` with an allotment of 2. -/
def vecLine : BitVec 512 := 0x0100084180000000000000000000000000200000

/-- Core 0 with its next cycle counted. -/
def cycled (s : State) : State := s.onCore 0 fun k => { k with cycles := k.cycles + 1 }

/-- The two contexts of such a state alone are bound, and Ready; neither is frozen, and slot 0 comes first. -/
def twoReady (s : State) : Bool :=
  let d : CtxId := ⟨0, 1⟩
  decide ((s.ctx ⟨0, 2⟩).st = .unbound) && decide ((s.ctx ⟨0, 3⟩).st = .unbound) && decide ((s.ctx c0).st = .ready) && decide ((s.ctx d).st = .ready) &&
    !s.frozen c0 && !s.frozen d && !s.fetchHeld c0 && !s.fetchHeld d && decide (s.entriesUsed 0 + 2 ≤ 64) &&
    decide (s.sortKey c0 < s.sortKey d)

/-- A look that finds a bundle on given slots with a given allotment. -/
theorem bundle_of {l : Look} {slots : List Slot} {m : Nat}
    (h : (match l with
      | .bundle sl n _ => decide (sl = slots) && decide (n = m)
      | _ => false) = true) : ∃ b, l = .bundle slots m b := by
  cases l <;> simp_all

theorem witness_IssueOfADecodedBundle_two :
    -- sort keys: an aged context, one that yields, a higher CTXPRIO, a lower slot
    (let s := (sMe fun x => { x with passed := 64, yieldLeft := 1, prio := 1 }).setCtx ⟨0, 1⟩ { State.reset.me with passed := 63 }
     64 ≤ (s.ctx c0).passed ∧ (s.ctx ⟨0, 1⟩).passed < 64) ∧
    (let s := (sMe fun x => { x with prio := 1 }).setCtx ⟨0, 1⟩ { State.reset.me with yieldLeft := 1 }
     ((64 ≤ (s.ctx c0).passed ↔ 64 ≤ (s.ctx ⟨0, 1⟩).passed) ∧ (s.ctx c0).yieldLeft = 0 ∧ (s.ctx ⟨0, 1⟩).yieldLeft ≠ 0)) ∧
    (let s := (sMe fun x => { x with prio := 1 })
     (((s.ctx c0).yieldLeft = 0 ↔ (s.ctx ⟨0, 1⟩).yieldLeft = 0) ∧ (s.ctx ⟨0, 1⟩).prio.toNat < (s.ctx c0).prio.toNat)) ∧
    ((State.reset.ctx c0).prio = (State.reset.ctx ⟨0, 1⟩).prio ∧ c0.slot.toNat < (⟨0, 1⟩ : CtxId).slot.toNat) ∧
    -- bundles that share no slot, and two that share slot S
    (twoReady (twoLines vecLine) = true ∧ ∃ b, (cycled (twoLines vecLine)).look c0 = .bundle [.s] 0 b) ∧
    (twoReady (twoLines addLine) = true ∧ ∃ b, (cycled (twoLines addLine)).look c0 = .bundle [.s] 0 b) ∧
    (∃ b, (cycled (twoLines vecLine)).look ⟨0, 1⟩ = .bundle [.v0] 2 b) ∧ ∃ b, (cycled (twoLines addLine)).look ⟨0, 1⟩ = .bundle [.s] 0 b :=
  ⟨by decide +kernel, by decide +kernel, by decide +kernel, by decide +kernel, ⟨by decide +kernel, bundle_of (by decide +kernel)⟩,
    ⟨by decide +kernel, bundle_of (by decide +kernel)⟩, bundle_of (by decide +kernel), bundle_of (by decide +kernel)⟩

/-- Bundle 0 has S opcode 0x5F. -/
def badLine : BitVec 512 := 0x5F0000000000000000000000

/-- Bundle 0 is `(!p0) add s3, s1, s2`. -/
def offLine : BitVec 512 := 0x010830420000000000000000

/-- Bundle 0 is `(!p0) add s3, s1, s2` beside V0 `add v1, v17, v3`. -/
def mixLine : BitVec 512 := 0x01000A2180000000010830420000000000200000

theorem witness_GuardedOperations :
    ((sLine badLine).me.gap = 0 ∧ (sLine badLine).me.regs.pc < (sLine badLine).csize (sLine badLine).me.asid ∧
      decodeBundle ((sLine badLine).codeLine (sLine badLine).me.asid (sLine badLine).me.regs.pc) = .error ⟨2, 1, 0x5F⟩) ∧
    ((Instr.add ⟨⟨0, true⟩, 3, 1, 2⟩).guard? = some ⟨0, true⟩ ∧ State.reset.me.guard ⟨0, true⟩ = false) ∧
    (decodeBundle ((sLine offLine).codeLine (sLine offLine).me.asid (sLine offLine).me.regs.pc) = .ok ⟨Header.zero, [(.s, .add ⟨⟨0, true⟩, 3, 1, 2⟩)]⟩ ∧
      (sLine offLine).me.live (.add ⟨⟨0, true⟩, 3, 1, 2⟩) = false) ∧
    -- a bundle of an operation with a false guard and one without a guard: it can issue; with bank 1 gated the latter raises, and with bank 1
    -- retained it stalls
    (let s (vbank : BitVec 8) : State := (sLine mixLine).onMe fun c => { c with vbank := vbank }
     let v : Instr := .vAdd { v0 with va := 17 }
     let off : Instr := .add ⟨⟨0, true⟩, 3, 1, 2⟩
     (match decodeBundle ((s 0).codeLine (s 0).me.asid (s 0).me.regs.pc) with
       | .ok b => b.ops.map fun o => o.2
       | .error _ => []) = [off, v] ∧
       (s 0).me.live off = false ∧ (s 0).me.live v = true ∧ [off, v].findSome? (barPhase 0) = none ∧
       (s 0).me.phases 0 [v] = none ∧ (s 0).stallOf c0 false [v] = none ∧ (s 8).me.phases 0 [v] ≠ none ∧
       (s 4).me.phases 0 [v] = none ∧ (s 4).stallOf c0 false [v] ≠ none) ∧
    -- V0 `add` of v17 with bank 1 gated
    (let x : Ctx := { State.reset.me with vbank := 8 }
     let i : Instr := .vAdd { v0 with va := 17 }
     i.guard? = none ∧ (17 : BitVec 6) ∈ i.vNames ∧ x.bank (x.regs.phys 17) = 2) := by decide +kernel

theorem witness_ResultsLandWhenDue :
    (let l : Landing := ⟨some 0, .s 3 7, false, none, 0⟩
     let late : Landing := ⟨some 9, .s 4 7, false, none, 0⟩
     let c : Ctx := { State.reset.me with regs := { State.reset.me.regs with landing := [late, l] } }
     c.regs.landing = [late] ++ [l] ∧ l.isDue c.regs.tick = true ∧ (∀ k ∈ c.regs.landing, k.isDue c.regs.tick = true → k = l) ∧ (3 : Nat) ≠ 0) ∧
    (let l : Landing := ⟨some 0, .p 15 true, false, none, 0⟩
     l.isDue State.reset.me.regs.tick = true ∧ (0 : Nat) < 15 ∧ (15 : Nat) < 16) ∧
    (let l : Landing := ⟨some 0, .v 63 7 0xF, false, none, 0⟩
     l.isDue State.reset.me.regs.tick = true ∧ State.reset.me.bank 63 ≠ 2) ∧
    ((0 : Nat) ≤ State.reset.me.regs.tick ∧ State.reset.me.regs.tick < 1) := by decide +kernel

theorem witness_ExceptionsAreTaken :
    ((255 : Nat) < 2 ^ 8 ∧ (15 : Nat) < 2 ^ 4) ∧
    (let s := sRun (launch0 2 1 [step0]) [⟨5, 0, 0⟩]
     ∃ r l, s.taskFor c0 = some r ∧ (s.lathe (dieOf c0.core)).launch r.launch = some l) ∧
    Kind.poison.rolls = false ∧ Kind.poison ≠ Kind.refreshLate ∧ Kind.xlate.rolls = true ∧ (State.reset.ctx c0).st ≠ .lost ∧
    -- a shadow of which nothing is due
    (State.reset.me.shadow.landing = [] ∧ State.reset.me.shadow.pendTiles = [] ∧ State.reset.me.regs.csrQ = [] ∧ State.reset.me.shadow.csrQ = [] ∧
      State.reset.me.regs.flagQ ++ State.reset.me.shadow.flagQ = [] ∧ ∀ r, State.reset.me.bank r ≠ 2) := by
  refine ⟨by decide, ⟨_, _, rfl, rfl⟩, by decide, by decide, by decide, by decide, rfl, rfl, rfl, rfl, rfl, fun r => ?_⟩
  simp [Ctx.bank, State.me, State.reset, State.ctx, SMap.get, Ctx.init, field]

theorem witness_SlotOperationsFrame :
    (encodeSlot add0).isSome = true ∧ (∃ t, exec add0 { State.reset with checked := true } = .next t) ∧
    ¬ (({ State.reset with checked := true } : State).checked = false) :=
  ⟨by decide +kernel, ⟨_, next_after (by decide +kernel)⟩, by decide⟩

theorem witness_EventsFrame :
    (isS c0.core = false ∧ free c0 (sIn .ready) = true ∧
      ∃ t, exec (.resultLand c0) (sIn .ready) = .next t ∧ (t.ctx c0).st.isStopped = ((sIn .ready).ctx c0).st.isStopped) ∧
    ((sIn (.blocked (.awaitf 0 0))).ctx c0).st = .blocked (.awaitf 0 0) ∧ (∀ d : CtxId, d ≠ c0 → ∀ id, (State.reset.ctx d).waitsOn id = false) ∧
    (∃ t, exec (.linkDown 5) (sPort 3 0) = .next t) ∧ (∃ t, exec .clearMarks State.reset = .next t) ∧ ∃ t, exec (.setCap 31 500) State.reset = .next t :=
  ⟨⟨by decide, by decide +kernel, _, next_after (by decide +kernel), by decide +kernel⟩, by decide +kernel, fun _ _ _ => rfl, ⟨_, next_after (by decide +kernel)⟩,
    ⟨_, next_after (by decide +kernel)⟩, _, next_after (by decide +kernel)⟩

/-- A write of the last byte of the cluster store, and, masked, of the byte after it. -/
def write0 : CoreWrite := ⟨0, 0, 0, 0x3FFFF, [7, 9], [true, false], 0, false, 0⟩

/-- A queued store that has not performed, a fence behind it, and a core-store write behind that. -/
def sHidden : State :=
  { (sQ .ready [{ load0 with kind := .store }]).onMe fun c => { c with fences := [(1, .core)], seq := 2 } with cores := [(0, { Core.init with writes := [{ write0 with seq := 2 }] })] }

/-- A store of a whole line of device memory, translated. -/
def storeLine : QAcc :=
  { load0 with
    kind := .store, target := .t .m 1 0 [0, 0, 0, 0, 0], bytes := List.replicate 128 7, vec := true, phase := .walked ⟨.dev 0x1000, none⟩ none }

/-- A store of eight bytes at the end of a sector of device memory, translated. -/
def store0 : QAcc := { load0 with kind := .store, target := .t .m 1 0 [0, 0, 0, 0, 0], bytes := [1, 2, 3, 4, 5, 6, 7, 8], phase := .walked ⟨.dev 0x1018, none⟩ none }

theorem witness_StoresWriteTheirBytes :
    (let s := { sIn .ready with cores := [(0, { Core.init with writes := [write0] })] }
     (s.ctx c0).st = .ready ∧ (s.core c0.core).writes = [write0] ∧ write0.slot = c0.slot ∧ write0.due ≤ (s.ctx c0).regs.tick ∧
      write0.bid = (s.ctx c0).bid ∧ (s.core c0.core).layers = [] ∧ (s.ctx c0).holders write0 = [] ∧ write0.whole = false ∧ write0.lanes.length = write0.bytes.length ∧
      ∀ i < 2, ∀ j < 2, coreOff c0.core (write0.off + i) = coreOff c0.core (write0.off + j) → i = j) ∧
    -- one that waits for the store before a fence
    ((sHidden.ctx c0).st = .ready ∧ (sHidden.core c0.core).writes = [{ write0 with seq := 2 }] ∧ (sHidden.core c0.core).layers = [] ∧
      (sHidden.ctx c0).holders { write0 with seq := 2 } ≠ [] ∧ sHidden.dueFree c0 = [] ∧ (sHidden.ctx c0).regs.dupQ = []) ∧
    (let s := sQ .ready [storeLine]
     s.dueAccesses c0 .m = [⟨storeLine, ⟨.dev 0x1000, none⟩, none, none⟩] ∧ storeLine.kind = .store ∧ s.leaseStops storeLine ⟨.dev 0x1000, none⟩ = false ∧
      s.barriers = [] ∧ 0x1000 % 32 = 0 ∧ storeLine.bytes.length % 32 = 0) ∧
    (let s := sQ .ready [store0]
     s.dueAccesses c0 .m = [⟨store0, ⟨.dev 0x1018, none⟩, none, none⟩] ∧ store0.kind = .store ∧ s.leaseStops store0 ⟨.dev 0x1018, none⟩ = false ∧
      s.barriers = [] ∧ (0x1018 % 32 + store0.bytes.length ≤ 32)) ∧
    (∀ b : Nat, (sQ .ready [store0]).blockAt (dieOf c0.core) b = none ∧ (sQ .ready [storeLine]).blockAt (dieOf c0.core) b = none) ∧
    (({ sCore 0 0 0 0 with checked := true } : State).me.guard g0 = true ∧ ({ sCore 0 0 0 0 with checked := true } : State).checked = true) := by
  exact ⟨by decide +kernel, by decide +kernel, by decide +kernel, by decide +kernel, fun _ => ⟨rfl, rfl⟩, by decide +kernel⟩

theorem witness_StepKeepsCanonical :
    (Safety.outerCanonical State.reset ∧ Safety.innerCanonical State.reset) ∧
    (Safety.outerCanonical (sLine addLine) ∧ Safety.innerCanonical (sLine addLine)) ∧
    ∃ t, step (sLine addLine) = .next t ∧ SMap.get 0 (t.ctx c0).regs.s 3 = 0 ∧ (t.ctx c0).regs.pc = 1 := by
  refine ⟨?_, ?_, _, next_after (by decide +kernel), by decide +kernel, by decide +kernel⟩ <;>
    exact ⟨⟨by decide +kernel, by decide +kernel, by decide +kernel⟩, by decide +kernel, by decide +kernel⟩

theorem witness_SlotEncodingRoundTrip : add0.wf = true ∧ encodeSlot add0 = some (.s 0x0100304200000000) ∧ add0 ≠ .dup := by decide +kernel

theorem witness_CommandEncodingRoundTrip : (Instr.clearAs h0 5).wf = true ∧ (encodeCommand (.clearAs h0 5)).isSome = true := by decide +kernel

/-! ### Lines that phases 1 to 3 refuse (R74, R75, R77, R79, R80, R91) -/

theorem test_bundle_refusals :
    -- class 1; a reserved header bit; allotments that sum to 7
    decodeBundle 0x10000000 = .error ⟨1, 0, 0⟩ ∧ decodeBundle 0x800 = .error ⟨1, 0, 0⟩ ∧ decodeBundle 0x3D0000 = .error ⟨1, 0, 0⟩ ∧
    -- an opcode of zero beside another bit; an S opcode and a Y opcode that the map leaves out
    decodeBundle 0x000000000000000100000000 = .error ⟨2, 1, 0⟩ ∧ decodeBundle 0x5F0000000000000000000000 = .error ⟨2, 1, 0x5F⟩ ∧
    -- `add` with a bit of [15:0] set; the breach of phase 2 in a later slot comes first
    decodeBundle 0x010030420000000100000000 = .error ⟨3, 1, 1⟩ ∧
    decodeBundle (((0x7F00000000000000 : BitVec 512) <<< 96) ||| 0x010030420000000100000000) = .error ⟨2, 2, 0x7F⟩ ∧
    -- V0 `add`, which reads two registers, with an allotment of 1, and with one of 2
    decodeBundle (((0x0100084180000000 : BitVec 512) <<< 96) ||| 0x100000) = .error ⟨3, 2, 1⟩ ∧
    (∃ b, decodeBundle (((0x0100084180000000 : BitVec 512) <<< 96) ||| 0x200000) = .ok b) ∧
    -- `dup` without a V0 operation
    decodeBundle ((0x3F00000000000000 : BitVec 512) <<< 160) = .error ⟨3, 3, 0x3F⟩ := by
  refine ⟨by decide +kernel, by decide +kernel, by decide +kernel, by decide +kernel, by decide +kernel, by decide +kernel, by decide +kernel,
    by decide +kernel, ok_of (by decide +kernel), by decide +kernel⟩

theorem test_command_refusals :
    -- an opcode that R358 leaves out, a reserved bit of word 0, a completion address that is no multiple of 8
    decodeCommand 0x7F = .error .rejected ∧ decodeCommand 0x100 = .error .rejected ∧ decodeCommand ((4 : BitVec 512) <<< 384) = .error .address := by
  decide +kernel

/-! ### Single steps with the manual's own examples -/

/-- What an operation puts into the landing queue of the current context, with the ticks. -/
def lands (i : Instr) (s : State) : List (Option Nat × LandVal) := (after (exec i s)).me.regs.landing.map fun l => (l.due, l.val)

/-- R178: −2 and 3. -/
def sMul : State := sVals 0xFFFFFFFFFFFFFFFE 3 0xABCD1234 0x1F80

theorem test_products :
    lands (.mul ⟨g0, 5, 1, 2⟩) sMul = [(some 3, .s 5 0xFFFFFFFFFFFFFFFA)] ∧ lands (.mulh ⟨g0, 5, 1, 2⟩) sMul = [(some 3, .s 5 0xFFFFFFFFFFFFFFFF)] ∧
    lands (.mulhu ⟨g0, 5, 1, 2⟩) sMul = [(some 3, .s 5 2)] := by decide +kernel

/-- R179. -/
theorem test_fields :
    lands (.bext ⟨g0, 5, 3⟩ false 8 11) sMul = [(some 1, .s 5 0xD12)] ∧ lands (.bext ⟨g0, 5, 3⟩ true 8 11) sMul = [(some 1, .s 5 0xFFFFFFFFFFFFFD12)] ∧
    lands (.bins ⟨g0, 5, 3, 0⟩ 60 3) sMul = [(some 1, .s 5 0x4000000000000000)] := by decide +kernel

/-- R176: an immediate of −1 is all ones, read as unsigned too. -/
theorem test_immediates :
    lands (.addImm ⟨g0, 5, 2, 0xFFFFFFFF⟩) sMul = [(some 1, .s 5 2)] ∧ lands (.maxuImm ⟨g0, 5, 2, 0xFFFFFFFF⟩) sMul = [(some 1, .s 5 0xFFFFFFFFFFFFFFFF)] ∧
    lands (.li g0 5 0x12345678) sMul = [(some 1, .s 5 0x12345678)] := by decide +kernel

/-- R180: `lih` over a register that holds 0x12345678. -/
theorem test_lih : lands (.lih ⟨g0, 5, 1, 0x9ABCDEF0⟩) (sVals 0x12345678 0 0 0) = [(some 1, .s 5 0x9ABCDEF012345678)] := by decide +kernel

/-- R189: `cinc s3, s4, 0x100, 12` of 0x1F80. -/
theorem test_cinc : lands (.cincImm ⟨g0, 3, 4, 0x100⟩ 12) sMul = [(some 1, .s 3 0x1080)] := by decide +kernel

/-- R65: at RRB 29, s43 is physical 40. -/
theorem test_rotation : (sRegs fun r => { r with rrb := 29 }).me.regs.phys 43 = 40 ∧ (sRegs fun r => { r with rrb := 31 }).me.regs.phys 32 = 63 ∧
    (sRegs fun r => { r with rrb := 31 }).me.regs.physP 8 = 15 := by decide +kernel

/-- R188: a loop of one bundle at index 20, with lc0 = 2. -/
theorem test_loop :
    (after (exec (.loop g0 false 0) (sRegs fun r => { r with pc := 20, lc := [(0, 2), (1, 0)] }))).me.regs.lc.get 0 0 = 1 := by decide +kernel

/-- R72: TREFI on an S-core at normal temperature; a D-core has no such register (R377). -/
theorem test_trefi :
    lands (.csrr g0 3 0x047) (sCore 0 0 0 0) = [(some 2, .s 3 0xF3C)] ∧
    (after (exec (.csrr g0 3 0x047) State.reset)).me.st = .suspended := by decide +kernel

/-- Reset with vectors 1 to 3. -/
def sVec (a b c : V1024) : State := sRegs fun r => { r with v := [(1, a), (2, b), (3, c)] }

/-- The low 32 bits of the vector result that an operation puts into the landing queue, and the flags. -/
def vecLow (i : Instr) (s : State) : List Nat × List Nat :=
  let r := (after (exec i s)).me.regs
  (r.landing.map fun l => match l.val with
    | .v _ x _ => (x.extractLsb' 0 32).toNat
    | _ => 0, r.flagQ.map fun f => f.bits.toNat)

/-- R208: `add.bf16` of 1.0078125 and 2^−7 is 0x3F82, without a flag; `add.i8.sat` of 0x70 and 0x20 clamps. -/
theorem test_vector_add :
    vecLow (.vAdd { v0 with ty := .bf16, m := 1 }) ((sVec 0 0x3F81 0x3C00).onMe fun c => { c with regs := { c.regs with m := [(1, 3)] } }) =
      ([0x3F82], []) ∧
    vecLow (.vAdd { v0 with ty := .i8, m := 1, sat := true }) ((sVec 0 0x70 0x20).onMe fun c => { c with regs := { c.regs with m := [(1, 1)] } }) =
      ([0x7F], [0x20]) := by decide +kernel

/-- R212: `sar.i16 v3, v4, 3` of 0x8010. -/
theorem test_vector_sar : (vecLow (.vSar { v0 with ty := .i16, vb := 3, ext := 1 }) (sVec 0 0x8010 0)).1 = [0xF002] := by decide +kernel

/-- R215: `cvt.e4m3.fromf32.p1.sat` of 500.0 in element 0 writes byte 32, 0x7E, and sets OVERFLOW, INEXACT and SATURATED. -/
theorem test_vector_convert :
    (let r := (after (exec (.vCvt { v0 with ty := .e4m3, sat := true, ext := 0x10, m := 1 })
        ((sVec 0 0x43FA0000 0).onMe fun c => { c with regs := { c.regs with m := [(1, 0x100000000)] } }))).me.regs
     (r.landing.map fun l => match l.val with
       | .v _ x _ => (x.extractLsb' 256 8).toNat
       | _ => 0, r.flagQ.map fun f => f.bits.toNat) = ([0x7E], [0x34])) := by decide +kernel

/-- R218: `rcp.f32` of 3.0. -/
theorem test_vector_rcp : (vecLow (.vRcp { v0 with m := 1 }) ((sVec 0 0x40400000 0).onMe fun c => { c with regs := { c.regs with m := [(1, 1)] } })).1 =
    [0x3EAAAAAB] := by decide +kernel

/-- R115: the tree of `radd.f32` over 2^24, 1, 1 and zeros. -/
theorem test_vector_radd : (vecLow (.vRadd { v0 with va := 2 }) (sVec 0 0x3F8000003F8000004B800000 0)).1 = [0x4B800000] := by decide +kernel

/-- One step: the line's `add` issues, its result waits for tick 1, and the next bundle is 1. -/
theorem test_step :
    (let t := after (step ((State.reset.withFetchWord 96 addLine.toNat).onMe fun c => { c with regs := { c.regs with s := [(1, 5), (2, 6)] } }))
     t.me.regs.landing.map (·.val) = [] ∧ SMap.get 0 t.me.regs.s 3 = 11 ∧ t.me.regs.pc = 1 ∧ t.me.regs.tick = 1) := by decide +kernel


/-! ### The cipher of R143, by the vectors of the standards that it names -/

/-- FIPS 197, C.3: the key 00 01 … 1F and the block 00 11 … FF. -/
theorem test_aes :
    let ks := aesKeys 0x1F1E1D1C1B1A191817161514131211100F0E0D0C0B0A09080706050403020100
    let c := [0x8E, 0xA2, 0xB7, 0xCA, 0x51, 0x67, 0x45, 0xBF, 0xEA, 0xFC, 0x49, 0x90, 0x4B, 0x49, 0x60, 0x89]
    aesEncrypt ks ((List.range 16).map fun i => 17 * i) = c ∧ aesDecrypt ks c = (List.range 16).map fun i => 17 * i := by decide +kernel

/-- IEEE 1619, vector 10: the first two blocks of data unit 0xFF, which hold 00 01 … 1F. -/
theorem test_xts :
    let ks := aesKeys 0x2776966649575999699370245777496226357174286053234590452818281827
    let t := blockNumber (aesEncrypt (aesKeys 0x9245947409820551379993169741880295278333646284239397585326594131) (blockBytes 0xFF))
    xtsBlocks (aesEncrypt ks) t 2 0 (List.range 32) =
      [0x1C, 0x3B, 0x3A, 0x10, 0x2F, 0x77, 0x03, 0x86, 0xE4, 0x83, 0x6C, 0x99, 0xE3, 0x70, 0xCF, 0x9B, 0xEA, 0x00, 0x80, 0x3F, 0x5E, 0x48, 0x23, 0x57,
        0xA4, 0xAE, 0x12, 0xD4, 0x14, 0xA3, 0xE6, 0x3B] := by decide +kernel

end Sys2Proof.Tests
end

section
/-! Link records: what gathering, sending and resending change records can change (R433), and what a port's leaving LIVE or entering DOWN does (R431). -/

namespace Sys2Proof.Machine

/-! ### What the fabric's bookkeeping can change -/

/-- Two link states that differ at most in the records gathered and unacknowledged and in the keeper that they name. -/
def Links.sameButRecords (l m : Links) : Prop :=
  m = { l with keeper := m.keeper, batch := m.batch, batchFrom := m.batchFrom, unacked := m.unacked, later := m.later }

/-- Two states that differ at most in their links, in telemetry and in what more has left the package. -/
def State.sameButFabric (s t : State) : Prop :=
  t = { s with links := t.links, out := t.out, telemetry := t.telemetry } ∧ s.out <+: t.out

/-- Two states between which change records were gathered or sent. -/
def State.sendsRecords (s t : State) : Prop := s.sameButFabric t ∧ s.links.sameButRecords t.links

theorem Links.sameButRecords_refl (l : Links) : l.sameButRecords l := rfl

theorem Links.sameButRecords_trans {l m n : Links} (h : l.sameButRecords m) (g : m.sameButRecords n) : l.sameButRecords n := by
  unfold Links.sameButRecords at *; rw [g, h]

section
variable {l m : Links} (h : l.sameButRecords m)
include h

theorem Links.sameButRecords_ports : m.ports = l.ports := by unfold Links.sameButRecords at h; rw [h]
theorem Links.sameButRecords_live : m.live = l.live := by unfold Links.sameButRecords at h; rw [h]
theorem Links.sameButRecords_epoch : m.epoch = l.epoch := by unfold Links.sameButRecords at h; rw [h]
theorem Links.sameButRecords_waiting : m.waiting = l.waiting := by unfold Links.sameButRecords at h; rw [h]
theorem Links.sameButRecords_alone : m.alone = l.alone := by unfold Links.sameButRecords at h; rw [h]
theorem Links.sameButRecords_joined : m.joined = l.joined := by unfold Links.sameButRecords at h; rw [h]

end

theorem State.sameButFabric_refl (s : State) : s.sameButFabric s := ⟨rfl, [], List.append_nil _⟩

theorem State.sameButFabric_trans {s t u : State} (h : s.sameButFabric t) (g : t.sameButFabric u) : s.sameButFabric u := by
  obtain ⟨hrest, hout⟩ := h
  obtain ⟨grest, gout⟩ := g
  exact ⟨by rw [grest, hrest], hout.trans gout⟩

theorem State.sameButFabric_dev {s t : State} (h : s.sameButFabric t) : t.dev = s.dev := by rw [h.1]
theorem State.sameButFabric_rings {s t : State} (h : s.sameButFabric t) : t.rings = s.rings := by rw [h.1]

theorem State.sendsRecords_refl (s : State) : s.sendsRecords s := ⟨s.sameButFabric_refl, s.links.sameButRecords_refl⟩

theorem State.sendsRecords_trans {s t u : State} (h : s.sendsRecords t) (g : t.sendsRecords u) : s.sendsRecords u :=
  ⟨State.sameButFabric_trans h.1 g.1, Links.sameButRecords_trans h.2 g.2⟩

/-! ### One update each -/

@[simp] theorem State.links_onLinks (s : State) (f : Links → Links) : (s.onLinks f).links = f s.links := rfl
@[simp] theorem State.out_emit (s : State) (o : Output) : (s.emit o).out = s.out ++ [o] := rfl

/-- A port reads by the table of ports alone. -/
theorem State.port_congr {s t : State} (h : t.links.ports = s.links.ports) (n : Nat) : t.port n = s.port n :=
  congrArg (fun m => SMap.get Port.init m n) h

theorem State.onLinks_sameButFabric (s : State) (f : Links → Links) : s.sameButFabric (s.onLinks f) := ⟨rfl, [], List.append_nil _⟩

theorem State.onPort_sameButFabric (s : State) (n : Nat) (f : Port → Port) : s.sameButFabric (s.onPort n f) := ⟨rfl, [], List.append_nil _⟩

theorem State.tally_sameButFabric (s : State) (off n : Nat) : s.sameButFabric (s.tally off n) := ⟨rfl, [], List.append_nil _⟩

theorem State.emit_sameButFabric (s : State) (o : Output) : s.sameButFabric (s.emit o) := ⟨rfl, _, rfl⟩

theorem State.emit_sendsRecords (s : State) (o : Output) : s.sendsRecords (s.emit o) := ⟨s.emit_sameButFabric o, Links.sameButRecords_refl _⟩

/-- A change of the links within their records gathers or sends records at most. -/
theorem State.onLinks_sendsRecords {s : State} {f : Links → Links} (h : s.links.sameButRecords (f s.links)) : s.sendsRecords (s.onLinks f) :=
  ⟨s.onLinks_sameButFabric f, h⟩

/-- A fold of steps that each send records sends records. -/
theorem State.foldl_sendsRecords {β : Type} {f : State → β → State} (hf : ∀ s b, State.sendsRecords s (f s b)) (l : List β) (s : State) :
    s.sendsRecords (l.foldl f s) :=
  List.foldlRecOn l f s.sendsRecords_refl fun t h b _ => State.sendsRecords_trans h (hf t b)

/-! ### Gathering and sending (R433) -/

theorem Links.take_sameButRecords (l : Links) (r : LinkChange) (now : Nat) : l.sameButRecords (l.take r now) := by
  unfold Links.take
  split
  · rfl
  · split <;> rfl

theorem Links.follow_sameButRecords (l : Links) : l.sameButRecords l.follow := by
  unfold Links.follow
  split <;> rfl

theorem Links.foldl_take_sameButRecords {β : Type} (rec : β → LinkChange) (at_ : β → Nat) (rs : List β) (l : Links) :
    l.sameButRecords (rs.foldl (fun l r => l.take (rec r) (at_ r)) l) :=
  List.foldlRecOn rs _ l.sameButRecords_refl fun m h _ _ => Links.sameButRecords_trans h (m.take_sameButRecords _ _)

theorem State.gatherAll_sendsRecords (s : State) (rs : List LinkChange) : s.sendsRecords (s.gatherAll rs) :=
  State.onLinks_sendsRecords
    (Links.sameButRecords_trans (Links.foldl_take_sameButRecords id (fun _ => s.chip) rs s.links) (Links.follow_sameButRecords _))

theorem State.toKeeper_sendsRecords (s : State) (rs : List LinkChange) : s.sendsRecords (s.toKeeper rs) := by
  have hgather : s.sendsRecords (if s.links.keeps then s.gatherAll rs else s) := by
    split
    · exact s.gatherAll_sendsRecords rs
    · exact s.sendsRecords_refl
  unfold State.toKeeper
  dsimp only
  split
  · exact State.sendsRecords_trans hgather (State.foldl_sendsRecords (fun t _ => t.emit_sendsRecords _) rs _)
  · exact hgather

theorem State.sendChange_sendsRecords (s : State) (r : LinkChange) : s.sendsRecords (s.sendChange r) :=
  State.sendsRecords_trans (State.onLinks_sendsRecords (f := fun l => { l with unacked := l.unacked ++ [r] }) rfl)
    (State.toKeeper_sendsRecords _ _)

theorem State.resend_sendsRecords (s : State) : s.sendsRecords s.resend := by
  unfold State.resend
  split
  · exact State.foldl_sendsRecords (fun t r => t.gatherAll_sendsRecords [r]) _ s
  · exact State.foldl_sendsRecords (fun t _ => t.emit_sendsRecords _) _ s

theorem State.resendPorts_sendsRecords (s : State) : s.sendsRecords s.resendPorts := by
  refine State.foldl_sendsRecords (fun t n => ?_) _ s
  dsimp only
  split
  · exact t.sendsRecords_refl
  · exact t.sendChange_sendsRecords _

theorem State.sendsRecords_ports {s t : State} (h : s.sendsRecords t) : t.links.ports = s.links.ports :=
  Links.sameButRecords_ports h.2

/-! ### Ports of the package (R2) -/

theorem ifPort_present {p : BitVec 6} (h : p.toNat < 36) (s t : State) : ifPort p s t = .next t := by rw [ifPort, if_pos h]

theorem ifPort_absent {p : BitVec 6} (h : 36 ≤ p.toNat) (s t : State) : ifPort p s t = .next s := by rw [ifPort, if_neg (Nat.not_lt.2 h)]

/-! ### Ports that leave LIVE and enter DOWN (R431) -/

theorem State.leaveLive_sameButFabric (s : State) (n : Nat) : s.sameButFabric (s.leaveLive n) :=
  State.sameButFabric_trans (s.tally_sameButFabric _ _)
    (State.sameButFabric_trans (State.onLinks_sameButFabric _ _) (State.sendChange_sendsRecords _ _).1)

theorem State.leaveLive_ports (s : State) (n : Nat) : (s.leaveLive n).links.ports = s.links.ports := by
  refine (State.sendsRecords_ports (State.sendChange_sendsRecords _ _)).trans ?_
  rw [State.links_onLinks, State.tally_links]
  split <;> rfl

theorem State.forget_ports (s : State) : s.forget.links.ports = s.links.ports := by
  rw [State.forget, State.links_onLinks]
  split <;> rfl

/-- A package with no trained port has no pod number (R429). -/
theorem State.forget_selfValid {s : State} (h : s.forget.links.anyTrained = false) : s.forget.links.selfValid = false := by
  have hsame : s.forget.links.anyTrained = s.links.anyTrained := by rw [Links.anyTrained, State.forget_ports, Links.anyTrained]
  rw [State.forget, State.links_onLinks, if_neg (by rw [← hsame, h]; decide)]

theorem State.portDown_sameButFabric (s : State) (n : Nat) : s.sameButFabric (s.portDown n) := by
  unfold State.portDown State.forget
  dsimp only
  refine State.sameButFabric_trans ?_ (State.onLinks_sameButFabric _ _)
  split
  · exact State.sameButFabric_trans (s.onPort_sameButFabric _ _) (State.leaveLive_sameButFabric _ _)
  · exact s.onPort_sameButFabric _ _

/-- What a port is once it has entered DOWN. -/
theorem State.portDown_port (s : State) (n : Nat) :
    (s.portDown n).port n = { s.port n with state := 0, since := s.chip, replays := [] } := by
  rw [← s.port_onPort_same n fun p => { p with state := 0, since := s.chip, replays := [] }]
  apply State.port_congr
  rw [State.portDown, State.forget_ports]
  split
  · exact State.leaveLive_ports _ _
  · rfl

theorem State.portDown_selfValid {s : State} {n : Nat} (h : (s.portDown n).links.anyTrained = false) :
    (s.portDown n).links.selfValid = false := State.forget_selfValid h

/-- A write of a port's admin bit leaves the bit as it is written (R432). -/
theorem State.writeAdmin_admin (s : State) (n : Nat) (v : W64) : ((s.writeAdmin n v).port n).admin = v.getLsbD 63 := by
  unfold State.writeAdmin
  dsimp only
  split
  · rw [State.portDown_port, State.port_onPort_same]
  · rw [State.port_onPort_same]

/-- A written admin bit of 1 leaves the port DOWN (R431, R432). -/
theorem State.writeAdmin_down {s : State} {n : Nat} {v : W64} (h : v.getLsbD 63 = true) : ((s.writeAdmin n v).port n).state = 0 := by
  unfold State.writeAdmin
  dsimp only
  split
  · rw [State.portDown_port]
  · rename_i hdown
    simpa [h] using hdown

end Sys2Proof.Machine
end

section
/-! Register writes of the host: what an update of a channel, a bank or a stream leaves to read, which register an offset of BAR0 names, and O39. -/

namespace Sys2Proof.Machine

/-! ### Channels and banks of a stack -/

@[simp] theorem State.channel_onChannel_same (s : State) (st ch : Nat) (f : Channel → Channel) :
    (s.onChannel st ch f).channel st ch = f (s.channel st ch) := by
  simp [State.channel, State.onChannel]

@[simp] theorem State.bank_onBank_same (s : State) (st ch bank : Nat) (f : BankMode → BankMode) :
    ((s.onBank st ch bank f).stack st).bank ch bank = f ((s.stack st).bank ch bank) := by
  simp [Stack.bank, State.onBank]

/-- A channel of which nothing is open has no open row. -/
theorem Channel.row_of_openRow_nil {k : Channel} (h : k.openRow = []) (b : Nat) : k.row b = none := by
  simp [Channel.row, h]

/-- A write of a lease register starts the handover to the value that it may set. -/
theorem execLeaseWrite_handover (st : BitVec 4) (ch : BitVec 5) (v : W64) (s : State) :
    ∃ t, execLeaseWrite st ch v s = .next t ∧
      t.channel st.toNat ch.toNat = { s.channel st.toNat ch.toNat with handover := some (s.leaseValue st.toNat ch.toNat v) } :=
  ⟨_, rfl, by simp⟩

/-- At the end of a handover the new lease governs, and no row is open. -/
theorem execLeaseHandoverEnd_governs {st : BitVec 4} {ch : BitVec 5} {v : W64} {s : State}
    (h : (s.channel st.toNat ch.toNat).handover = some v) :
    ∃ t, execLeaseHandoverEnd st ch s = .next t ∧ (t.channel st.toNat ch.toNat).lease = v ∧
      (t.channel st.toNat ch.toNat).handover = none ∧ (t.channel st.toNat ch.toNat).openRow = [] := by
  simp only [execLeaseHandoverEnd, h]
  exact ⟨_, rfl, by simp, by simp, by simp⟩

/-! ### Streams -/

/-- Two changes of a stream that agree on its registers agree. -/
theorem State.onStream_congr {s : State} {i : StreamId} {f g : Stream → Stream} (h : f (s.stream i) = g (s.stream i)) :
    s.onStream i f = s.onStream i g := by
  obtain ⟨die, n⟩ := i
  cases die <;>
  · simp only [State.stream, State.lathe, Bool.false_eq_true, if_false, if_true] at h
    simp only [State.onStream, State.onLathe, Bool.false_eq_true, if_false, if_true, h]

/-- A doorbell within a ring of HEAD is the new TAIL (R356). -/
theorem State.ringDoorbell_within {s : State} {i : StreamId} {tail : BitVec 32}
    (h : (tail - (s.stream i).head).toNat ≤ 2 ^ (s.stream i).size.toNat) :
    s.ringDoorbell i tail = s.onStream i fun k => { k with tail := tail } :=
  State.onStream_congr (if_neg (Nat.not_lt.2 h))

/-- A doorbell more than a ring ahead of HEAD overruns (R356). -/
theorem State.ringDoorbell_beyond {s : State} {i : StreamId} {tail : BitVec 32}
    (h : 2 ^ (s.stream i).size.toNat < (tail - (s.stream i).head).toNat) :
    s.ringDoorbell i tail = s.onStream i fun k => { k with overrun := true } :=
  State.onStream_congr (if_pos h)

theorem State.clearWatchdog_watchdog (s : State) (i : StreamId) (v : W64) :
    ((s.clearWatchdog i v).stream i).watchdog = ((s.stream i).watchdog && !v.getLsbD 3) := by
  rw [State.clearWatchdog, State.stream_onStream_same]
  cases v.getLsbD 3 <;> simp

/-- Each bit of a word put together under a mask of kept bits. -/
theorem getLsbD_keep {w : Nat} (new old kept : BitVec w) {i : Nat} (hi : i < w) :
    ((new &&& ~~~kept) ||| (old &&& kept)).getLsbD i = if kept.getLsbD i then old.getLsbD i else new.getLsbD i := by
  simp only [BitVec.getLsbD_or, BitVec.getLsbD_and, BitVec.getLsbD_not, hi, decide_true, Bool.true_and]
  cases kept.getLsbD i <;> simp

/-- A write of CTL by another than Folkai keeps world and priv (R355). -/
theorem Stream.ctlKept_host (k : Stream) {i : Nat} (h4 : 4 ≤ i) (h6 : i < 6) : (k.ctlKept false).getLsbD i = true := by
  obtain rfl | rfl : i = 4 ∨ i = 5 := by omega
  · cases h : k.running <;> simp [Stream.ctlKept, h]
  · cases h : k.running <;> simp [Stream.ctlKept, h]

/-- Bit 0 of CTL is never kept. -/
theorem Stream.ctlKept_zero (k : Stream) (folkai : Bool) : (k.ctlKept folkai).getLsbD 0 = false := by
  cases folkai <;> cases h : k.running <;> simp [Stream.ctlKept, h]

/-- CTL after a write of its register (R355). -/
theorem State.writeStream_ctl (s : State) (i : StreamId) (folkai : Bool) (v : W64) :
    ((s.writeStream i 0x20 folkai v).stream i).ctl =
      (slice v 0 6 &&& ~~~(s.stream i).ctlKept folkai) ||| ((s.stream i).ctl &&& (s.stream i).ctlKept folkai) := by
  simp [State.writeStream]

theorem State.writeStream_ctl_worldPriv (s : State) (i : StreamId) (v : W64) :
    ((s.writeStream i 0x20 false v).stream i).ctl.extractLsb' 4 2 = (s.stream i).ctl.extractLsb' 4 2 := by
  apply BitVec.eq_of_getLsbD_eq
  intro j hj
  have hkept := (s.stream i).ctlKept_host (i := 4 + j) (by omega) (by omega)
  simp only [BitVec.getLsbD_extractLsb', State.writeStream_ctl, getLsbD_keep _ _ _ (show 4 + j < 6 by omega), hkept, if_true]

theorem State.writeStream_ctl_zero (s : State) (i : StreamId) (folkai : Bool) (v : W64) :
    ((s.writeStream i 0x20 folkai v).stream i).ctl.getLsbD 0 = v.getLsbD 0 := by
  rw [State.writeStream_ctl, getLsbD_keep _ _ _ (by decide), Stream.ctlKept_zero]
  simp [slice]

/-! ### Registers by their offsets -/

/-- A write that is not to a whole register does nothing (R13; log entry 35). -/
theorem execRegisterWrite_unaligned {off : Nat} (h : off % 8 ≠ 0) (folkai : Bool) (v : W64) (s : State) :
    execRegisterWrite off folkai v s = .next s := by
  simp only [execRegisterWrite, if_pos h]

/-- The offset of CTL of stream n of the first die (R355). -/
theorem execRegisterWrite_ctl (n : BitVec 6) (folkai : Bool) (v : W64) (s : State) :
    execRegisterWrite (0x100000 + 0x40 * n.toNat + 0x20) folkai v s = .next (s.writeStream ⟨false, n⟩ 0x20 folkai v) := by
  have hn : n.toNat < 64 := n.isLt
  have hid : streamAt (0x100000 + 0x40 * n.toNat + 0x20 - 0x100000) = ⟨false, n⟩ := by
    have hq : (0x100000 + 0x40 * n.toNat + 0x20 - 0x100000) % 0x1000 / 0x40 = n.toNat := by omega
    rw [streamAt, hq, BitVec.ofNat_toNat, BitVec.setWidth_eq, decide_eq_false (by omega)]
  have hblock : (decide (0x100000 ≤ 0x100000 + 0x40 * n.toNat + 0x20) && decide (0x100000 + 0x40 * n.toNat + 0x20 < 0x102000)) = true := by
    simp only [Bool.and_eq_true, decide_eq_true_eq]; omega
  rw [execRegisterWrite, if_neg (by omega), if_pos hblock, hid, show (0x100000 + 0x40 * n.toNat + 0x20) % 0x40 = 0x20 by omega]

/-- The offset of the status register of port p (R432). -/
theorem execRegisterWrite_port {p : Nat} (h : p < 36) (folkai : Bool) (v : W64) (s : State) :
    execRegisterWrite (0x1C1000 + 16 * p) folkai v s = .next (s.writeAdmin p v) := by
  have hq : (0x1C1000 + 16 * p - 0x1C1000) / 16 = p := by omega
  rw [execRegisterWrite, if_neg (by omega), if_neg (by simp; omega), if_neg (by simp; omega), if_neg (by omega), if_neg (by omega),
    if_neg (by omega), if_pos (by simp; omega), hq]

/-- Settles O39: each clause is the rule of its register. -/
theorem hostRegisterWrites : Obligations.HostRegisterWrites := by
  unfold Obligations.HostRegisterWrites
  refine ⟨fun st ch v s => ?lease, fun st ch bank s => ⟨_, rfl, by simp⟩, fun v s => ?tsnap, fun n folkai dk tk valid s => ?key,
    fun i tail s => ?doorbell, fun i v s => ⟨_, rfl, s.clearWatchdog_watchdog i v⟩,
    fun folkai v s => ⟨?repwait, rfl, rfl, fun off h => execRegisterWrite_unaligned h folkai v s, fun p hp => ?port, fun n => ?ctl⟩⟩
  case lease =>
    refine ⟨?_, fun h => ?_⟩
    · obtain ⟨t, ht, hk⟩ := execLeaseWrite_handover st ch v s
      exact ⟨t, ht, by rw [hk], by rw [hk]⟩
    · obtain ⟨t, ht, hlease, hno, hopen⟩ := execLeaseHandoverEnd_governs h
      exact ⟨t, ht, hlease, hno, Channel.row_of_openRow_nil hopen⟩
  case tsnap =>
    rw [exec_tsnap, execTsnap, State.snapTelemetry]
    exact ⟨fun h => by rw [if_pos h], fun h => by rw [if_neg h]⟩
  case key =>
    rw [exec_keySlotWrite, execKeySlotWrite]
    refine ⟨fun h => ⟨_, by rw [if_pos (by simpa using h)], by simp⟩, fun hn hf => ?_⟩
    rw [if_neg (by simp [hf, hn])]
  case doorbell =>
    rw [exec_doorbell, execDoorbell]
    exact ⟨fun h => by rw [State.ringDoorbell_within h], fun h => by rw [State.ringDoorbell_beyond h]⟩
  case repwait => simp [execRegisterWrite, slice, BitVec.setWidth_eq_extractLsb']
  case port =>
    exact ⟨_, execRegisterWrite_port hp folkai v s, by rw [exec_linkAdminWrite, execLinkAdminWrite, ifPort_present hp], s.writeAdmin_admin p.toNat v⟩
  case ctl =>
    refine ⟨_, execRegisterWrite_ctl n folkai v s, ?_, s.writeStream_ctl_zero _ folkai v⟩
    rintro rfl
    exact s.writeStream_ctl_worldPriv _ v

end Sys2Proof.Machine
end

section
/-! Link tables: what a table that takes effect leaves of the links (R433, R434), by what the collectives that it breaks can change. -/

namespace Sys2Proof.Machine

/-! ### Operations that leave the links alone -/

/-- Two states with the same links, between which nothing that has left the package is taken back. -/
def State.keepsLinks (s t : State) : Prop := t.links = s.links ∧ s.out <+: t.out

theorem State.keepsLinks_refl (s : State) : s.keepsLinks s := ⟨rfl, [], List.append_nil _⟩

theorem State.keepsLinks_trans {s t u : State} (h : s.keepsLinks t) (g : t.keepsLinks u) : s.keepsLinks u :=
  ⟨g.1.trans h.1, h.2.trans g.2⟩

/-- A fold of steps that each keep the links keeps them. -/
theorem State.foldl_keepsLinks {β : Type} {f : State → β → State} (hf : ∀ s b, State.keepsLinks s (f s b)) (l : List β) (s : State) :
    s.keepsLinks (l.foldl f s) :=
  List.foldlRecOn l f s.keepsLinks_refl fun t h b _ => State.keepsLinks_trans h (hf t b)

theorem State.onCmd_keepsLinks (s : State) (id : Nat) (f : Cmd → Cmd) : s.keepsLinks (s.onCmd id f) := ⟨rfl, [], List.append_nil _⟩

theorem State.dropCmd_keepsLinks (s : State) (id : Nat) : s.keepsLinks (s.dropCmd id) := ⟨rfl, [], List.append_nil _⟩

theorem State.tally_keepsLinks (s : State) (off n : Nat) : s.keepsLinks (s.tally off n) := ⟨rfl, [], List.append_nil _⟩

/-! ### Collectives whose trees a table breaks (R283, R329, R434) -/

theorem State.laySector_keepsLinks (s : State) (pl : Place) (x : Sector) : s.keepsLinks (s.laySector pl x) := by
  cases pl <;> exact ⟨rfl, [], List.append_nil _⟩

theorem State.sendPoisoned_keepsLinks (s : State) (pl : Place) (faulty : Bool) (bs : List Byte) : s.keepsLinks (s.sendPoisoned pl faulty bs) := by
  unfold State.sendPoisoned
  split
  · split
    · exact ⟨rfl, _, rfl⟩
    · exact s.keepsLinks_refl
  · exact s.keepsLinks_refl

theorem State.putHome_keepsLinks (s : State) (l : Loc) (x : Sector) : s.keepsLinks (s.putHome l x) :=
  State.keepsLinks_trans (s.laySector_keepsLinks _ _) (State.sendPoisoned_keepsLinks _ _ _ _)

theorem State.collPoison_keepsLinks (s : State) (r : Reach) (j : CollJob) (c : Nat) : s.keepsLinks (s.collPoison r j c) :=
  State.foldl_keepsLinks (fun t _ => t.putHome_keepsLinks _ _) _ s

theorem State.collRecord_keepsLinks (s : State) (r : Reach) (j : CollJob) (code : Nat) : s.keepsLinks (s.collRecord r j code) :=
  State.foldl_keepsLinks (fun t _ => t.putHome_keepsLinks _ _) _ s

theorem State.post_keepsLinks (s : State) (id : Nat) (x : W64) (core : Option Nat) : s.keepsLinks (s.post id x core) := by
  unfold State.post
  split
  · exact s.keepsLinks_refl
  · exact ⟨rfl, [], List.append_nil _⟩

theorem State.finish_keepsLinks (s : State) (k : Cmd) (code count : Nat) : s.keepsLinks (s.finish k code count) :=
  State.keepsLinks_trans (s.post_keepsLinks _ _ _) (State.dropCmd_keepsLinks _ _)

theorem State.collEnd_keepsLinks (s : State) (k : Cmd) (j : CollJob) (code : Nat) : s.keepsLinks (s.collEnd k j code) := by
  unfold State.collEnd
  have hrecord (off n : Nat) : s.keepsLinks ((s.collRecord k.reach j code).tally off n) :=
    State.keepsLinks_trans (s.collRecord_keepsLinks _ _ _) (State.tally_keepsLinks _ _ _)
  dsimp only
  split
  · exact State.keepsLinks_trans (hrecord _ _) (State.dropCmd_keepsLinks _ _)
  · exact State.keepsLinks_trans (hrecord _ _) (State.finish_keepsLinks _ _ _ _)

theorem State.collFail_keepsLinks (s : State) (k : Cmd) (j : CollJob) : s.keepsLinks (s.collFail k j) := by
  unfold State.collFail
  split
  · exact s.onCmd_keepsLinks _ _
  · exact State.keepsLinks_trans (State.foldl_keepsLinks (fun t c => t.collPoison_keepsLinks _ _ c) _ s) (State.collEnd_keepsLinks _ _ _ _)

theorem State.collRenew_keepsLinks (s : State) (counted : Bool) (epoch : Nat) (live : SMap (BitVec 36)) (k : Cmd) :
    s.keepsLinks (s.collRenew counted epoch live k) := by
  unfold State.collRenew
  split
  · split
    · exact s.keepsLinks_refl
    · split
      · exact s.collFail_keepsLinks _ _
      · refine State.keepsLinks_trans ?_ (State.onCmd_keepsLinks _ _ _)
        split
        · exact s.keepsLinks_refl
        · exact s.tally_keepsLinks _ _
  · exact s.keepsLinks_refl

/-! ### Tables (R433) -/

theorem Links.acknowledge_sameButRecords (l : Links) (b : LinkBatch) : l.sameButRecords (l.acknowledge b) :=
  Links.sameButRecords_trans (m := { l with
      unacked := l.unacked.filter fun r => !b.changes.contains r
      batch := l.batch.filter fun r => !b.changes.contains r
      batchFrom := if (l.batch.filter fun r => !b.changes.contains r).isEmpty then none else l.batchFrom
      later := [] }) rfl
    (Links.foldl_take_sameButRecords _ _ _ _)

/-- The links with a table in effect under its epoch. -/
def Links.held (l : Links) (table : SMap (BitVec 36)) (epoch : BitVec 32) : Links :=
  { l with past := (l.epoch, l.live) :: l.past, live := table, epoch := epoch, alone := false }

/-- What follows a table's taking effect: records may be sent again, and the collectives of `s2` meet the table. -/
theorem State.meetTable_keeps (s : State) (c : Bool) (epoch : Nat) (table : SMap (BitVec 36)) :
    let s2 := if c then s else s.resend
    let t := s2.cmds.foldl (fun s k => s.collTable epoch table k) s2
    s.links.sameButRecords t.links ∧ s.out <+: t.out := by
  intro s2 t
  have hsend : s.sendsRecords s2 := by
    unfold s2
    split
    · exact s.sendsRecords_refl
    · exact s.resend_sendsRecords
  obtain ⟨hlinks, hout⟩ : s2.keepsLinks t := State.foldl_keepsLinks (fun u k => u.collRenew_keepsLinks _ _ _ k) _ s2
  exact ⟨hlinks ▸ hsend.2, hsend.1.2.trans hout⟩

/-- A table that takes effect is held under its epoch, and takes nothing back that has left the package. -/
theorem State.takeTable_held (s : State) (table : SMap (BitVec 36)) (b : LinkBatch) :
    (s.links.held table b.epoch).sameButRecords (s.takeTable table b).links ∧ s.out <+: (s.takeTable table b).out := by
  obtain ⟨hlinks, hout⟩ := State.meetTable_keeps
    (s.onLinks fun l => ({ l.held table b.epoch with keeper := l.lowest table } : Links).acknowledge b) _ b.epoch.toNat table
  exact ⟨Links.sameButRecords_trans (Links.sameButRecords_trans (m := { s.links.held table b.epoch with keeper := s.links.lowest table }) rfl
    (Links.acknowledge_sameButRecords _ b)) hlinks, hout⟩

/-- A batch that is the next in order is applied to the table held. -/
theorem State.applyBatch_held (s : State) (b : LinkBatch) :
    (s.links.held (b.changes.foldl applyChange s.links.live) b.epoch).sameButRecords (s.applyBatch b).links ∧ s.out <+: (s.applyBatch b).out :=
  s.takeTable_held _ b

/-- The state from which a table is taken whole: nothing gathered, and no batch waiting. -/
def State.clearGathered (s : State) : State := s.onLinks fun l => { l with waiting := [], batch := [], batchFrom := none, later := [] }

/-- A package that takes the table whole holds it and has joined. -/
theorem State.takeWhole_held (s : State) (b : LinkBatch) :
    ({ s.links.held (b.changes.foldl applyChange []) b.epoch with waiting := [], joined := true } : Links).sameButRecords (s.takeWhole b).links := by
  have hjoin : ({ s.links.held (b.changes.foldl applyChange []) b.epoch with waiting := [], joined := true } : Links).sameButRecords
      { (s.clearGathered.takeTable (b.changes.foldl applyChange []) b).links with joined := true } := by
    have htable := (s.clearGathered.takeTable_held (b.changes.foldl applyChange []) b).1
    unfold Links.sameButRecords at htable
    rw [htable]
    rfl
  refine Links.sameButRecords_trans (Links.sameButRecords_trans hjoin ?_) (State.resendPorts_sendsRecords _).2
  split
  · exact (State.resend_sendsRecords _).2
  · exact Links.sameButRecords_refl _

/-- With no batch waiting, none is applied. -/
theorem State.applyWaiting_nil {s : State} (h : s.links.waiting = []) (n : Nat) : s.applyWaiting n = s := by
  cases n <;> simp [State.applyWaiting, h]

end Sys2Proof.Machine
end

section
/-! Fabric events: flits and port states (R430, R431), change records and epochs (R433), exchanges with the time master (R435, R436), and O41. -/

namespace Sys2Proof.Machine

/-! ### Port states (R431) -/

/-- 100 ms in DOWN without admin-down: TRAINING. -/
theorem execLinkDownTimeout_due {p : BitVec 6} {s : State} (hp : p.toNat < 36) (hstate : (s.port p.toNat).state = 0)
    (hadmin : (s.port p.toNat).admin = false) (hdue : (s.port p.toNat).since + 100000000 ≤ s.chip) :
    execLinkDownTimeout p s = .next (s.onPort p.toNat fun q => { q with state := 1, since := s.chip }) := by
  rw [execLinkDownTimeout, ifPort_present hp, if_pos (by simp [hstate, hadmin, hdue])]

/-- A port that trains with the package's own number, or gives it its number, enters HOLD. -/
theorem State.linkTrained_hold {s : State} {n : Nat} {reported : BitVec 8} (hstate : (s.port n).state = 1)
    (hself : s.links.selfValid = false ∨ s.links.self = reported) :
    ((s.linkTrained n reported).port n).state = 2 ∧ (s.linkTrained n reported).links.self = reported ∧
      (s.linkTrained n reported).links.selfValid = true := by
  have hmatch : ¬ (s.links.selfValid && decide (s.links.self ≠ reported)) = true := by
    rcases hself with h | h <;> simp [h]
  have hports (f : Links → Links) (hf : ∀ l, (f l).ports = l.ports) (g : Port → Port) : ((s.onPort n g).onLinks f).port n = g (s.port n) :=
    (State.port_congr (hf _) n).trans (s.port_onPort_same n g)
  rw [State.linkTrained, if_neg (by simp [hstate]), if_neg hmatch]
  refine ⟨?_, ?_⟩
  · rw [hports _ fun l => by split <;> rfl]
  · cases hvalid : s.links.selfValid
    · simp [State.onLinks, State.onPort, hvalid]
    · have : s.links.self = reported := hself.resolve_left (by simp [hvalid])
      simp [State.onLinks, State.onPort, hvalid, this]

/-- A port that reports another number than the package's is held DOWN (R429). -/
theorem State.linkTrained_mismatch {s : State} {n : Nat} {reported : BitVec 8} (hstate : (s.port n).state = 1)
    (hvalid : s.links.selfValid = true) (hself : s.links.self ≠ reported) :
    ((s.linkTrained n reported).port n).state = 0 ∧ (s.linkTrained n reported).links.self = s.links.self := by
  rw [State.linkTrained, if_neg (by simp [hstate]), if_pos (by simp [hvalid, hself]), State.port_onPort_same]
  exact ⟨rfl, rfl⟩

/-- One second in HOLD: LIVE. -/
theorem execLinkHoldExpire_due {p : BitVec 6} {s : State} (hp : p.toNat < 36) (hstate : (s.port p.toNat).state = 2)
    (hdue : (s.port p.toNat).since + 1000000000 ≤ s.chip) :
    ∃ t, execLinkHoldExpire p s = .next t ∧ (t.port p.toNat).state = 3 := by
  refine ⟨_, by rw [execLinkHoldExpire, ifPort_present hp, if_pos (by simp [hstate, hdue])], ?_⟩
  rw [State.port_congr (State.sendsRecords_ports (State.sendChange_sendsRecords _ _)), State.port_onPort_same]

/-! ### Flits (R430) -/

theorem execMivisFlit_good {p : BitVec 6} (hp : p.toNat < 36) (b : FlitBody) (s : State) :
    execMivisFlit p true b s = .next (if (s.port p.toNat).state = 3 then s.takeBody p.toNat b else s) := ifPort_present hp _ _

theorem execMivisFlit_bad {p : BitVec 6} (hp : p.toNat < 36) (b : FlitBody) (s : State) :
    execMivisFlit p false b s = .next (if 2 ≤ (s.port p.toNat).state.toNat then s.replayFlit p.toNat else s) := ifPort_present hp _ _

/-- A flit is replayed: noted, counted and asked for again. -/
def State.noteReplay (s : State) (n : Nat) : State :=
  ((s.onPort n fun p => { p with replays := (s.port n).replay s.chip }).tally (0x300 + 16 * n) 1).emit (.replay n)

theorem State.noteReplay_port (s : State) (n : Nat) : (s.noteReplay n).port n = { s.port n with replays := (s.port n).replay s.chip } :=
  s.port_onPort_same n fun p => { p with replays := (s.port n).replay s.chip }

theorem State.replayFlit_few {s : State} {n : Nat} (h : ((s.port n).replay s.chip).length ≤ 1024) : s.replayFlit n = s.noteReplay n :=
  if_neg (Nat.not_lt.2 h)

theorem State.replayFlit_many {s : State} {n : Nat} (h : 1024 < ((s.port n).replay s.chip).length) :
    s.replayFlit n = (s.noteReplay n).portDown n := if_pos h

theorem State.replayFlit_sameButFabric (s : State) (n : Nat) : s.sameButFabric (s.replayFlit n) := by
  have hnote : s.sameButFabric (s.noteReplay n) := ⟨rfl, _, rfl⟩
  rcases Nat.lt_or_ge 1024 ((s.port n).replay s.chip).length with h | h
  · rw [State.replayFlit_many h]
    exact State.sameButFabric_trans hnote (State.portDown_sameButFabric _ _)
  · rwa [State.replayFlit_few h]

/-! ### Change records (R433) -/

/-- Following what is gathered changes the keeper alone. -/
theorem Links.follow_sameButKeeper (l : Links) : l.follow = { l with keeper := l.follow.keeper } := by
  unfold Links.follow
  split <;> rfl

/-- A package that has joined keeps a keeper that what it has gathered leaves present. -/
theorem Links.follow_of_present {l : Links} (hj : l.joined = true) (h : SMap.get 0 l.ahead l.keeper.toNat ≠ 0) : l.follow = l := by
  rw [Links.follow, if_neg (by simpa [hj] using h)]

theorem Links.take_keeper (l : Links) (r : LinkChange) (now : Nat) : (l.take r now).keeper = l.keeper := by
  unfold Links.take
  split
  · rfl
  · split <;> rfl

theorem Links.take_first {l : Links} (h : l.batchFrom = none) (r : LinkChange) (now : Nat) :
    l.take r now = { l with batch := l.batch ++ [r], batchFrom := some now } := by rw [Links.take, h]

theorem Links.take_within {l : Links} {t now : Nat} (h : l.batchFrom = some t) (hnow : now ≤ t + 10000) (r : LinkChange) :
    l.take r now = { l with batch := l.batch ++ [r] } := by
  rw [Links.take, h]
  exact if_pos hnow

theorem Links.take_after {l : Links} {t now : Nat} (h : l.batchFrom = some t) (hnow : t + 10000 < now) (r : LinkChange) :
    l.take r now = { l with later := l.later ++ [(r, now)] } := by
  rw [Links.take, h]
  exact if_neg (Nat.not_le.2 hnow)

theorem State.gather_of_present {s : State} {r : LinkChange} (hj : s.links.joined = true)
    (h : SMap.get 0 (s.links.take r s.chip).ahead s.links.keeper.toNat ≠ 0) : s.gather r = { s with links := s.links.take r s.chip } := by
  have hfollow : (s.links.take r s.chip).follow = s.links.take r s.chip :=
    Links.follow_of_present ((Links.sameButRecords_joined (s.links.take_sameButRecords r s.chip)).trans hj) (by rwa [Links.take_keeper])
  exact congrArg (fun l => { s with links := l }) hfollow

/-- A record that changes neither the keeper nor whether it is this package is gathered, and that is all. -/
theorem execChangeRecord_settled {r : LinkChange} {s : State} (hkeeper : (s.gather r).links.keeper = s.links.keeper)
    (hkeeps : (s.gather r).links.keeps = s.links.keeps) : execChangeRecord r s = .next (s.gather r) := by
  rw [execChangeRecord, if_pos (by simp [hkeeper, hkeeps])]

/-- Else the records not acknowledged are sent again. -/
theorem execChangeRecord_moved {r : LinkChange} {s : State}
    (h : (s.gather r).links.keeper ≠ s.links.keeper ∨ (s.gather r).links.keeps ≠ s.links.keeps) :
    execChangeRecord r s = .next (s.gather r).resend := by
  rw [execChangeRecord, if_neg (by simpa [Decidable.imp_iff_not_or] using h)]

/-- The lowest package of its table that has not lost its ports keeps it. -/
theorem Links.keeps_attached {l : Links} (h : l.keeper = l.self) (ha : l.alone = false) : l.keeps = true := by
  simp [Links.keeps, h, ha]

/-- When a package that has lost every port keeps the table (log entry 56). -/
theorem Links.keeps_alone {l : Links} (h : l.keeper = l.self) (ha : l.alone = true) :
    l.keeps = true ↔ l.anyLive = true ∧
      ((∀ e ∈ l.live, e.1 = l.self.toNat ∨ e.2 = 0) ∨ (∃ r ∈ l.batch, r.pkg ≠ l.self) ∨ ∃ e ∈ l.later, e.1.pkg ≠ l.self) := by
  simp only [Links.keeps, h, ha, decide_true, Bool.true_and, Bool.not_true, Bool.false_or, Bool.and_eq_true, Bool.or_eq_true, List.any_append,
    List.all_eq_true, List.any_eq_true, List.any_map, decide_eq_true_eq, Function.comp_apply]

/-! ### Batches and tables (R433) -/

theorem State.foldl_emit_out {β : Type} (o : β → Output) (l : List β) (s : State) :
    (l.foldl (fun s b => s.emit (o b)) s).out = s.out ++ l.map o := by
  induction l generalizing s with
  | nil => simp
  | cons b l ih => simp [ih]

theorem State.foldl_emit_links {β : Type} (o : β → Output) (l : List β) (s : State) :
    (l.foldl (fun s b => s.emit (o b)) s).links = s.links := by
  induction l generalizing s with
  | nil => rfl
  | cons b l ih => exact ih _

/-- The keeper's window ends: everything in its flood leaves, and its batch is in effect. -/
theorem execKeeperBatch_due {s : State} {from_ : Nat} (hfrom : s.links.batchFrom = some from_) (hkeeps : s.links.keeps = true)
    (hdue : from_ + 10000 ≤ s.chip) :
    ∃ t, execKeeperBatch s = .next t ∧ t.links.epoch = s.links.epoch + 1 ∧
      t.links.live = s.links.batch.foldl applyChange s.links.live ∧ ∀ b ∈ s.links.flood, .batch b ∈ t.out := by
  let next := s.onLinks fun l => l.later.foldl (fun l r => l.take r.1 r.2) { l with batch := [], batchFrom := none, later := [] }
  let sent := s.links.flood.foldl (fun s b => s.emit (.batch b)) next
  have hnext : s.links.sameButRecords sent.links := by
    rw [State.foldl_emit_links]
    exact Links.sameButRecords_trans (m := { s.links with batch := [], batchFrom := none, later := [] }) rfl
      (Links.foldl_take_sameButRecords _ _ _ _)
  obtain ⟨hheld, hout⟩ := sent.applyBatch_held s.links.numbered
  refine ⟨_, by rw [execKeeperBatch, hfrom]; dsimp only; rw [if_pos (by simp [hkeeps, hdue])], Links.sameButRecords_epoch hheld, ?_, ?_⟩
  · refine (Links.sameButRecords_live hheld).trans ?_
    rw [Links.sameButRecords_live hnext]
    rfl
  · intro b hb
    refine hout.subset ?_
    rw [State.foldl_emit_out]
    exact List.mem_append_right _ (List.mem_map_of_mem hb)

theorem Links.numbered_mem_flood (l : Links) : l.numbered ∈ l.flood := List.mem_cons_self

theorem Links.tableWhole_mem_flood {l : Links} (h : l.joined = false ∨ l.alone = true ∨ l.admits = true) : l.tableWhole ∈ l.flood := by
  rw [Links.flood, if_pos (by rcases h with h | h | h <;> simp [h])]
  exact List.mem_cons_of_mem _ List.mem_cons_self

/-- A package that joins or rejoins takes no batch. -/
theorem execEpochBatchApply_apart {b : LinkBatch} {s : State} (hb : b.whole = false) (h : s.links.alone = true ∨ s.links.joined = false) :
    execEpochBatchApply b s = .next s := by
  rw [execEpochBatchApply, hb, if_neg Bool.false_ne_true, if_pos (by rcases h with h | h <;> simp [h])]

/-- What any other package does with a batch. -/
theorem execEpochBatchApply_part {b : LinkBatch} {s : State} (hb : b.whole = false) (ha : s.links.alone = false) (hj : s.links.joined = true) :
    execEpochBatchApply b s = .next (
      if b.epoch = s.links.epoch + 1 then (s.applyBatch b).applyWaiting (s.links.waiting.length + 1)
      else if s.links.epoch.toNat < b.epoch.toNat then s.onLinks fun l => { l with waiting := l.waiting ++ [b] }
      else s) := by
  rw [execEpochBatchApply, hb, if_neg Bool.false_ne_true, if_neg (by simp [ha, hj])]

/-- The next batch in order, with none waiting. -/
theorem execEpochBatchApply_next {b : LinkBatch} {s : State} (hb : b.whole = false) (ha : s.links.alone = false) (hj : s.links.joined = true)
    (hnext : b.epoch = s.links.epoch + 1) (hwait : s.links.waiting = []) : execEpochBatchApply b s = .next (s.applyBatch b) := by
  have hstill : (s.applyBatch b).links.waiting = [] := (Links.sameButRecords_waiting (s.applyBatch_held b).1).trans hwait
  rw [execEpochBatchApply_part hb ha hj, if_pos hnext, State.applyWaiting_nil hstill]

/-- An earlier batch is ignored. -/
theorem execEpochBatchApply_earlier {b : LinkBatch} {s : State} (hb : b.whole = false) (ha : s.links.alone = false) (hj : s.links.joined = true)
    (hearlier : b.epoch.toNat ≤ s.links.epoch.toNat) (hnext : b.epoch ≠ s.links.epoch + 1) : execEpochBatchApply b s = .next s := by
  rw [execEpochBatchApply_part hb ha hj, if_neg hnext, if_neg (Nat.not_lt.2 hearlier)]

theorem execEpochBatchApply_whole {b : LinkBatch} (hb : b.whole = true) (s : State) :
    execEpochBatchApply b s = .next (if s.links.joins b then s.takeWhole b else s) := by
  rw [execEpochBatchApply, hb, if_pos rfl]

/-! ### Exchanges with the time master (R435, R436) -/

theorem State.stepTime_out (s : State) (offset : Int) : (s.stepTime offset).out = s.out := by
  unfold State.stepTime
  split
  · rfl
  · rfl

theorem State.sync_out (s : State) (offset : Int) : (s.sync offset).out = s.out := by
  simp only [State.sync, State.onLinks_out]
  rw [apply_ite State.out, State.stepTime_out, ite_self]

/-- Ten exchanges within bound lock (R435). -/
theorem State.sync_locks {s : State} {offset : Int} (h : offset.natAbs ≤ 20) (hgood : 10 ≤ s.links.good + 1) :
    (s.sync offset).links.locked = true := by
  cases hl : s.links.locked
  · simp [State.sync, h, hgood, hl]
  · simp [State.sync, h, hgood, hl]

/-- Three exchanges beyond it leave lock (R435). -/
theorem State.sync_unlocks {s : State} {offset : Int} (h : 20 < offset.natAbs) (hbad : 3 ≤ s.links.bad + 1) :
    (s.sync offset).links.locked = false := by
  simp [State.sync, Nat.not_le.2 h, Nat.not_lt.2 hbad]

/-- Within bound nothing is slewed (R436). -/
theorem State.sync_slew {s : State} {offset : Int} (h : offset.natAbs ≤ 20) : (s.sync offset).links.slew = 0 := by
  have hslew : slewFor offset = 0 := by rw [slewFor, if_neg (by omega), if_neg (by omega)]
  simp [State.sync, hslew]

theorem State.firstLive_none {s : State} (h : ∀ p, p < 36 → (s.port p).state ≠ 3) : s.firstLive = none := by
  rw [State.firstLive, List.find?_range_eq_none]
  intro p hp
  simpa using h p hp

theorem State.firstLive_some {s : State} {p : Nat} (hp : p < 36) (hlive : (s.port p).state = 3) (hfirst : ∀ q, q < p → (s.port q).state ≠ 3) :
    s.firstLive = some p := by
  rw [State.firstLive, List.find?_range_eq_some]
  exact ⟨by simpa using hlive, List.mem_range.2 hp, fun q hq => by simpa using hfirst q hq⟩

/-- The exchange that is due over a LIVE port: the master's offset is zero, any other package's is measured (R435, log entry 57). -/
theorem execTimeSync_due {x : SyncTimes} {s : State} {p : Nat} (hfirst : s.firstLive = some p) (hdue : s.links.syncAt + 100000 ≤ s.chip) :
    execTimeSync x s = .next (if s.links.keeper = s.links.self then s.sync 0 else (s.emit (.sync p x.sent)).sync (syncOffset x s.chip)) := by
  rw [execTimeSync, hfirst]
  dsimp only
  rw [if_neg (Nat.not_lt.2 hdue)]

/-- What every exchange leaves of the lock and the slew, by the offset that it measures. -/
theorem State.sync_effect (s : State) (offset : Int) :
    ((s.sync offset).links.offset.natAbs ≤ 20 → 10 ≤ s.links.good + 1 → (s.sync offset).links.locked = true) ∧
    (20 < (s.sync offset).links.offset.natAbs → 3 ≤ s.links.bad + 1 → (s.sync offset).links.locked = false) ∧
    ((s.sync offset).links.offset.natAbs ≤ 20 → (s.sync offset).links.slew = 0) :=
  ⟨State.sync_locks, State.sync_unlocks, State.sync_slew⟩

/-- Settles O41: each clause is the rule of its event. -/
theorem fabricEvents : Obligations.FabricEvents := by
  unfold Obligations.FabricEvents
  refine ⟨fun p crcOk b reported v s hp => ?absent, fun p b s hp => ?flit, fun p s hp => ?port, fun r s => ?record,
    fun l h => ⟨Links.keeps_attached h, Links.keeps_alone h⟩, fun r now l => ?window, fun from_ s hfrom hkeeps hdue => ?keeper,
    fun b s hb => ?batch, fun b s hb => ?whole, fun x s => ?sync⟩
  case absent =>
    have hnone := ifPort_absent hp s
    exact ⟨hnone _, hnone _, hnone _, hnone _, hnone _, hnone _⟩
  case flit =>
    simp only [exec_mivisFlit, execMivisFlit_good hp, execMivisFlit_bad hp]
    refine ⟨fun h => by rw [if_neg h], fun h => ⟨by rw [if_pos h], ?_⟩, fun h => by rw [if_neg (Nat.not_le.2 h)],
      fun h => ⟨_, by rw [if_pos h], ?_⟩⟩
    · rintro x rfl hvalid hkeeper
      rw [State.takeBody, if_pos (by simp [hvalid, hkeeper]), State.out_emit]
    · have hrest := s.replayFlit_sameButFabric p.toNat
      refine ⟨State.sameButFabric_dev hrest, State.sameButFabric_rings hrest, fun hfew => ?_, fun hmany => ?_⟩
      · rw [State.replayFlit_few hfew, State.noteReplay_port]
        exact ⟨rfl, List.mem_append_right _ (List.mem_singleton_self _)⟩
      · rw [State.replayFlit_many hmany, State.portDown_port]
  case port =>
    refine ⟨⟨_, ifPort_present hp _ _, ?_⟩, fun h ha hd => ?_, fun reported h hself => ?_, fun reported h hv hself => ?_,
      fun h hd => execLinkHoldExpire_due hp h hd, fun v => ⟨_, ifPort_present hp _ _, s.writeAdmin_admin _ v, State.writeAdmin_down⟩⟩
    · rw [State.portDown_port]
      exact ⟨rfl, rfl, State.portDown_selfValid⟩
    · exact ⟨_, execLinkDownTimeout_due hp h ha hd, by rw [State.port_onPort_same]⟩
    · exact ⟨_, ifPort_present hp _ _, State.linkTrained_hold h hself⟩
    · exact ⟨_, ifPort_present hp _ _, State.linkTrained_mismatch h hv hself⟩
  case record =>
    intro l g
    have hg : g.links = { l with keeper := g.links.keeper } := l.follow_sameButKeeper
    refine ⟨by rw [hg], by rw [hg], by rw [hg], ?_, fun hj hpresent hkeeps => ?_, execChangeRecord_settled, execChangeRecord_moved⟩
    · have hlive : l.live = s.links.live := Links.sameButRecords_live (s.links.take_sameButRecords r s.chip)
      rw [hg, hlive]
    · have hgather : g = { s with links := l } := State.gather_of_present hj hpresent
      rw [← hgather]
      refine execChangeRecord_settled ?_ ?_
      · exact (congrArg (fun t : State => t.links.keeper) hgather).trans (Links.take_keeper _ _ _)
      · exact (congrArg (fun t : State => t.links.keeps) hgather).trans hkeeps
  case window =>
    refine ⟨fun h => ?_, fun t h => ⟨fun hn => ?_, fun hn => ?_⟩⟩
    · simp [Links.take_first h]
    · simp [Links.take_within h hn]
    · simp [Links.take_after h hn]
  case keeper =>
    intro live
    obtain ⟨t, ht, hepoch, hlive, hflood⟩ := execKeeperBatch_due hfrom hkeeps hdue
    exact ⟨t, ht, hepoch, hlive, hflood _ s.links.numbered_mem_flood, fun h => hflood _ (Links.tableWhole_mem_flood h)⟩
  case batch =>
    refine ⟨execEpochBatchApply_apart hb, fun ha hj => ⟨fun hnext hwait => ?_, execEpochBatchApply_earlier hb ha hj⟩⟩
    obtain ⟨hheld, -⟩ := s.applyBatch_held b
    exact ⟨_, execEpochBatchApply_next hb ha hj hnext hwait, Links.sameButRecords_epoch hheld, Links.sameButRecords_live hheld⟩
  case whole =>
    rw [exec_epochBatchApply, execEpochBatchApply_whole hb]
    refine ⟨fun ha => by rw [Links.joins, if_pos ha], fun hjoins => by rw [hjoins, if_neg Bool.false_ne_true], fun hjoins => ⟨_, rfl, ?_⟩⟩
    have hheld := s.takeWhole_held b
    rw [if_pos hjoins]
    exact ⟨Links.sameButRecords_epoch hheld, Links.sameButRecords_alone hheld, Links.sameButRecords_joined hheld, Links.sameButRecords_live hheld⟩
  case sync =>
    refine ⟨fun h => ⟨_, by rw [exec_timeSync, execTimeSync, State.firstLive_none h], rfl⟩, fun p hp hlive hfirst => ?_⟩
    have hport := State.firstLive_some hp hlive hfirst
    refine ⟨fun hearly => ?_, fun hdue => ⟨_, execTimeSync_due hport hdue, ?_⟩⟩
    · rw [exec_timeSync, execTimeSync, hport]
      exact congrArg Host.Outcome.next (if_pos hearly)
    · split
      · exact ⟨fun _ => rfl, fun h => absurd ‹_› h, s.sync_effect 0⟩
      · refine ⟨fun h => absurd h ‹_›, fun _ => ⟨?_, rfl⟩, State.sync_effect _ _⟩
        rw [State.sync_out, State.out_emit]
        exact List.mem_append_right _ (List.mem_singleton_self _)

end Sys2Proof.Machine
end

section
/-! Vector reductions, the scan, permutes and moves (R115, R116, R219 to R225): what each shape of a V operation changes, and O12. -/

namespace Sys2Proof.Machine

/-! ### Shapes of the V slots (R202, R219) -/

/-- An instruction that `vecOp` gives its meaning lands the elements that the mask enables (R202). -/
theorem landsV_of_vecOp {i : Instr} {o : VOp} {lat : Nat} {tag : Ctx → Bool} {f : Ctx → Nat → Flagged Nat}
    (h : ∀ s, exec i s = vecOp o lat tag f s) : Claims.landsV i o lat f tag := fun s => by
  rw [h, vecOp, slotOp_noCheck]

/-- What a V operation lands depends on the values of its elements alone. -/
theorem landsV_congr {i : Instr} {o : VOp} {lat : Nat} {tag : Ctx → Bool} {f g : Ctx → Nat → Flagged Nat}
    (h : Claims.landsV i o lat f tag) (hfg : ∀ c e, f c e = g c e) : Claims.landsV i o lat g tag :=
  (funext fun c => funext (hfg c) : f = g) ▸ h

/-- An instruction that `reduceOp` gives its meaning lands element 0 alone, from the tree over the lanes that the mask enables (R219). -/
theorem changes_of_reduceOp {i : Instr} {o : VOp} {op : Nat → Nat → Flagged Nat} {empty : Nat} (h : ∀ s, exec i s = reduceOp o op empty s) :
    Claims.changes i fun c =>
      let r := treeReduce op (levels o) (lanesIn o c)
      c.landRes 6 o.vd o.ty.bits ⟨[(0, (numFmt o).canon (r.1.getD empty))], r.2⟩ (c.vTag o.va || c.mTag o.m) := fun s => by
  rw [h, reduceOp, slotOp_noCheck]

/-- The scan lands its enabled lanes (R220). -/
theorem changes_vSadd (o : VOp) : Claims.changes (.vSadd o) fun c =>
    let r := scanAll (elemAdd (numFmt o) o.rm.toNat o.sat) ((lanesIn o c).map fun x => x.isSome) (levels o) 1 (lanesIn o c)
    c.landRes 6 o.vd o.ty.bits ⟨(enabledElems o c).map fun e => (e, (numFmt o).canon ((r.1.getD e none).getD 0)), r.2⟩
      (c.vTag o.va || c.mTag o.m) := fun s => by
  rw [exec_vSadd, execVSadd, slotOp_noCheck]

/-- Settles O12: each operation is of its shape; of the patterns of `shuf`, `.ev` and `.od` differ by half of the destination (R222). -/
theorem vectorReductionsAndMoves : Obligations.VectorReductionsAndMoves := by
  unfold Obligations.VectorReductionsAndMoves
  refine ⟨fun o => ⟨?radd, ?rmax, ?rmin, ?sadd, ?perm, ?shuf, ?bcast, ?slide, ?mov⟩, fun u m ty vd imm => ?movi⟩
  case radd => exact changes_of_reduceOp (exec_vRadd o)
  case rmax => exact changes_of_reduceOp (exec_vRmax o)
  case rmin => exact changes_of_reduceOp (exec_vRmin o)
  case sadd => exact changes_vSadd o
  case perm => exact landsV_of_vecOp (exec_vPerm o)
  case shuf =>
    refine landsV_congr (landsV_of_vecOp (exec_vShuf o)) fun c e => congrArg Claims.plain ?_
    generalize o.ext.toNat = pattern
    match pattern with
    | 0 | 1 => rfl
    | 2 | _ + 3 => by_cases h : e < o.ty.count / 2 <;> simp [shufSource, h]
  case bcast => exact landsV_of_vecOp (exec_vBcast o)
  case slide => exact landsV_of_vecOp (exec_vSlide o)
  case mov => exact landsV_of_vecOp (exec_vMov o)
  case movi =>
    intro s
    simpa only [Bool.false_or, enabledElems, Claims.plain] using landsV_of_vecOp (exec_vMovi u m ty vd imm) s

end Sys2Proof.Machine
end
